-- ==== Sys2Proof/Word.lean ====
section
/-! DEFINITION. The word types of the part and the names of its numbered units (00_scope.md R9, R11 to R13). -/

namespace Sys2Proof

/-- A 32-bit register, or a binary32 value. -/
abbrev Word := BitVec 32
/-- A 64-bit counter, address or binary64 value. -/
abbrev Dbl := BitVec 64
/-- A byte; also a TW8, BS8, NF8 or NG8 code (R58). -/
abbrev Byte := BitVec 8

/-- Dies 0 to 7 (R9). -/
abbrev DieId := Fin 8
/-- Partitions P0 to P15 (R13). -/
abbrev Pid := Fin 16
/-- Ring sets 0 to 63 (R287). -/
abbrev SetId := Fin 64
/-- Clove tiles, spares 4096 to 4159 included (R9). -/
abbrev TileId := Fin 4160
/-- Leaves L0 to L3 (R11). -/
abbrev LeafId := Fin 4
/-- Mace cubes of a die (R9). -/
abbrev CubeId := Fin 1024
/-- W-units of a die (R9). -/
abbrev WUnitId := Fin 64
/-- Cardamom ports of a die (R9). -/
abbrev PortId := Fin 4
/-- Handshake channel classes HS0 to HS7 (R30). -/
abbrev HsClass := Fin 8

end Sys2Proof
end

