-- ==== Sys2Proof/Syntax.lean ====
section
/-! DEFINITION. The commands the module takes, one constructor per row of spec/opcode_table.json, and the objects they
carry: descriptors, the almanac container, packages, images, frames, flits, readings. Nothing here has a meaning yet. -/

namespace Sys2Proof

/-- Where a register access or request comes from (R384, R435): the host over CXL, or the management path. -/
inductive Source where
  | host | mgmt
  deriving DecidableEq, Repr

/-- The doorbell line as the part re-reads it (R288). -/
structure Doorbell where
  subTail : Word
  cplHead : Word
  release : Word
  deriving DecidableEq, Repr

/-- A 64-byte descriptor (R291). `operands` are its bytes 0x10 to 0x3F, byte 0x10 lowest. -/
structure Desc where
  opcode   : Byte
  flags    : Byte
  rsvd     : BitVec 16
  seq      : Word
  tag      : Dbl
  operands : BitVec 384
  deriving DecidableEq, Repr

/-! ### The almanac container (R273 to R286, R320 to R324, R342) -/

/-- A directory entry (R274). -/
structure DirEntry where
  typ     : Nat
  variant : Nat
  die     : Nat
  rsvd0   : Nat
  offset  : Nat
  length  : Nat
  count   : Nat
  rsvd1   : Nat
  deriving DecidableEq, Repr

/-- The signature section (R279), with the verdict of the two verifications over the bytes read (log entry 7). -/
structure Signature where
  rsaKeyId : Dbl
  slhKeyId : Dbl
  rsaOk    : Bool
  slhOk    : Bool
  deriving DecidableEq, Repr

/-- The job header (R276). `wrapSet` is SET_ID of JOB_KEY_WRAP; `wrapOk` whether J unwraps under that set's SK (R399). -/
structure JobHeader where
  accN         : Nat
  fbBudget     : Nat
  fbClean      : Nat
  stormClean   : Nat
  smpShift     : Nat
  prefetchLead : Nat
  clipNorm     : Word
  lscale       : Word
  policy       : Word
  devices      : Nat
  deviceIndex  : Nat
  preemptGap   : Nat
  rsvd         : Nat
  wrapSet      : Dbl
  wrapOk       : Bool
  wrapRsvd     : Nat
  jobSecret    : BitVec 256
  deriving DecidableEq, Repr

/-- A layer entry (R277). -/
structure LayerEntry where
  slice           : BitVec 16
  flags           : BitVec 16
  rep             : Word
  t               : Nat
  width           : Nat
  epactCap        : Nat
  aniseSlots      : Nat
  promotePermille : Nat
  fbLimit         : Nat
  u               : Int
  firstTensor     : Nat
  tensors         : Nat
  rsvd            : Nat
  deriving DecidableEq, Repr

/-- A tensor entry (R278). -/
structure TensorEntry where
  layer     : Nat
  cls       : Nat
  flags     : Byte
  margin    : Nat
  site      : Nat
  drop16    : Nat
  coldStart : Word
  rsvd      : Nat
  deriving DecidableEq, Repr

/-- A run of outputs of one layer placed on one leaf (R104). `rows` is the reduction length held there, at most 256;
`digital` marks outputs that a variant computes on the cubes (R48). The section's byte layout is not in the spec. -/
structure PlaceEntry where
  variant   : Nat
  layer     : Nat
  outFirst  : Nat
  outCount  : Nat
  die       : Nat
  tile      : Nat
  leaf      : Nat
  laneFirst : Nat
  rows      : Nat
  frozen    : Bool
  digital   : Bool
  deriving DecidableEq, Repr

/-- Formats of a cube operand (R209, R215, R216). -/
inductive CubeFmt where
  | ng8 | nf8 | biBlock | biScaled | tw8 | bin16
  deriving DecidableEq, Repr

/-- The cube's kinds of operation (R209, R215 to R217). `cmp` carries its 3-bit REL. -/
inductive CubeKind where
  | madd | ada | sda | minPlus | maxPlus | cmp (rel : Nat)
  deriving DecidableEq, Repr

/-- What a schedule says of one cube operation, as far as the load-time refusals read it (R209, R214, R215, R217).
`keepsKind` is the kind that wrote the half ACC_KEEP names, `keepsSame` whether it is of this pass and cube;
`srcAct` names a layer whose output the operation takes as operand. -/
structure SchedOp where
  kind      : CubeKind
  fmtA      : CubeFmt
  fmtB      : CubeFmt
  expA      : Int
  expB      : Int
  accKeep   : Bool
  keepsKind : CubeKind
  keepsSame : Bool
  srcAct    : Option Nat
  deriving DecidableEq, Repr

/-- A SCHEDULE section (R275): its operations and the units of its die that it names (R389). -/
structure Schedule where
  variant    : Nat
  die        : Nat
  ops        : List SchedOp
  cubeGroups : List Nat
  wunits     : List Nat
  sramBytes  : Nat
  deriving DecidableEq, Repr

/-- A stash tensor entry and a region entry (R342). -/
structure StashTensor where
  tensor        : Nat
  rsvd          : Nat
  bytesPerToken : Nat
  deriving DecidableEq, Repr

structure Region where
  variant : Nat
  die     : Nat
  kind    : Nat
  partner : Nat
  base    : Nat
  size    : Nat
  rsvd    : Nat
  deriving DecidableEq, Repr

/-- The STASH section (R342). -/
structure StashPlan where
  tier1   : Nat
  tier3   : Nat
  rsvd    : Nat
  tensors : List StashTensor
  regions : List Region
  deriving DecidableEq, Repr

/-- A port named as in R320: valid bit, die, port. -/
structure PortRef where
  valid : Bool
  die   : DieId
  port  : PortId
  deriving DecidableEq, Repr

/-- A ring entry (R320). -/
structure RingEntry where
  ring        : Nat
  n           : Nat
  pos         : Nat
  inp         : PortRef
  out         : PortRef
  altIn       : PortRef
  altOut      : PortRef
  pred        : Nat
  succ        : Nat
  firstBucket : Nat
  buckets     : Nat
  closing     : Bool
  rsvd        : Nat
  deriving DecidableEq, Repr

/-- A bucket entry and a closing slot entry (R320). -/
structure BucketEntry where
  bucket : Nat
  ring   : Nat
  elems  : Nat
  source : Nat
  rsvd   : Nat
  deriving DecidableEq, Repr

structure SlotEntry where
  slot        : Nat
  contributor : Nat
  mirror      : Nat
  rsvd        : Nat
  deriving DecidableEq, Repr

/-- A RING_ORDER section of one variant (R320). -/
structure RingOrder where
  variant : Nat
  closing : Nat
  rings   : List RingEntry
  buckets : List BucketEntry
  slots   : List SlotEntry
  deriving DecidableEq, Repr

/-- A MIRROR entry (R324), a DEADLINE entry (R322), a PREEMPT entry (R283), a GATHER entry (R286). -/
structure MirrorEntry where
  variant : Nat
  period  : Nat
  phase   : Nat
  primary : Nat
  mirror  : Nat
  ring    : Nat
  port    : PortRef
  role    : Nat
  rsvd    : Nat
  deriving DecidableEq, Repr

structure DeadlineEntry where
  variant    : Nat
  kind       : Nat
  index      : Nat
  durationNs : Nat
  rsvd       : Nat
  deriving DecidableEq, Repr

/-- `inExchange` and `phase` say where the point lies (R283: no point inside an exchange or in phases 6 and 7). -/
structure PreemptEntry where
  variant    : Nat
  point      : Nat
  segment    : Nat
  drainNs    : Nat
  phase      : Nat
  inExchange : Bool
  rsvd       : Nat
  deriving DecidableEq, Repr

structure GatherEntry where
  gatherId : Nat
  layer    : Nat
  capacity : Nat
  rowBytes : Nat
  source   : Nat
  rsvd     : Nat
  deriving DecidableEq, Repr

/-- Blocks of a layer whose TRAIN bit is 0 (R232): output and block. -/
structure MaskHole where
  layer : Nat
  out   : Nat
  block : Nat
  deriving DecidableEq, Repr

/-- A block whose width the block-width table gives (R70). -/
structure BlockWidth where
  layer : Nat
  block : Nat
  width : Nat
  deriving DecidableEq, Repr

/-- Functions of the W-unit lanes (R221). Those whose name ends in 64 work on binary64 values, each in two registers, the low word
first; `toF64` and `toF32` convert between the two, `toF16` and `ofF16` between binary32 and binary16 in a register's low half, and
`ofCount` an unsigned count to binary32 (R217). -/
inductive WFn where
  | add | sub | mul | fma | min | max | abs | neg | select | lt | eq
  | div | sqrt | recip | rsqrt | exp | log | exp2 | log2
  | add64 | sub64 | mul64 | fma64 | toF64 | toF32 | toF16 | ofF16 | ofCount
  deriving DecidableEq, Repr

/-- One operation of a W-unit program: `dst := fn a b c` over numbered 32-bit program registers (R222). -/
structure WInstr where
  fn  : WFn
  dst : Nat
  a   : Nat
  b   : Nat
  c   : Nat
  deriving DecidableEq, Repr

/-- The constants of a normalisation in the WPROG section (R224): its eps, and whether it is the mean-variance form. -/
structure NormEntry where
  eps     : Word
  meanVar : Bool
  deriving DecidableEq, Repr

/-- A run of masked elements of a soft-maximum mask pattern's row, in the MASK section (R225). -/
structure SoftMask where
  pattern : Nat
  row     : Nat
  first   : Nat
  count   : Nat
  deriving DecidableEq, Repr

/-- The optimiser program of the WPROG section, or another program of it: `words` optimiser words per weight (O = 4 x words bytes), its constants,
its operations, the register holding the update and those written back (R95, R222). Register 0 is the clipped gradient,
register 1 the master, 2 onward the optimiser words, then the constants. -/
structure WProg where
  words  : Nat
  consts : List Word
  code   : List WInstr
  update : Nat
  back   : List Nat
  deriving DecidableEq, Repr

/-- The container of an almanac as the part reads it (R273, R275). -/
structure Container where
  magic       : Dbl
  format      : Nat
  rsvd0       : Nat
  hdrLen      : Nat
  totalLen    : Nat
  baseSet     : BitVec 8
  lossSet     : BitVec 8
  digitalSet  : BitVec 16
  layers      : Nat
  rsvd1       : Nat
  shareMax    : Nat
  almanacId   : BitVec 128
  toolVersion : Dbl
  rsvd2       : Nat
  dir         : List DirEntry
  job         : JobHeader
  layerTab    : List LayerEntry
  tensorTab   : List TensorEntry
  placement   : List PlaceEntry
  schedules   : List Schedule
  stash       : StashPlan
  ringOrders  : List RingOrder
  mirrors     : List MirrorEntry
  deadlines   : List DeadlineEntry
  preempts    : List PreemptEntry
  gathers     : List GatherEntry
  maskHoles   : List MaskHole
  blockWidths : List BlockWidth
  softMasks   : List SoftMask
  wprog       : WProg
  programs    : List WProg
  norms       : List NormEntry
  sig         : Signature
  digest      : BitVec 384
  deriving DecidableEq, Repr

/-! ### Packages, images, records, packs -/

/-- A weight of a package or image: layer, output, input, optimiser word or block, and its value. -/
structure WEntry where
  layer : Nat
  out   : Nat
  idx   : Nat
  word  : Nat
  val   : Word
  deriving DecidableEq, Repr

/-- A section of a weight package (R400): 1 masters, 2 codes, 3 block scales, 4 optimiser state. `tagsOk`: every chunk
tag valid. -/
structure PkgSection where
  layer   : Nat
  kind    : Nat
  die     : Nat
  tagsOk  : Bool
  entries : List WEntry
  deriving DecidableEq, Repr

structure WPackage where
  magic     : Dbl
  format    : Nat
  rsvd      : Nat
  length    : Nat
  setId     : Dbl
  almanacId : BitVec 128
  sections  : List PkgSection
  sig       : Signature
  digest    : BitVec 384
  deriving DecidableEq, Repr

/-- A checkpoint image (R350). Tracker rows are `WEntry`s: layer = tensor entry, idx = history position. -/
structure Image where
  magic      : Dbl
  format     : Nat
  valid      : BitVec 16
  step       : Dbl
  almanacId  : BitVec 128
  baseSet    : BitVec 8
  digestOk   : Bool
  masters    : List WEntry
  optimiser  : List WEntry
  epacts     : List WEntry
  targets    : List WEntry
  scales     : List WEntry
  accum      : List WEntry
  history    : List WEntry
  histValid  : Bool
  stepsLeft  : Nat
  deriving DecidableEq, Repr

/-- The body of a configuration record by its TYPE (R397). -/
inductive RecordBody where
  | owner (rsaId slhId : Dbl)
  | devset (setId : Dbl) (slot : Nat) (count : Nat) (member : Bool) (rsvd : Nat)
  | svnMin (mins : List (Nat × Nat))
  | bindSrc (src : Nat)
  | retireClear (die : Nat) (tile : Nat)
  | testUnlock (durationS : Nat) (classMask : BitVec 8) (flags : Byte) (rsvd : Nat)
  deriving DecidableEq, Repr

/-- Objects of the management path (R445): firmware image (R402, R406), pattern pack (R367), configuration record (R397). -/
inductive MgmtObject where
  | firmware (magic : Dbl) (format component svn : Nat) (digest : BitVec 384) (sig : Signature)
  | pack (magic : Dbl) (format cls slot patterns : Nat) (packId : Dbl) (version slices length rsvd : Nat)
      (digest : BitVec 384) (sig : Signature)
  | record (magic : Dbl) (format length : Nat) (seq : Dbl) (idtag : Dbl) (rsvd : Nat) (body : RecordBody)
      (digest : BitVec 384) (sig : Signature)
  deriving DecidableEq, Repr

/-! ### Links -/

/-- A flit (R312) with the verdict of its CRC, and the corrected and uncorrectable codewords met since the flit before it (R337). -/
structure Flit where
  vc       : Nat
  first    : Bool
  last     : Bool
  seq      : BitVec 12
  creditVc : Nat
  credits  : Nat
  payload  : List Byte
  crcOk    : Bool
  fecCorr   : Nat
  fecUncorr : Nat
  deriving DecidableEq, Repr

/-- The content of a link flit (R314). -/
inductive LinkMsg where
  | ack (seq : BitVec 12)
  | nak (expected : BitVec 12)
  | laneMap (m : List Nat)
  | credit (vc : Nat) (n : Nat)
  | idle
  deriving DecidableEq, Repr

/-- A digest entry (R334). -/
structure DigestEntry where
  device : Nat
  d      : Nat
  step   : Dbl
  digest : BitVec 128
  deriving DecidableEq, Repr

/-- Formats of what a producer wrote to stage SRAM. -/
inductive PieceFmt where
  | f32 | nf8 | ng8 | bin16 | bytes
  deriving DecidableEq, Repr

/-- A frame as received whole (R315), with the verdict of its tag. `elems` are binary32 elements; a closing frame carries
`slots` and `maxima`, a DIGEST frame `entries`, an EXTEND frame its declaring device, a TRANSFER frame its bytes, the stage SRAM
address `place` its almanac puts them at, and the tensor's format and exponent (R316). -/
structure Frame where
  kind       : Nat
  mark       : Nat
  mirror     : Bool
  partition  : Pid
  ring       : Nat
  sender     : Nat
  bucket     : Nat
  chunk      : Nat
  attempt    : Nat
  step       : Dbl
  offset     : Nat
  elems      : List Word
  senderPort : Nat
  ctr        : Dbl
  poison     : Bool
  cause      : Nat
  tagOk      : Bool
  slots      : List (Dbl × Dbl)
  maxima     : List Word
  entries    : List DigestEntry
  declarer   : Nat
  bytes      : List Byte
  place      : Nat
  placeFmt   : PieceFmt
  placeK     : Int
  deriving DecidableEq, Repr

/-! ### Work of a step -/

/-- What a STEP or FORWARD reads from the host at its start (R292): the input's binary32 values, and the index table's entries, from which a
loss row takes its target (R226, R286; DESIGN CHOICE, log entry 113). -/
structure StepInput where
  input : List Word
  index : List Word
  deriving DecidableEq, Repr

/-- Where a row of values lies: as binary32, or as NF8 or NG8 codes, in the die's stage SRAM, eight elements together and the next
eight `pitch` bytes on (R208: tensors lie there as 8×8 tiles); in the step's input; in a layer's output as it is passed on and stashed,
or its stashed tile input (R89); or in constants. -/
inductive Src where
  | words (addr pitch : Nat)
  | codes (addr pitch : Nat)
  | input (first : Nat)
  | output (layer row col : Nat)
  | tileInput (layer row col : Nat)
  | consts (v : List Word)
  deriving DecidableEq, Repr

/-- Where an operand half's run slice comes from (R207, R208, R219): eight 8×8 tiles of a stored tensor; a block of eight vectors' BI
input, or of their outlier slots, against outputs from `out0` on (R87), or the block as the tiles read it; eight outputs' epacts of their
tables' rows (R118), NG8 masters or programmed codes of a block; masters of 64 outputs by eight inputs, for the input gradient; 64 rows
by eight columns of stashed tile inputs, in scaled-input form (R210), or of a stashed output. -/
inductive OpndSrc where
  | tiles (addr : Nat)
  | blockInput (layer row0 out0 block : Nat)
  | anise (layer row0 out0 block : Nat)
  | tileRead (layer row0 block : Nat)
  | epacts (layer out0 block : Nat)
  | masters (layer out0 block : Nat)
  | mastersT (layer out0 in0 : Nat)
  | progCodes (layer out0 block : Nat)
  | stashInput (layer row0 col0 : Nat)
  | stashOutput (layer row0 col0 : Nat)
  deriving DecidableEq, Repr

/-- The operation descriptor of a cube (R208): its axes and output layout, the half ACC_KEEP names, the runs of its segment and how
many reduction indices its last run covers (R80), the result-buffer half, the pass and the partition it works for. -/
structure CubeDesc where
  kind     : CubeKind
  axisA    : Bool
  axisB    : Bool
  outT     : Bool
  accKeep  : Option (Fin 2)
  runs     : Nat
  lastLen  : Nat
  resHalf  : Fin 2
  backward : Bool
  owner    : Pid
  deriving DecidableEq, Repr

/-- A cube's result-buffer half, of a die. -/
structure ResRef where
  die  : DieId
  cube : CubeId
  half : Fin 2
  deriving DecidableEq, Repr

/-- What becomes of a completed cube product (R213, R87, R89): a tensor in stage SRAM in binary32; the same in NF8 under the layer's
ACT entry; in NG8 under tensor entry `ent`, its element (0, 0) at row `row0` and column `col0` of a tensor `cols` wide; the input of a
forward output; or a tile of a layer's weight gradient. -/
inductive CubeUse where
  | sram (addr : Nat)
  | toNF8 (layer : Nat) (addr : Nat)
  | toNG8 (ent row0 col0 cols : Nat) (addr : Nat)
  | forwardOut (layer row out : Nat) (addr : Nat)
  | weightGrad (layer out0 in0 : Nat)
  deriving DecidableEq, Repr

/-- Operations of a W-unit program on its rows (R222 to R232), each row of `n` elements. Results go to stage SRAM at `addr`. -/
inductive WOp where
  | lanes (fn : WFn) (n : Nat) (a b c : Src) (addr : Nat)
  | program (prog n : Nat) (inputs : List Src) (addr : Nat)
  | rowSum (n : Nat) (x : Src) (addr : Nat)
  | rowMax (n : Nat) (x : Src) (addr : Nat)
  | rowMin (n : Nat) (x : Src) (addr : Nat)
  | normForward (norm n : Nat) (x g : Src) (addr : Nat)
  | normBackward (norm n : Nat) (x g dy : Src) (dgBase addr : Nat)
  | softmaxForward (n pattern row : Nat) (z : Src) (addr : Nat)
  | softmaxBackward (n pattern row : Nat) (z dp : Src) (addr : Nat)
  | lossRow (row entry : Nat) (addr : Nat)
  | generate (layer stream site block word : Nat) (addr : Nat)
  | dropout (ent first n : Nat) (x : Src) (addr : Nat)
  | toNF8 (ent n : Nat) (x : Src) (addr : Nat)
  | toNG8 (layer ent first n : Nat) (x : Src) (addr : Nat)
  | toBin16 (n : Nat) (x : Src) (addr : Nat)
  | accumulate (layer : Nat)
  | normTotal
  | update (layer out idx : Nat)
  deriving DecidableEq, Repr

/-- Where a gather's index table lies (R286): in the step's index table, or in stage SRAM. -/
inductive TableSrc where
  | step (first count : Nat)
  | sram (addr count : Nat)
  deriving DecidableEq, Repr

/-- The samples of one column in one plane of a row group: the converter's codes, one for each repeat, and whether the group's
pipeline converter took them or the column's own (R106, R108, R177). -/
structure ColSample where
  group : Nat
  plane : Nat
  col   : Nat
  fine  : Bool
  codes : List Int
  deriving DecidableEq, Repr

/-- Where an uncorrectable line lies (R341, R344). -/
inductive UeRegion where
  | committed | mirror | served | both | wear | working | exchange | stash | prefetch | data
  deriving DecidableEq, Repr

/-- Classes of unit under rotation (R364). -/
inductive TestClass where
  | tile | cube | wunit | lane
  deriving DecidableEq, Repr

/-- The edge bridge's sections (R53). -/
inductive BridgeSection where
  | hostFacing | management
  deriving DecidableEq, Repr

/-- What starts a host-link reset (R451). -/
inductive HostResetKind where
  | perst | hotReset | linkDown | flr | cxlReset
  deriving DecidableEq, Repr

/-- How a reference read drives the 48 rows of a row group (R194). -/
inductive RefDrive where
  | pos | neg | undriven
  deriving DecidableEq, Repr

/-- The samples of one reference column in one part of a reference read (R182, R194). -/
structure RefSample where
  group : Nat
  drive : RefDrive
  col   : Nat
  codes : List Int
  deriving DecidableEq, Repr

/-- A reference read of a leaf: its raw samples (R194). -/
structure RefRead where
  leaf    : LeafId
  samples : List RefSample
  deriving DecidableEq, Repr

/-- A column calibration's raw samples of one column: for each row driven alone its codes, and those with no row driven (R182, R194). -/
structure ColCal where
  leaf     : LeafId
  col      : Nat
  rows     : List (List Int)
  undriven : List Int
  deriving DecidableEq, Repr

/-- The samples a window's calibration reads bring, and what a reconciliation's verify reads find: for each admitted
weight its leaf, row, lane and the code found, `none` where no whole code is found (R158, R194, R197). -/
structure WindowReads where
  refReads : List RefRead
  colCals  : List ColCal
  found    : List (LeafId × Nat × Nat × Option Int)
  deriving DecidableEq, Repr

/-- A cell or weight failing verify in a train, and whether its restore failed too (R156). -/
structure VerifyFail where
  lane        : Nat
  col         : Nat
  restoreFail : Bool
  deriving DecidableEq, Repr

/-- What a window's train works on, in the order of R161. `touchUp` is a refresh's row, with the lane of each cell touched. -/
inductive TrainWork where
  | group (leaf : LeafId) (row : Nat)
  | remap (row : Nat)
  | touchUp (leaf : LeafId) (row : Nat) (lanes : List Nat)
  | programRow (leaf : LeafId) (row : Nat)
  | scrubSweep (leaf : LeafId) (second : Bool)
  deriving DecidableEq, Repr

/-- Calibration store record kinds (R200). -/
inductive StoreKind where
  | die | cnv | col | trk | tile | wear
  deriving DecidableEq, Repr

/-- What the flash returns wrongly at the start-up store read (R203): the byte at `offset` of a copy of a record reads with the bits of `flip`
inverted. -/
structure FlashError where
  kind   : StoreKind
  tile   : TileId
  leaf   : LeafId
  second : Bool
  offset : Nat
  flip   : Byte
  deriving DecidableEq, Repr

/-- SPDM requests arrive over DOE or over MCTP (R404). -/
inductive SpdmPath where
  | doe | mctp
  deriving DecidableEq, Repr

/-- The kinds of IDE stream (R391). -/
inductive IdeKind where
  | cachemem | selective | link
  deriving DecidableEq, Repr

/-- What a resource is (R381): kind 0 to 7, die, index, leaf. -/
structure Resource where
  kind  : Nat
  die   : Nat
  index : Nat
  leaf  : Nat
  deriving DecidableEq, Repr

/-- What RAILS_GOOD finds on the die (R450, R186, R200): a sensor below 0 °C, a REFCLK edge, REFV within tolerance and its reading in 10 µV;
the trim and the BANDGAP/REFV ratio (per million) of the trim made, the sensors' trims, the monitor's O_k and G_k, and what the flash reads
wrongly of the DIE record. -/
structure RailsFound where
  cold     : Bool
  refclk   : Bool
  refvOk   : Bool
  refv     : Nat
  vrefTrim : Int
  ratio    : Nat
  trims    : List Int
  monO     : BitVec 12
  monG     : BitVec 16
  errors   : List FlashError
  deriving DecidableEq, Repr

/-- The commands of the block: the rows of spec/opcode_table.json, in the table's order. -/
inductive Instr where
  | registerWrite (off : BitVec 20) (val : Word)
  | unsupportedRegisterAccess (off : BitVec 20) (bytes : Nat) (isWrite : Bool)
  | calDcntLoRead (die : DieId)
  | stepCountLoRead (die : DieId)
  | normLoRead (die : DieId)
  | lastAgreeLoRead
  | ueAddrLoRead (die : DieId)
  | handshakeStall (die : DieId) (cls : HsClass) (index : Nat)
  | hs6RetryExpiry (a b : DieId) (retryAcked probesAStalled probesBStalled : Bool)
  | rollbackResume (pid : Pid)
  | refclkLoss (die : DieId)
  | refclkReturn (die : DieId)
  | dcntCalibrationStart (die : DieId)
  | dcntCalibrationEnd (die : DieId) (trim : BitVec 16)
  | bridgeEccCorrected
  | bridgeEccUncorrectable (sect : BridgeSection)
  | ovfClearAll (die : DieId)
  | ovfClearSel (die : DieId)
  | forceWarmup (die : DieId)
  | doorbellSnoop (set : SetId) (line : Doorbell)
  | descriptorAccept (set : SetId) (desc : Desc)
  | preconditionCleared (set : SetId)
  | nop (set : SetId)
  | almanacLoad (set : SetId) (obj : Option Container)
  | almanacLoadComplete (set : SetId)
  | bufferBind (set : SetId)
  | weightLoad (set : SetId) (obj : Option WPackage)
  | leafProgram (set : SetId)
  | step (set : SetId) (inp : StepInput)
  | forward (set : SetId) (inp : StepInput)
  | checkpointSave (set : SetId) (written : Bool)
  | checkpointRestore (set : SetId) (img : Option Image)
  | barrier (set : SetId)
  | preempt (set : SetId)
  | resume (set : SetId)
  | preemptPointReached (pid : Pid) (point : Nat)
  | preemptDrainComplete (pid : Pid)
  | completionWrite (set : SetId)
  | resultWindowRead (addr : BitVec 28)
  | resultWindowWrite (addr : BitVec 28)
  | ringEnable (val : Word)
  | ringDisable (val : Word)
  | ringHaltClear
  | ringBadClear
  | blockRowConversion (pid : Pid) (die : DieId) (layer row block : Nat) (src : Src)
  | tilePass (pid : Pid) (die : DieId) (tile : TileId) (leaf : LeafId) (layer row : Nat) (groups : BitVec 4)
      (samples : List ColSample)
  | cubeOperation (die : DieId) (cube : CubeId) (op : CubeDesc)
  | operandHalfFull (die : DieId) (cube : CubeId) (sideB : Bool) (half : Fin 2) (src : OpndSrc)
  | cubeOperationComplete (out : ResRef) (segments : List ResRef) (use : CubeUse)
  | wUnitOperation (die : DieId) (unit : WUnitId) (pid : Pid) (op : WOp)
  | gather (pid : Pid) (die : DieId) (gatherId : Nat) (table : TableSrc) (src dst : Nat)
  | unitParityError (die : DieId) (isCube : Bool) (index : Nat)
  | stashPrefetch (pid : Pid) (layer : Nat)
  | shadowComparison (pid : Pid) (die : DieId) (layer row out : Nat)
  | stormReplayStart (pid : Pid)
  | lossTotalCheck (pid : Pid)
  | bucketArm (pid : Pid) (bucket : Nat)
  | exchangeCompletePoint (pid : Pid)
  | commitDecision (pid : Pid)
  | commitPoint (pid : Pid)
  | almanacWindowOpen (die : DieId) (tile : TileId) (reads : WindowReads)
  | idleWindowOpen (die : DieId) (tile : TileId) (reads : WindowReads)
  | writeTrainComplete (die : DieId) (tile : TileId) (work : TrainWork) (trains : Nat) (fails : List VerifyFail)
  | windowClose (die : DieId) (tile : TileId)
  | refreshDue (die : DieId) (tile : TileId) (leaf : LeafId)
  | refreshOverdue (die : DieId) (tile : TileId) (leaf : LeafId)
  | leafProgramComplete (die : DieId) (tile : TileId) (leaf : LeafId)
  | leafScrubComplete (die : DieId) (tile : TileId) (leaf : LeafId)
  | wrClearAll (die : DieId)
  | wrClearSel (die : DieId)
  | aniClearAll (die : DieId)
  | aniClearSel (die : DieId)
  | monitorRound (die : DieId) (readings : List Int)
  | referenceComparison (die : DieId) (refv10uV bandgap10uV vrefd10uV : Nat)
  | converterRotationComplete (die : DieId) (tile : TileId) (conv : Nat) (zero pfs nfs : List Int)
      (supRd supCnv : Int) (diode : Int)
  | analogSupplyFault (die : DieId)
  | analogSupplyRecovered (die : DieId)
  | trackingIntervalEnd (die : DieId) (tile : TileId) (leaf : LeafId)
  | trackingValueReady (die : DieId) (tile : TileId) (leaf : LeafId)
  | trackingAgeExpired (die : DieId) (tile : TileId) (leaf : LeafId)
  | storeRecordWrite (die : DieId) (kind : StoreKind) (tile : TileId) (leaf : LeafId) (failures : Nat)
  | cnvDiagGo (die : DieId) (val : Word)
  | cnvDiagDone (die : DieId) (codes : List Int)
  | cnvClipClear (die : DieId)
  | mceClearAll (die : DieId)
  | mceClearSel (die : DieId)
  | stepCntClearAll (die : DieId)
  | stepCntClearSel (die : DieId)
  | smpCfgWrite (die : DieId) (val : Word)
  | smpClearAll (die : DieId)
  | smpClearSel (die : DieId)
  | laneFail (die : DieId) (port : PortId) (lane : Fin 5)
  | laneFailoverComplete (die : DieId) (port : PortId)
  | flitReceive (die : DieId) (port : PortId) (flit : Flit)
  | linkFlitReceive (die : DieId) (port : PortId) (msg : LinkMsg)
  | ackTimer (die : DieId) (port : PortId)
  | reduceFrame (die : DieId) (port : PortId) (frame : Frame)
  | gatherFrame (die : DieId) (port : PortId) (frame : Frame)
  | closeReduceFrame (die : DieId) (port : PortId) (frame : Frame)
  | closeGatherFrame (die : DieId) (port : PortId) (frame : Frame)
  | transferFrame (die : DieId) (port : PortId) (frame : Frame)
  | markFrame (die : DieId) (port : PortId) (frame : Frame)
  | digestFrame (die : DieId) (port : PortId) (frame : Frame)
  | resendFrame (die : DieId) (port : PortId) (frame : Frame)
  | extendFrame (die : DieId) (port : PortId) (frame : Frame)
  | frameDeadlineExpiry (pid : Pid) (die : DieId) (port : PortId) (kind bucket chunk : Nat)
  | digestWaitExpiry (pid : Pid)
  | digestCfgWrite (die : DieId) (val : Word)
  | portEnable (die : DieId) (val : Word)
  | cdmClearAll (die : DieId)
  | cdmClearSel (die : DieId)
  | linkKeyInstall (die : DieId) (port : PortId) (peerNonce : Dbl)
  | stackCorrectedError (die : DieId) (onDie : Bool)
  | stackUncorrectable (die : DieId) (pid : Pid) (region : UeRegion) (addr : BitVec 37)
  | patrolRead (die : DieId) (pid : Pid) (addr : BitVec 37) (corrected : Bool) (ue : Option UeRegion)
  | stackFailure (die : DieId)
  | stackTempRead (die : DieId) (temp16 : Int) (flag : Bool)
  | pageRetire (die : DieId) (val : Word)
  | pageRetireApply (die : DieId)
  | retireClearTable (die : DieId)
  | marginRun (die : DieId) (val : Word)
  | marginRunDone (die : DieId) (errors : Nat)
  | stkClearAll (die : DieId)
  | stkClearSel (die : DieId)
  | farTierError (pid : Pid) (duringSave : Bool)
  | testSliceStart (die : DieId) (cls : TestClass) (index : Nat)
  | testSliceComplete (die : DieId) (cls : TestClass) (passed : Bool) (pattern : BitVec 16) (source : BitVec 4)
  | eventLogEntry (die : DieId)
  | derpolRecordSend (count : Nat)
  | xchkClear
  | alertClear
  | bindRequest (src : Source)
  | bindApply (r : Resource)
  | resourceReady (r : Resource)
  | partSetWrite (val : Word)
  | measurementRound (meas : List (Option (BitVec 384)))
  | saffronWatchdogExpiry (die : DieId)
  | partialResetDone (die : DieId) (inMajority : Bool)
  | getVersion (path : SpdmPath)
  | getCapabilities (path : SpdmPath)
  | negotiateAlgorithms (path : SpdmPath) (supported : Bool)
  | getDigests (path : SpdmPath)
  | getCertificate (path : SpdmPath) (slot offset length : Nat)
  | challenge (path : SpdmPath) (nonce : BitVec 256)
  | getMeasurements (path : SpdmPath) (index : Nat) (nonce : BitVec 256)
  | keyExchange (path : SpdmPath)
  | finish (path : SpdmPath) (session : Nat) (verified : Bool)
  | endSession (path : SpdmPath) (session : Nat)
  | heartbeat (path : SpdmPath) (session : Nat)
  | keyUpdate (path : SpdmPath) (session : Nat)
  | chunkGet (path : SpdmPath) (handle seqNo : Nat)
  | getSlhSignature (path : SpdmPath)
  | respondIfReady (path : SpdmPath)
  | ideKeyProgram (session : Nat) (kind : IdeKind) (stream : Nat) (refresh : Bool)
  | regRead (off : BitVec 20)
  | regWrite (off : BitVec 20) (val : Word)
  | objBegin (kind : Nat) (length : Nat)
  | objData (handle offset : Nat) (data : List Byte)
  | objEnd (handle : Nat) (obj : Option MgmtObject)
  | logRead (seq : Dbl)
  | setDest (mac : BitVec 48)
  | powerRequestRun (src : Source)
  | powerRequestVigil (src : Source)
  | powerRequestRepose (src : Source)
  | powerRequestOff (src : Source)
  | powerDeferRetry (sinceFirst100us : Nat)
  | powerStateReached
  | autoVigilExpiry
  | idleTimerExpiry
  | vigilWake (die : DieId) (readings : List Int) (refv10uV bandgap10uV vrefd10uV : Nat)
  | vigilSleep (die : DieId)
  | plWrite (val : Word)
  | powerSample (watts : Nat) (vin100mV : Nat)
  | capCheck
  | capRaiseCheck
  | thermalCapFall (die : DieId)
  | thermalCapRise (die : DieId)
  | overtempRecovered (die : DieId)
  | thermalTrip115 (die : DieId)
  | pwrClearAll
  | pwrClearSel
  | j1OutOfRange (mV : Nat)
  | powerOnStart (testEn : Bool)
  | pwrEnLow
  | modRstNAssert (testEn : Bool)
  | safResetModule (val : Word) (testEn : Bool)
  | safResetPartial (val : Word)
  | hostLinkReset (kind : HostResetKind)
  | cxlHalf0Timeout
  | cxlLinkUp
  | cxlConfigRequest (tag : Nat) (cache : Option Bool)
  | warmupEnd (die : DieId) (reached0C : Bool)
  | refclkWaitTimeout (die : DieId)
  | startupTestDone (passed : BitVec 8) (stackTrained : BitVec 8) (unitsPassed : Bool)
  | cxlReady
  | storeReady (die : DieId) (errors : List FlashError)
  | jobReady
  | unlockCloseWrite (val : Word)
  | unlockExpiry
  | ackDelayWrite (die : DieId) (val : Word)
  | stretchWrite (die : DieId) (val : Word)
  | backpressWrite (die : DieId) (val : Word)
  | patternWrite (die : DieId) (val : Word)
  | stallGo (die : DieId) (val : Word)
  | bypass
  | idcode
  | samplePreload (capture : BitVec 64) (preload : BitVec 64)
  | extest
  | clamp
  | highz
  | privateInstruction (code : Nat)
  | segmentDeadlineExpiry (pid : Pid) (die : DieId) (segment : Nat)
  | perstRelease
  | railsGood (die : DieId) (found : RailsFound)
  | portLinkUp (die : DieId) (port : PortId) (peerDie : DieId) (peerPort : PortId) (peerIndex : Option (BitVec 12))
  | portRetraining (die : DieId) (port : PortId)
  | standbyPowerLoss
  | standbyPowerGood
  deriving DecidableEq, Repr

end Sys2Proof
end

