-- ==== Sys2Proof/Config.lean ====
section
/-! DEFINITION. What an implementation fixes and what the spec leaves open. Every `opaque` below is a free value (log
entry 2): it has no body, so nothing can be proved of the value it takes. `n` is the state's counter of free draws. -/

namespace Sys2Proof.Config

/-- A drawn 64-bit nonce of a link key installation (R394), or any other 64-bit draw of a noise source (R393). -/
opaque freeDbl : Nat → Dbl
/-- The almanac's job-wide numbering of weights and of blocks of 64 (R229, R368), by layer, output and index: the spec says
that the almanac assigns it and does not give its form. -/
opaque elementNumber : Nat → Nat → Nat → Nat
opaque blockNumber : Nat → Nat → Nat → Nat
/-- The same for the blocks of 64 elements of a layer's tensors, by layer, tensor entry and the elements' place in the tensor (log
entry 116). -/
opaque tensorBlock : Nat → Nat → Nat → Nat
/-- The position of a device on a ring (R320 gives only this device's own and its neighbours' device numbers). -/
opaque ringPosition : Nat → Nat → Nat
/-- A 32-bit value the spec leaves open. -/
opaque freeWord : Nat → Word
/-- A drawn 256-bit key (R393: stack unit keys, session keys). -/
opaque freeKey : Nat → BitVec 256
/-- A measured share in per cent that only time decides (R237 BUSY, R337 TX_BUSY and RX_BUSY). -/
opaque freePercent : Nat → Nat
/-- The binary32 folding of the corrections of R190 (its roundings' order is not stated): the column reading the output
stage forms, in level-rows, as numerator and denominator, from the exact reading of R190 given the same way. -/
opaque foldReading : Int → Nat → Int × Nat
/-- The link key of R394: HKDF over both nonces, the job secret and the ordered pair of ports (the standard's function). -/
opaque linkKey : Dbl → Dbl → BitVec 256 → List Nat → BitVec 256
/-- The reason a block gives for refusing a power-state entry, by BLOCK code and target (R422): the spec lists none. -/
opaque refuseReason : Nat → Nat → Byte
/-- The two signature values of an SPDM response (R405): RSASSA-PSS and SLH-DSA over a transcript. -/
opaque rsaSignature : Nat → BitVec 3072
opaque slhSignature : Nat → BitVec 256

/-- SHA-384 over a listing of values (R402: the report's digests of records, bindings and the store). -/
opaque sha384 : List Nat → BitVec 384
/-- The boot ROM's digest, the certificate chain and its digest (R402, R404): what manufacture put there. -/
opaque bootRomDigest : BitVec 384
opaque certByte : Nat → Byte
opaque certDigest : BitVec 384

/-- The wear counts that a line of the system region holds, each as tile, leaf, and row times 128 plus lane: the spec does not place
them in it (R164, R341). -/
opaque wearLine : Nat → List (Nat × Nat × Nat)
/-- Which of a die's 16 temperature sensors is nearest a tile (R112, R190): the spec does not give their places. -/
opaque nearestSensor : Nat → Nat

/-- A stack reports its failure when it loses more than this many pseudo-channels (R345). -/
def lostChannelsAllowed : Nat := 1
/-- Largest SHARE_MAX (R280 check 5): 32 MiB. -/
def scheduleStore : Nat := 32 * 1024 * 1024
/-- Stage SRAM bank size (R381): 8 MiB. -/
def sramBank : Nat := 8 * 1024 * 1024
/-- Bytes of stage SRAM per die (R28): 224 MiB. -/
def sramBytes : Nat := 224 * 1024 * 1024

end Sys2Proof.Config
end

