-- ==== Sys2Proof/Machine/State.lean ====
section
/-! DEFINITION. The state of the module as plain data, and its reset value. A sparse table holds only entries that differ
from its default, with keys strictly rising (Machine/Table.lean keeps that form). -/

namespace Sys2Proof.Machine

/-- A sparse table: keys strictly rising, no entry equal to the table's default for its key. -/
abbrev Tab (α : Type) := List (Nat × α)
/-- Byte memory in the same form (stage SRAM, object transfers). -/
abbrev Memory := Tab Byte

/-! ### Events (R376, R378) -/

/-- The event codes of R378. -/
inductive Ev where
  | clv (n : Nat) | mce (n : Nat) | wun (n : Nat) | cdm (n : Nat) | cal (n : Nat) | cnv (n : Nat)
  | stk (n : Nat) | saf (n : Nat) | pwr (n : Nat) | ring (n : Nat) | part (n : Nat) | tst (n : Nat)
  deriving DecidableEq, Repr

/-- A Derpol record before it enters the log (R376); `die` and `part` are `none` for 0xFF. UNIT is split in its fields. -/
structure Event where
  code    : Ev
  sev     : Nat
  die     : Option Nat
  part    : Option Nat
  counter : Dbl
  step    : Dbl
  epoch   : Word
  unit    : Nat
  index   : Nat
  sub     : Nat
  data    : Dbl
  cdie    : Option Nat
  action  : Nat
  layer   : Option Nat
  deriving DecidableEq, Repr

/-- A record in the event log: SEQ and the record. -/
structure LogRec where
  seq : Dbl
  ev  : Event
  deriving DecidableEq, Repr

/-! ### Tiles -/

/-- Corrections of a leaf in the codes of R191. -/
structure LeafCal where
  k     : BitVec 16
  z     : BitVec 12
  kappa : BitVec 12
  tcal  : BitVec 12
  tw    : BitVec 12
  deriving DecidableEq, Repr

/-- What the calibration engine gathers of a leaf's reference columns (R192): phases, the mean's sum of sensor readings over them in 1/16 °C,
Σ|n_s| of the phases with |n_s| at least 8, and by reference column its corrected readings over those, each with the sign of n_s, in 2^−28
level-rows. -/
structure Track where
  phases : Nat
  temps  : Int
  used   : Nat
  sums   : Tab Int
  deriving DecidableEq, Repr

/-- What a column's calibration found (R194): its gain, none where it has too few non-middle cells, and its offset. -/
structure ColSet where
  leaf : LeafId
  col  : Nat
  gain : Option (BitVec 16)
  off  : BitVec 12
  deriving DecidableEq, Repr

/-- One leaf of a tile: class, cells, calibration, scrub, refresh, programming, wear (R99 to R103, R164 to R173, R190).
`progCodes` and `progScales` are the codes and block scales a whole-leaf programming writes, in effect at its record (R171), `progDesc`
whether a LEAF_PROGRAM or WEIGHT_LOAD began it (R294), `progFail` the columns that failed in its row's last attempt or a scrub's last sweep
(R173), `progRow` and `progMax` the trains of its present row and the most of any row (R164), and `blank`
whether no programmed code exists there (R60). `prog` is the next row, 257 from the record until its window's close. `track` is the present
tracking interval and `trackDone` the last complete one (R192), `computing` the set being computed; `colNext` holds what a column calibration has
found so far (R194). `offline`: overdue as of the last window's close (R169). `reEval`: a whole programming's record asks that what is due be queued at the next commit
(R171). `wear` is by row and lane over `wearBase`, what every count of the leaf was set to at
start-up (R164). -/
structure Leaf where
  frozen    : Bool
  placed    : Bool
  cal       : LeafCal
  ready     : Option LeafCal
  computing : Option LeafCal
  track     : Track
  trackDone : Option Track
  setAt     : Dbl
  newAt     : Dbl
  runDue    : Bool
  colCalDue : Bool
  colNext   : Tab (Option ColSet)
  rejects   : Nat
  lastK     : Option (BitVec 16 × BitVec 12 × Dbl)
  scrub     : Bool
  sweeps    : Nat
  overdue   : Bool
  offline   : Bool
  refresh   : Option Nat
  lastFresh : Dbl
  hottest   : Int
  blank     : Bool
  prog      : Option Nat
  progDesc  : Bool
  progCodes : Tab Int
  progScales : Tab Byte
  progFail  : List Nat
  progRow   : Nat
  progMax   : Nat
  satWarned : Bool
  reEval    : Bool
  cells     : Tab Int
  colG      : Tab (BitVec 16)
  colO      : Tab (BitVec 12)
  wear      : Tab (BitVec 24)
  wearBase  : BitVec 24
  leafWear  : Word
  deriving DecidableEq, Repr

/-- A write-queue entry (R149); `failCols` are the columns of its last failure (R156). -/
structure QEntry where
  leaf    : LeafId
  row     : Nat
  lane    : Nat
  target  : Byte
  prev    : Byte
  retry   : Bool
  failCols : List Nat
  deriving DecidableEq, Repr

inductive WinKind where
  | almanac | idle
  deriving DecidableEq, Repr

/-- What a reference read found (R194, R198): the leaf's K and z where it gave any, T_cal, and the columns found unhealthy. -/
structure RefSet where
  leaf : LeafId
  vals : Option (BitVec 16 × BitVec 12)
  tcal : BitVec 12
  bad  : List Nat
  deriving DecidableEq, Repr

/-- An open intercalary window (R152 to R161, R199): the groups admitted, those and the remap rows not yet done, the entries done, what
its calibration reads brought, and the corrections that were ready before it opened: tracking sets, converter corrections and
reference columns found unhealthy. `writes`: its tile is among those that may write (R171); `scrub`: a scrub's window (R161);
`rowDone`: its one row of whole-leaf programming is done (R171). -/
structure Window where
  kind        : WinKind
  admitted    : List (LeafId × Nat)
  groups      : List (LeafId × Nat)
  remapRows   : List Nat
  writes      : Bool
  scrub       : Bool
  rowDone     : Bool
  reconciling : Bool
  done        : List QEntry
  refReads    : List RefSet
  colCals     : List ColSet
  trk         : List (LeafId × LeafCal)
  convs       : List (Nat × BitVec 12 × BitVec 16)
  refs        : Word
  deriving DecidableEq, Repr

/-- A pending column remap (R133); `retry`: the last attempt of its present row failed. -/
structure Remap where
  col      : Nat
  spare    : Nat
  retry    : Bool
  deriving DecidableEq, Repr

/-- STATE of CLV_TILE_STATUS (R142). -/
inductive TileState where
  | spareFree | analog | remapPending | retiredSpare | programming | retiredNone
  deriving DecidableEq, Repr

/-- What the status registers show of a tile; it changes only at window ends and records (R143, R176). -/
structure TileShown where
  st        : TileState
  band      : Nat
  spareUsed : Nat
  refBad    : Nat
  link      : BitVec 13
  occupancy : Nat
  reconcile : Bool
  maxWear   : BitVec 24
  deriving DecidableEq, Repr

/-- A tile. `passLeaf` is the leaf its last pass read, `activeLeaf` the one selected last; `refPend` reference columns found
unhealthy since (R198), `scrubTurn` whether its next window is a pending scrub's (R161). `freed`: a record has freed a queue entry, so carried weights are evaluated again (R151).
`failPend` are the columns that a scrub found failing, to be retired at its window's close (R133, R173); `waiting`: its last window found no
turn to write (R171).
`cnvAt` is one more than the die's counter at the last CNV record (R200).
`convO` and `convG` are keyed by column converter 0 to 1,151, then 1,152 + n for pipeline converter n (R200); `diodes` holds
the last TD reading of each pipeline converter, in 1/16 °C. -/
structure Tile where
  st         : TileState
  shown      : TileShown
  link       : BitVec 13
  activeLeaf : LeafId
  passLeaf   : LeafId
  hold5      : Bool
  spareMap   : Tab (BitVec 16)
  refBad     : Word
  refPend    : Word
  scrubTurn  : Bool
  queue      : List QEntry
  win        : Option Window
  freed      : Bool
  reconcile  : Option (List QEntry)
  remaps     : List Remap
  retireDue  : Bool
  failPend   : List Nat
  waiting    : Bool
  digital    : Bool
  hs0        : Nat
  leaves     : Tab Leaf
  convO      : Tab (BitVec 12)
  convG      : Tab (BitVec 16)
  convNext   : List (Nat × BitVec 12 × BitVec 16)
  cnvAt      : Dbl
  diodes     : Tab Int
  lowRaised  : Bool
  band       : Nat
  deriving DecidableEq, Repr

/-! ### Cubes and W-units -/

/-- STATE of a cube or W-unit (R237, R238). -/
inductive UnitState where
  | inService | inTest | retired
  deriving DecidableEq, Repr

/-- An operand half (R207, R219): 512 elements, their format, the tensor exponent k of each row or column (R76), their block scales,
and the output elements C(i, j), as 8i + j, to which this run gives nothing (R121). -/
structure Half where
  full   : Bool
  fmt    : CubeFmt
  elems  : List (BitVec 16)
  exps   : List Int
  scales : List Byte
  skip   : List Nat
  deriving DecidableEq, Repr

/-- A result-buffer half (R207, R214): the kind that wrote it and in which pass, its 64 values, the partial of the segment before its
own where ACC_KEEP gave one, and the partition whose finished operation holds it until it is released. -/
structure ResHalf where
  kind     : Option CubeKind
  backward : Bool
  vals     : List Word
  part     : List (List Word)
  owner    : Option Pid
  deriving DecidableEq, Repr

/-- A Mace cube (R207): its operand halves, 64 run registers, 64 accumulators, result halves, and the operation it runs with the
partial kept for it and the runs done. -/
structure Cube where
  st       : UnitState
  reruns   : Byte
  faults   : Nat
  visits   : Nat
  a0       : Half
  a1       : Half
  b0       : Half
  b1       : Half
  runRegs  : List (BitVec 24)
  acc      : List Word
  part     : List (List Word)
  res0     : ResHalf
  res1     : ResHalf
  op       : Option CubeDesc
  runsDone : Nat
  deriving DecidableEq, Repr

structure WUnit where
  st       : UnitState
  reruns   : Byte
  faults   : Nat
  visits   : Nat
  deriving DecidableEq, Repr

/-! ### Ports -/

/-- STATE of CDM_PORT_STATUS (R337). -/
inductive PortState where
  | disabled | training | up | narrowed | failover | down
  deriving DecidableEq, Repr

/-- A flit of a frame this device sends: its place in the frame, and its SEQ once sent (R312, R313). -/
structure TxFlit where
  frame : Frame
  index : Nat
  count : Nat
  seq   : BitVec 12
  deriving DecidableEq, Repr

/-- A port. `laneMap` gives the physical lane of each logical lane, 7 for none; `txq` the flits that wait for credits or for a
failover's end, `replay` those sent and not yet acknowledged; `rx` the flits and `held` the frames in the receive buffer; `stepFrame`
whether it holds a frame of a step, `downWait` whether it goes down when it no longer does. -/
structure Port where
  enable    : Bool
  mode      : Bool
  st        : PortState
  shown     : PortState × List Nat × Bool
  laneMap   : List Nat
  spareFree : Bool
  failed    : List Nat
  key       : Option (BitVec 256)
  frameCtr  : Dbl
  lastIn    : Tab Dbl
  seqOut    : BitVec 12
  seqIn     : BitVec 12
  sinceAck  : Nat
  txq       : List TxFlit
  replay    : List TxFlit
  resends   : Nat
  cred0     : Nat
  cred1     : Nat
  rx        : List Flit
  held      : List Frame
  peer      : Option (DieId × PortId)
  peerIndex : Option (BitVec 12)
  stepFrame : Bool
  downWait  : Bool
  deriving DecidableEq, Repr

/-! ### Stack, monitor, per-die parts -/

/-- A stack and its controller. `throttle` is the cap's level; `thrAt` and `thrNs` hold the counter at the last temperature reading and
the throttled time not yet counted. `mem` holds the bytes that are known, `none` what the spec leaves undefined (R342, R351). `retReq` is a page whose retirement waits; `margin` a margin run in progress. -/
structure Stack where
  trained   : Bool
  selfRef   : Bool
  temp      : BitVec 12
  flag      : Bool
  throttle  : Nat
  ueAddr    : BitVec 37
  ueHi      : BitVec 5
  ceSecond  : Nat
  ceSecAt   : Dbl
  ceRaised  : Bool
  table     : List (BitVec 21)
  retReq    : Option (BitVec 21)
  retResult : BitVec 2
  clearTab  : Bool
  margin    : Bool
  marginErr : Word
  mem       : Tab (Option Byte)
  save      : Option Memory
  saveKey   : BitVec 256
  thrAt     : Dbl
  thrNs     : Nat
  deriving DecidableEq, Repr

/-- A piece of stage SRAM that a producer of the present step has written whole (R220): its length in bytes, format, tensor exponent
(R76) and partition. -/
structure Piece where
  len   : Nat
  fmt   : PieceFmt
  k     : Int
  owner : Pid
  deriving DecidableEq, Repr

/-- A mean over the last millisecond in which the thing measured occurred (R142, R237, R238): which millisecond of the die's counter,
the sum in picoseconds and the count. -/
structure Meas where
  ms  : Nat
  sum : Nat
  cnt : Nat
  deriving DecidableEq, Repr

/-- The monitor converter (R185 to R189); `finding` is what the last comparison found: 0 agreement, 1 REFV, 2 BANDGAP, 3 VREF_D or no one
in particular, 4 that no two agree. `trims` are the sensors', `o` and `g` its own correction (R200). -/
structure Monitor where
  readings   : Tab Int
  refvOk     : Bool
  holdover   : Bool
  fail       : Bool
  agreeRun   : Nat
  refv       : BitVec 17
  supplyBad  : Bool
  finding   : Nat
  trims     : Tab Int
  o         : BitVec 12
  g         : BitVec 16
  deriving DecidableEq, Repr

/-- A diagnostic conversion (R206): the target and control it was requested with, and the last result; `inWindow`: its tile's
next window is open. -/
structure Diag where
  pending : Bool
  inWindow : Bool
  tgt     : Word
  ctrl    : Word
  data    : Word
  deriving DecidableEq, Repr

/-- A die's Saffron controller (R403, R407). -/
structure Saffron where
  resetting : Bool
  minority  : Nat
  majority  : Bool
  meas      : BitVec 384
  deriving DecidableEq, Repr

/-- Test rotation (R365): by class the unit out, the next one, and whether its last pattern failed; `swap` is the lane map to which a
planned swap returns, `wraps` the classes whose scan cycle is complete since the last whole one (log entry 24). `visit` is the content of each
class's present visit, the sources of its patterns (8: scan) and the slices left of it; `scanned` marks the units whose last visit ran scan
patterns, by class and index (R364). -/
structure Rotation where
  tile   : Option Nat
  cube   : Option Nat
  wunit  : Option Nat
  lane   : Option Nat
  nextT  : Nat
  nextC  : Nat
  nextW  : Nat
  nextL  : Nat
  retryT : Bool
  retryC : Bool
  retryW : Bool
  retryL : Bool
  swap   : List Nat
  wraps  : List Nat
  visit   : Tab (List Nat × Nat)
  scanned : Tab Bool
  cycles : BitVec 15
  fails  : BitVec 16
  deriving DecidableEq, Repr

inductive DieClass where
  | unclassified | inService | fenced
  deriving DecidableEq, Repr

/-- A die. `pieces` are by start address in stage SRAM; `phaseM`, `stepM` and `opM` measure read phases, cube steps and lane operations
(R142, R237, R238). `coldAt`: for each temperature sensor, one more than the counter at its last reading below 0 °C (R128). `storeDue` are the records that
wait to be written, by type, tile and leaf (R200). -/
structure Die where
  cls       : DieClass
  booted    : Bool
  rails     : Bool
  analog    : Bool
  warmup    : Bool
  refWait   : Bool
  dcnt      : Dbl
  dcntHi    : Word
  trim      : BitVec 16
  calWin    : Bool
  refclkOk  : Bool
  holdover  : Bool
  regs      : Tab Word
  tiles     : Tab Tile
  cubes     : Tab Cube
  wunits    : Tab WUnit
  ports     : Tab Port
  cnt       : Tab Word
  sram      : Memory
  pieces    : Tab Piece
  stack     : Stack
  mon       : Monitor
  diag      : Diag
  saf       : Saffron
  evBuf     : List Event
  evLost    : Nat
  coldAt    : Tab Dbl
  thermCap  : Nat
  vddMv     : Nat
  hot       : Bool
  trip115   : Bool
  awake     : Bool
  rot       : Rotation
  storeSeq  : Dbl
  storeReady : Bool
  storeDue  : List (StoreKind × Nat × Nat)
  discarded : BitVec 16
  vrefTrim  : Int
  bandRatio : Nat
  phaseM    : Meas
  stepM     : Meas
  opM       : Meas
  stallSet  : Tab Word
  stepHi    : Word
  normHi    : Word
  deriving DecidableEq, Repr

/-! ### Partitions -/

/-- A scale tracker (R90, R91): sixteen magnitudes, newest first, and the scale of the last step that ran: for an INP
tensor the largest magnitude of its history and the margin (P of R91), for an NF8 or NG8 tensor its exponent k. -/
structure Tracker where
  hist  : List Word
  prevP : Option (Word × Nat)
  prevK : Option Int
  deriving DecidableEq, Repr

/-- The committed state of a partition (R241, R269). Weight keys are those of `wkey`, block keys those of `bkey`. -/
structure Committed where
  masters   : Tab Word
  opt       : Tab Word
  epacts    : Tab Word
  tables    : Tab (List (Nat × Byte))
  scales    : Tab Byte
  target    : Tab Int
  prog      : Tab Int
  accum     : Tab Word
  trackers  : Tab Tracker
  histValid : Bool
  stepsLeft : Nat
  kMaster   : Tab Int
  kEpact    : Tab Int
  fallback  : List Nat
  fbClean   : Tab Nat
  lastDis   : Tab Nat
  cleanRun  : Nat
  noForm    : Bool
  steps     : Dbl
  norm      : Dbl
  clip      : Word
  digest    : Nat
  fixed     : Nat
  deriving DecidableEq, Repr

/-- A block row converted to BI (R73) after its settling (R120): its bytes in the memory form of R70, the outliers' NF8 exponent and values,
which outliers hold slots, the tiles promoted, and the codes each unpromoted tile reads. -/
structure BiBlock where
  width    : Nat
  bytes    : List Byte
  kOut     : Int
  outliers : List (Nat × Byte)
  slots    : List (Nat × Byte)
  srcNf8   : List Byte
  promoted : List Nat
  tileCodes : List Int
  deriving DecidableEq, Repr

/-- Why a step is aborted before commit (R244). -/
inductive AbortCause where
  | stash | anise | markAbort | skip | ueTwice | lossNan | expelled | hostReset
  deriving DecidableEq, Repr

/-- What a sampled run's comparison needs, as it stood at the start of its pass (R252). -/
structure Sampled where
  die     : Nat
  tile    : Nat
  t16     : Int
  dt16    : Nat
  band    : Nat
  maxWear : Nat
  frozen  : Bool
  codes   : List Int
  q       : Byte
  deriving DecidableEq, Repr

/-- A step or FORWARD in progress: everything staged (R239, R241, R269). `input` and `index` are what the host gave (R292), `probing`
says that the probe pass runs (R93), `digRuns` the runs that the digital path serves (R134), `sampled` the analog runs to be compared
and `compared` those that have been (R252); `stashed` gives the tier of each stashed tensor entry, `late` the layers whose tier-3 stash
a consumer had to wait for (R247, R249), `gathered` the gathers that have moved their rows (R286). `scale` and `pred` are by tensor entry: the exponent
k, and the predicted magnitude P of an INP tensor as a magnitude and a margin (`(0, 0)`: each block its own magnitude).
`masters`, `opt` and `accum` are the working halves. `shard` is this device's norm total, `norm` the job's, `updated` the
weights the optimiser program has run on; `tripped` the layers that tripped, `entering` those that enter fallback, `exceeded`
whether trips passed the budget with no all-digital form (R253 to R258). -/
structure StepRun where
  isForward   : Bool
  set         : SetId
  number      : Dbl
  tokens      : Nat
  input       : List Word
  index       : List Word
  phase       : Nat
  probe       : Bool
  probing     : Bool
  exchange    : Bool
  replaying   : Bool
  fallback    : List Nat
  scale       : Tab Int
  pred        : Tab (Word × Nat)
  probeTrk    : Option (Tab Tracker)
  blocks      : Tab BiBlock
  runs        : Tab (Option Word)
  digRuns     : Tab Bool
  clippedRuns : List Nat
  outs        : Tab (Option Word)
  grads       : Tab (Option Word)
  masters     : Tab Word
  opt         : Tab Word
  accum       : Tab Word
  accDone     : List Nat
  updated     : Tab Bool
  dg          : Tab Word
  amax        : Tab Word
  lossTerms   : Tab (Option Dbl)
  loss        : Option Dbl
  lossBad     : Bool
  shard       : Option Dbl
  norm        : Option Dbl
  clip        : Option Word
  sampled     : Tab (Option Sampled)
  compared    : Tab Bool
  disagree    : Tab Nat
  compDone    : Bool
  tripped     : List Nat
  entering    : List Nat
  exceeded    : Bool
  saturated   : Bool
  substituted : Bool
  satEvent    : Bool
  promoUsed   : Tab Nat
  abort       : Option AbortCause
  stashed     : Tab Nat
  stash1      : Tab Nat
  stash2      : Tab Nat
  stash3      : Nat
  prefetched  : Tab Nat
  late        : List Nat
  gathered    : List Nat
  dropped     : Nat
  dropRaised  : Bool
  xchkRaised  : Bool
  armed       : List Nat
  contrib     : Tab Byte
  kBucket     : Tab Int
  partials    : Tab Word
  finals      : Tab Word
  chunksDone  : List (Nat × Nat)
  primFrames  : List Frame
  mirrFrames  : List Frame
  slots       : List (Dbl × Dbl)
  maxima      : List Word
  closeDone   : Bool
  decided     : Bool
  deriving DecidableEq, Repr

/-- The exchange record of the present step (R331). -/
structure XchgRecord where
  step   : Dbl
  finals : Tab Word
  frames : List Frame
  close  : Option (List (Dbl × Dbl) × List Word)
  deriving DecidableEq, Repr

/-- Marks, attempts and the exchange record (R329 to R333). -/
structure Exchange where
  mark     : Nat
  lastMark : Nat
  attempt  : Nat
  complete : Bool
  declares : List Nat
  record   : XchgRecord
  prev     : XchgRecord
  expelled : Bool
  deriving DecidableEq, Repr

/-- An interruption in progress (R358): every die's duration counter at its detection, the ACTION, whether the partition stops, whether the schedule
switches, and whether it marks REPLAY. -/
structure Interrupt where
  since   : List Dbl
  action  : Nat
  stop    : Bool
  variant : Option Nat
  digital : Option Bool
  storm   : Bool
  deriving DecidableEq, Repr

inductive PState where
  | notInBeing | empty | loaded | running | suspended | stopped
  deriving DecidableEq, Repr

/-- A buffer bound by BUFFER_BIND (R292, R349). -/
structure Buf where
  kind  : Nat
  index : Nat
  addr  : Dbl
  len   : Dbl
  deriving DecidableEq, Repr

/-- An armed PREEMPT (R284, R293) and the set it occupies. -/
structure Armed where
  set    : SetId
  target : Dbl
  point  : Word
  deriving DecidableEq, Repr

/-- A digest exchange in progress (R334). -/
structure DigestRun where
  step    : Dbl
  entries : List DigestEntry
  deriving DecidableEq, Repr

/-- A partition. `stateLost`: a fault made part of the committed state unreadable (R360), until a new almanac. `ueFirst` holds the pages where the first attempt of the present step met an uncorrectable line (R344). -/
structure Part where
  st          : PState
  epoch       : Word
  slot        : Option Nat
  setId       : Dbl
  almanac     : Option Container
  loading     : Option Container
  variant     : Nat
  digital     : Bool
  bufs        : List Buf
  com         : Committed
  run         : Option StepRun
  xch         : Exchange
  intr        : Option Interrupt
  unrepl      : List Nat
  stateLost   : Bool
  served      : List Nat
  armed       : Option Armed
  draining    : Option Nat
  susp        : Option Nat
  smpForce    : Word
  smpWritten  : Word
  smpPending  : Bool
  forceWarm   : Bool
  lastOutcome : Nat
  exhausted   : Bool
  t1pct       : Nat
  t2pct       : Nat
  t3pct       : Nat
  digestRun   : Option DigestRun
  pkgDigests  : List (BitVec 384)
  ueFirst     : List Nat
  deriving DecidableEq, Repr

/-! ### Ring sets and result windows -/

/-- Where a held descriptor stands: not yet come up, waiting at the head for a passing precondition (R294), executing, or
at its completion point with status, detail and step number. -/
inductive HeldSt where
  | waiting | precond | ready | executing
  | done (status detail : Nat) (step : Dbl) (valid : Bool) (halts : Bool)
  deriving DecidableEq, Repr

/-- A descriptor's held copy (R290) with its index, what a STEP or FORWARD read from the host at its start (R292), whether it reserves a result slot, the slot it published, its acceptance
epoch and REPLAYED mark, the epoch and HEALTHY byte at its completion point (R296), and, for a BARRIER, how many descriptors
each ring set had accepted before it (R295). -/
structure Held where
  index    : Word
  desc     : Desc
  inp      : StepInput
  st       : HeldSt
  resv     : Bool
  slot     : Option Nat
  epochAcc : Word
  replayed : Bool
  cplEpoch : Word
  cplHealthy : Byte
  seen     : Tab Word
  deriving DecidableEq, Repr

/-- A published payload (R303). -/
structure Payload where
  loss     : Dbl
  norm     : Dbl
  clip     : Word
  tokens   : Word
  step     : Dbl
  disagree : Word
  dropped  : Word
  fbCount  : Byte
  flags    : Byte
  deriving DecidableEq, Repr

/-- A result slot (R300, R301). -/
inductive Slot where
  | free | published (count : BitVec 31) (payload : Payload)
  deriving DecidableEq, Repr

structure RingSet where
  enabled   : Bool
  disabling : Bool
  halted    : Bool
  haltDetail : Byte
  enableErr : Nat
  ctrl      : Word
  bases     : Tab Word
  accepted  : Word
  completed : Word
  published : Word
  released  : Word
  subTail   : Word
  cplHead   : Word
  kept      : Option Doorbell
  held      : List Held
  slots     : Tab Slot
  deriving DecidableEq, Repr

/-! ### Board, security, power, flash, module -/

/-- An open test unlock (R454). `openedAt` holds every die's duration counter at its opening. -/
structure Unlock where
  openedAt  : List Dbl
  durationS : Nat
  mask      : BitVec 8
  margin    : Bool
  priv      : Bool
  deriving DecidableEq, Repr

/-- An object transfer of the management path (R445). -/
structure Xfer where
  handle : Nat
  kind   : Nat
  length : Nat
  bytes  : Memory
  deriving DecidableEq, Repr

/-- Test-port instructions loaded (R453). -/
inductive JtagIr where
  | bypass | idcode | sample | extest | clamp | highz
  deriving DecidableEq, Repr

/-- Pins, the start-up stage, the CXL link, alerts and the test port. `perst` is PERST# asserted, `j1Latch` J1 out of range (R438);
`stage` and `lastOff` are STAGE and LAST_OFF of PWR_START; `upNs` the time since the standby domain came up; `cacheEn` the host's
enable of CXL.cache; `hostFail` and `mgmtFail` the failed sections of the bridge (R53); `thermTrip` the 115 °C alert (R440). -/
structure Board where
  pwrEn      : Bool
  testEn     : Bool
  perst      : Bool
  standby    : Bool
  stage      : Nat
  lastOff    : Nat
  upNs       : Nat
  startMs    : BitVec 24
  bifurcated : Bool
  half       : Nat
  linkUp     : Bool
  cacheEn    : Bool
  memActive  : Bool
  hostFail   : Bool
  mgmtFail   : Bool
  sev3       : Bool
  thermTrip  : Bool
  j1Latch    : Bool
  mac        : BitVec 48
  xfers      : List Xfer
  unlock     : Option Unlock
  testParts  : BitVec 16
  ir         : JtagIr
  boundary   : BitVec 64
  pinsDriven : Bool
  pinsFloat  : Bool
  badAccess  : Word
  aerUr      : Bool
  deriving DecidableEq, Repr

/-- The election (R403): the primary Saffron controller, whether no strict majority stands, whether one was ever elected. -/
structure DieMap where
  primary     : Option DieId
  disputed    : Bool
  everPrimary : Bool
  deriving DecidableEq, Repr

/-- A secure SPDM session (R404) and an IDE stream (R391). -/
structure Session where
  id       : Nat
  path     : SpdmPath
  finished : Bool
  keyGen   : Nat
  deriving DecidableEq, Repr

structure IdeStream where
  kind   : IdeKind
  stream : Nat
  keyGen : Nat
  deriving DecidableEq, Repr

structure Pack where
  packId  : Dbl
  cls     : Nat
  version : Nat
  slices  : Nat
  digest  : BitVec 384
  deriving DecidableEq, Repr

structure Security where
  idtag    : Dbl
  owner    : Option (Dbl × Dbl)
  svendor  : Dbl × Dbl
  svnMin   : Tab Nat
  seqAcc   : Tab Dbl
  setSeq   : List (Dbl × Dbl)
  devsets  : Tab (Option Dbl)
  bindSrc  : Nat
  pending  : Tab (Nat × BitVec 384)
  running  : Tab (Nat × BitVec 384)
  packs    : Tab (Option Pack)
  recDigests : List (BitVec 384)
  algOk    : Tab Bool
  sessions : List Session
  ide      : List IdeStream
  stackKeys : Tab (BitVec 512)
  sigReady : Option Nat
  deferred : Option Instr
  deriving DecidableEq, Repr

/-- The power states of R413; Hold is Run under an effective cap below 1 (R416), and so is computed. -/
inductive PowerState where
  | off | run | vigil | repose
  deriving DecidableEq, Repr

/-- A power-state request in progress (R422): target, the copy it came from (`none` for AUTO_VIGIL), whether every block has
accepted, and the blocks deferring. -/
structure PowerReq where
  target   : Nat
  src      : Option Source
  accepted : Bool
  exiting  : Bool
  deferring : List Nat
  deriving DecidableEq, Repr

structure Power where
  st         : PowerState
  byTimer    : Bool
  cOp        : Nat
  lastRefuser : Nat
  timerEntries : BitVec 15
  req        : Option PowerReq
  hostTarget : Nat
  mgmtTarget : Nat
  hostResult : Nat
  mgmtResult : Nat
  samples    : List Nat
  since      : Nat
  sinceRaise : Nat
  changed    : Bool
  vin        : BitVec 11
  refusals   : Tab Word
  aborts     : BitVec 28
  lastCause  : Nat
  exitAsked  : Bool
  pl         : Nat
  deriving DecidableEq, Repr

/-- A calibration store record's payload (R200, R201). -/
inductive StorePayload where
  | die (trim : Int) (ratio : Nat) (trims : List Int) (o : BitVec 12) (g : BitVec 16)
  | cnv (o : Tab (BitVec 12)) (g : Tab (BitVec 16))
  | col (o : Tab (BitVec 12)) (g : Tab (BitVec 16))
  | trk (cal : LeafCal)
  | tile (st : TileState) (link : BitVec 13) (spare : Tab (BitVec 16)) (refBad : Word)
  | wear (perLeaf : List (Nat × Nat))
  deriving DecidableEq, Repr

/-- A record as its bytes read (R201): the header's fields and the payload. -/
structure StoreRec where
  seq     : Dbl
  frozen  : Bool
  second  : Bool
  temp    : Int
  payload : StorePayload
  deriving DecidableEq, Repr

/-- Module flash: what survives the loss of power (R438, R451). `refreshed` holds the counter at each leaf's last complete refresh (R168),
by resource key;
`store` holds the bytes of each copy of each calibration store record (R200, R201). -/
structure Flash where
  log       : List LogRec
  nextSeq   : Dbl
  sentSeq   : Dbl
  store     : Tab (List Byte)
  storeSeq  : Tab Dbl
  retired   : Tab (List (BitVec 21))
  leafBinds : Tab Nat
  leafSets  : Tab Dbl
  cubesRet  : Tab Bool
  wunitsRet : Tab Bool
  refreshed : Tab Dbl
  deriving DecidableEq, Repr

/-- A rebind waiting for its release point (R385) or a resource being made ready (R387). -/
structure Rebind where
  res    : Resource
  target : Nat
  src    : Source
  deriving DecidableEq, Repr

structure BindCtl where
  hostReq  : Word
  mgmtReq  : Word
  hostDone : Bool
  mgmtDone : Bool
  hostRes  : Nat
  mgmtRes  : Nat
  owners   : Tab Nat
  leafSets : Tab Dbl
  waiting  : List Rebind
  readying : List Resource
  deriving DecidableEq, Repr

/-- SAF_DIGEST and related (R379). -/
structure DigestCtl where
  result   : Nat
  donor    : Option Nat
  odd      : Option Nat
  present  : Nat
  lastAgree : Dbl
  agreeHi  : Word
  dForce   : Nat
  dWritten : Nat
  wait     : Nat
  digest   : BitVec 128
  xchkCount : Word
  deriving DecidableEq, Repr

structure Recovery where
  action   : Nat
  lastUs   : BitVec 16
  deriving DecidableEq, Repr

/-! ### Outputs at the connectors (log entry 9) -/

/-- A completion record (R296). -/
structure Completion where
  status  : Byte
  detail  : Byte
  flags   : BitVec 16
  seq     : Word
  tag     : Dbl
  epoch   : Word
  slot    : BitVec 16
  healthy : Byte
  step    : Dbl
  deriving DecidableEq, Repr

inductive Out where
  | regValue (off : Nat) (v : Word)
  | unsupportedRequest (off : Nat)
  | completion (set : Nat) (addr : Dbl) (bytes : List Byte)
  | windowLine (addr : Nat) (line : Option (List Byte))
  | windowZero (addr : Nat)
  | backInvalidate (set slot : Nat)
  | forwardRows (addr : Dbl) (rows : Tab Word)
  | checkpoint (index : Nat) (offset : Dbl) (step : Dbl) (com : Committed)
  | frame (die port : Nat) (f : Frame)
  | flit (die port : Nat) (f : TxFlit)
  | linkMsg (die port : Nat) (m : LinkMsg)
  | nonce (die port : Nat) (n : Dbl)
  | derpol (frame : List Byte)
  | mctp (code status : Nat) (v : Word)
  | mctpRec (bytes : Option (List Byte))
  | mctpHandle (h : Nat)
  | inBandInterrupt
  | spdm (code : Nat) (vals : List Nat)
  | spdmMeas (blocks : List (Nat × Bool × List Nat))
  | spdmSig (rsa : BitVec 3072)
  | spdmSlh (sig : BitVec 256)
  | spdmNotReady
  | spdmError (code : Nat)
  | configReply (tag : Nat) (crs : Bool)
  | tdo (v : Word)
  | boundary (v : BitVec 64)
  deriving DecidableEq, Repr

/-- Everything the spec gives the module. `dieMap` is SAF_DIE_MAP as last published (R54); `evMod` holds the records of
events that no die detected while no die was healthy (R376); `out` what left at the connectors; `free` the model's own
counter of free draws (log entry 2). -/
structure Dev where
  board   : Board
  dies    : Vector Die 8
  parts   : Vector Part 16
  rings   : Vector RingSet 64
  map     : DieMap
  binds   : BindCtl
  power   : Power
  sec     : Security
  flash   : Flash
  digest  : DigestCtl
  recov   : Recovery
  dieMap  : Word
  evMod   : List Event
  regs    : Tab Word
  out     : List Out
  free    : Nat
  deriving DecidableEq, Repr

/-- The state: the module, and the queue of the commands that wait, first in, first out. No meaning reaches the queue. -/
structure State where
  dev     : Dev
  pending : List Instr
  deriving DecidableEq, Repr

/-- Why a command stops the model. No command of this block does: the part's own faults are effects on the state. -/
inductive Fault where
  /-- Kept for a command whose unit the spec says does not exist; the operand types leave no such command, so nothing
  raises it. Safe: a stop proves nothing. -/
  | noSuchUnit (what : String)
  deriving DecidableEq, Repr

inductive Refusal where
  /-- Raised by an arm of exec that has no meaning yet. Safe. -/
  | notModelled (mnemonic : String)
  /-- Raised by PRIVATE_INSTRUCTION under an open unlock with PRIVATE: the instruction acts on a stack's IEEE 1500 port or
  another private register, and the spec does not say what it does there (R453, R340). Safe: a stop proves nothing. -/
  | privateInstruction
  deriving DecidableEq, Repr

/-! ### Reset -/

/-- Corrections before anything is measured: κ starts at 0.150 % per °C (R195), the rest at 0 (log entry 1). -/
def LeafCal.reset : LeafCal := { k := 0, z := 0, kappa := 150, tcal := 0, tw := 0 }

def Track.reset : Track := { phases := 0, temps := 0, used := 0, sums := [] }

/-- A leaf at reset (log entry 1): live by default (R101), cells at the middle level, nothing in progress. -/
def Leaf.reset : Leaf :=
  { frozen := false, placed := false, cal := LeafCal.reset, ready := none, computing := none, track := Track.reset, trackDone := none,
    setAt := 0, newAt := 0, runDue := false, colCalDue := false, colNext := [], rejects := 0, lastK := none, scrub := false, sweeps := 0,
    overdue := false, offline := false, refresh := none, lastFresh := 0, hottest := 0, blank := true, prog := none, progDesc := false,
    progCodes := [], progScales := [], progFail := [], progRow := 0, progMax := 0, satWarned := false, reEval := false, cells := [],
    colG := [], colO := [], wear := [], wearBase := 0, leafWear := 0 }

/-- What a tile's registers show at reset (R142, R175): every field 0, LINK 0x1FFF. -/
def TileShown.reset : TileShown :=
  { st := .spareFree, band := 0, spareUsed := 0, refBad := 0, link := 0x1FFF#13, occupancy := 0,
    reconcile := false, maxWear := 0 }

def Tile.reset : Tile :=
  { st := .spareFree, shown := TileShown.reset, link := 0x1FFF#13, activeLeaf := 0, passLeaf := 0, hold5 := false, spareMap := [],
    refBad := 0, refPend := 0, scrubTurn := false, queue := [], win := none, freed := false, reconcile := none, remaps := [], retireDue := false, failPend := [], waiting := false, digital := false,
    hs0 := 0, leaves := [], convO := [], convG := [], convNext := [], cnvAt := 0, diodes := [], lowRaised := false, band := 0 }

/-- An operand half at reset: empty, its 512 elements 0 (log entry 1). -/
def Half.reset : Half :=
  { full := false, fmt := .ng8, elems := List.replicate 512 0, exps := List.replicate 8 0, scales := List.replicate 64 0, skip := [] }
def ResHalf.reset : ResHalf := { kind := none, backward := false, vals := List.replicate 64 0, part := [], owner := none }

def Cube.reset : Cube :=
  { st := .inService, reruns := 0, faults := 0, visits := 0, a0 := Half.reset, a1 := Half.reset,
    b0 := Half.reset, b1 := Half.reset, runRegs := List.replicate 64 0, acc := List.replicate 64 0, part := [], res0 := ResHalf.reset, res1 := ResHalf.reset, op := none,
    runsDone := 0 }

def WUnit.reset : WUnit := { st := .inService, reruns := 0, faults := 0, visits := 0 }

/-- A port at reset (R337): disabled, no lane mapped in what the register shows; its buffers' credits are R314's. -/
def Port.reset : Port :=
  { enable := false, mode := false, st := .disabled, shown := (.disabled, [], false), laneMap := [0, 1, 2, 3],
    spareFree := true, failed := [], key := none, frameCtr := 0, lastIn := [], seqOut := 0, seqIn := 0, sinceAck := 0,
    txq := [], replay := [], resends := 0, cred0 := 7680, cred1 := 512, rx := [], held := [], peer := none, peerIndex := none,
    stepFrame := false, downWait := false }

def Stack.reset : Stack :=
  { trained := false, selfRef := false, temp := 0, flag := false, throttle := 0, ueAddr := 0, ueHi := 0, ceSecond := 0,
    ceSecAt := 0, ceRaised := false, table := [], retReq := none, retResult := 0, clearTab := false, margin := false,
    marginErr := 0, mem := [], save := none, saveKey := 0, thrAt := 0, thrNs := 0 }

def Meas.reset : Meas := { ms := 0, sum := 0, cnt := 0 }

def Monitor.reset : Monitor :=
  { readings := [], refvOk := false, holdover := false, fail := false, agreeRun := 0, refv := 0, supplyBad := false,
    finding := 0, trims := [], o := 0, g := 0 }

def Saffron.reset : Saffron := { resetting := false, minority := 0, majority := false, meas := 0 }

def Rotation.reset : Rotation :=
  { tile := none, cube := none, wunit := none, lane := none, nextT := 0, nextC := 0, nextW := 0, nextL := 0,
    retryT := false, retryC := false, retryW := false, retryL := false, swap := [], wraps := [], visit := [], scanned := [], cycles := 0, fails := 0 }

/-- A die at reset: unclassified, rails off, counter 0 (R37), thermal cap 64/64 (R420). -/
def Die.reset : Die :=
  { cls := .unclassified, booted := false, rails := false, analog := false, warmup := false, refWait := false,
    dcnt := 0, dcntHi := 0, trim := 0, calWin := false, refclkOk := false, holdover := false, regs := [], tiles := [],
    cubes := [], wunits := [], ports := [], cnt := [], sram := [], pieces := [], stack := Stack.reset, mon := Monitor.reset,
    diag := { pending := false, inWindow := false, tgt := 0, ctrl := 0, data := 0 }, saf := Saffron.reset, evBuf := [], evLost := 0, coldAt := [], thermCap := 64, vddMv := 0,
    hot := false, trip115 := false, awake := false, rot := Rotation.reset, storeSeq := 0, storeReady := false, storeDue := [],
    discarded := 0, vrefTrim := 0, bandRatio := 960000, phaseM := Meas.reset, stepM := Meas.reset, opM := Meas.reset, stallSet := [],
    stepHi := 0, normHi := 0 }

/-- The initial state of R463: zero weights, empty tables and queues, no valid history, analog form, step count 0. -/
def Committed.initial : Committed :=
  { masters := [], opt := [], epacts := [], tables := [], scales := [], target := [], prog := [], accum := [],
    trackers := [], histValid := false, stepsLeft := 0, kMaster := [], kEpact := [], fallback := [], fbClean := [],
    lastDis := [], cleanRun := 0, noForm := false, steps := 0, norm := 0, clip := 0x3F800000#32, digest := 0, fixed := 0 }

def XchgRecord.none : XchgRecord := { step := 0, finals := [], frames := [], close := Option.none }

def Tracker.reset : Tracker := { hist := [], prevP := none, prevK := none }

def Exchange.reset : Exchange :=
  { mark := 0, lastMark := 0, attempt := 0, complete := false, declares := [], record := XchgRecord.none,
    prev := XchgRecord.none, expelled := false }

/-- A partition that is not in being (R388). MCE_SMP_CFG's reset value is R271's. -/
def Part.reset : Part :=
  { st := .notInBeing, epoch := 0, slot := none, setId := 0, almanac := none, loading := none, variant := 0,
    digital := false, bufs := [], com := Committed.initial, run := none, xch := Exchange.reset, intr := none,
    unrepl := [], stateLost := false, served := [], armed := none, draining := none, susp := none, smpForce := 0x808#32,
    smpWritten := 0x808#32, smpPending := false, forceWarm := false, lastOutcome := 0, exhausted := false, t1pct := 0,
    t2pct := 0, t3pct := 0, digestRun := none, pkgDigests := [], ueFirst := [] }

/-- A ring set at reset (R306). -/
def RingSet.reset : RingSet :=
  { enabled := false, disabling := false, halted := false, haltDetail := 0, enableErr := 0, ctrl := 0x00060000#32,
    bases := [], accepted := 0, completed := 0, published := 0, released := 0, subTail := 0, cplHead := 0, kept := none,
    held := [], slots := [] }

/-- The board at reset (log entry 10): J1 at 64 V, standby good, PWR_EN high, the module in Off, first power-up. -/
def Board.reset : Board :=
  { pwrEn := true, testEn := false, perst := true, standby := true, stage := 0,
    lastOff := 0, upNs := 0, startMs := 0, bifurcated := false, half := 0, linkUp := false, cacheEn := false,
    memActive := false, hostFail := false, mgmtFail := false, sev3 := false, thermTrip := false, j1Latch := false,
    mac := 0xFFFFFFFFFFFF#48, xfers := [], unlock := none, testParts := 0, ir := .idcode, boundary := 0,
    pinsDriven := false, pinsFloat := false, badAccess := 0, aerUr := false }

def DieMap.reset : DieMap := { primary := none, disputed := false, everPrimary := false }

def BindCtl.reset : BindCtl :=
  { hostReq := 0x3E0#32, mgmtReq := 0x3E0#32, hostDone := true, mgmtDone := true, hostRes := 0, mgmtRes := 0,
    owners := [], leafSets := [], waiting := [], readying := [] }

def Power.reset : Power :=
  { st := .off, byTimer := false, cOp := 64, lastRefuser := 0, timerEntries := 0, req := none,
    hostTarget := 0, mgmtTarget := 0, hostResult := 0, mgmtResult := 0, samples := [], since := 0, sinceRaise := 0, changed := false,
    vin := 0, refusals := [], aborts := 0, lastCause := 0, exitAsked := false, pl := 6 }

/-- Module flash as manufactured (log entry 1): nothing recorded; the identity digest's first bytes are taken as 0. -/
def Flash.reset : Flash :=
  { log := [], nextSeq := 1, sentSeq := 0, store := [], storeSeq := [], retired := [], leafBinds := [], leafSets := [],
    cubesRet := [], wunitsRet := [], refreshed := [] }

def Security.reset : Security :=
  { idtag := 0, owner := none, svendor := (0, 0), svnMin := [], seqAcc := [], setSeq := [], devsets := [], bindSrc := 2,
    pending := [], running := [], packs := [], recDigests := [], algOk := [], sessions := [], ide := [], stackKeys := [],
    sigReady := none, deferred := none }

def DigestCtl.reset : DigestCtl :=
  { result := 0, donor := none, odd := none, present := 0, lastAgree := 0, agreeHi := 0, dForce := 4, dWritten := 4,
    wait := 1000, digest := 0, xchkCount := 0 }

/-- The module right after reset: standby good, nothing started, every register at its reset value. -/
def Dev.reset : Dev :=
  { board := Board.reset, dies := Vector.replicate 8 Die.reset, parts := Vector.replicate 16 Part.reset,
    rings := Vector.replicate 64 RingSet.reset, map := DieMap.reset, binds := BindCtl.reset, power := Power.reset,
    sec := Security.reset, flash := Flash.reset, digest := DigestCtl.reset,
    recov := { action := 0, lastUs := 0 }, dieMap := 0x00000F00#32, evMod := [], regs := [], out := [], free := 0 }

/-- The machine after reset, no command waiting. -/
def State.reset : State := { dev := Dev.reset, pending := [] }

end Sys2Proof.Machine
end

