-- ==== Sys2Proof/Machine/Table.lean ====
section
/-! DEFINITION. Sparse tables and byte memory in their one canonical form: keys strictly rising, no entry equal to what an
unlisted key reads as. `d` is always that default. -/

namespace Sys2Proof.Machine

/-- The value at key `k`. -/
def tget {α : Type} (d : α) : Tab α → Nat → α
  | [], _ => d
  | (j, v) :: t, k => if j = k then v else tget d t k

/-- The table with every entry of key `k` gone. -/
def tdel {α : Type} (t : Tab α) (k : Nat) : Tab α := t.filter (fun e => e.1 ≠ k)

/-- Insert at the place the rising order gives. -/
def tins {α : Type} (k : Nat) (v : α) : Tab α → Tab α
  | [] => [(k, v)]
  | (j, w) :: t => if k < j then (k, v) :: (j, w) :: t else (j, w) :: tins k v t

/-- The table with key `k` at `v`; writing the default removes the entry. -/
def tset {α : Type} [DecidableEq α] (d : α) (t : Tab α) (k : Nat) (v : α) : Tab α :=
  if v = d then tdel t k else tins k v (tdel t k)

/-- Change the value at one key. -/
def tmod {α : Type} [DecidableEq α] (d : α) (t : Tab α) (k : Nat) (f : α → α) : Tab α := tset d t k (f (tget d t k))

/-- Write a list of key and value pairs, the first first. -/
def tsetAll {α : Type} [DecidableEq α] (d : α) (t : Tab α) (es : List (Nat × α)) : Tab α :=
  es.foldl (fun t e => tset d t e.1 e.2) t

/-- Change every listed value; one that becomes the default goes. -/
def tmapv {α : Type} [DecidableEq α] (d : α) (f : α → α) (t : Tab α) : Tab α :=
  (t.map (fun e => (e.1, f e.2))).filter (fun e => e.2 ≠ d)

/-- Keep the entries whose key satisfies `p`. -/
def tkeep {α : Type} (t : Tab α) (p : Nat → Bool) : Tab α := t.filter (fun e => p e.1)

/-- The canonical form. -/
def twf {α : Type} [DecidableEq α] (d : α) : Tab α → Bool
  | [] => true
  | (k, v) :: t => decide (v ≠ d) && t.all (fun e => decide (k < e.1)) && twf d t

/-! ### Byte memory: an unlisted byte reads 0 (log entry 6) -/

def Memory.wf (m : Memory) : Bool := twf (0#8) m

/-- Read one byte. -/
def mread (m : Memory) (a : Nat) : Byte := tget 0 m a

/-- Write one byte. -/
def mwrite (m : Memory) (a : Nat) (b : Byte) : Memory := tset 0 m a b

/-- Write bytes at rising addresses from `a`. -/
def mwriteBytes (m : Memory) (a : Nat) : List Byte → Memory
  | [] => m
  | b :: bs => mwriteBytes (mwrite m a b) (a + 1) bs

/-- The `n` bytes of `v`, least significant first (R69, R273: all fields are little-endian). -/
def leBytes {w : Nat} (v : BitVec w) : Nat → List Byte
  | 0 => []
  | n + 1 => v.setWidth 8 :: leBytes (v >>> 8) n

end Sys2Proof.Machine
end

