-- ==== Sys2Proof/Machine/Float.lean ====
section
/-! DEFINITION. Exact values and rounding: IEEE 754 binary16, binary32 and binary64 with round-to-nearest-even, subnormals
kept (R58), and the correctly rounded functions of the W-unit lanes (R221). -/

namespace Sys2Proof.Machine

/-- What a code stands for: NaN, an infinity, or ±m·2^e (a zero keeps its sign). -/
inductive FVal where
  | nan
  | inf (neg : Bool)
  | fin (neg : Bool) (m : Nat) (e : Int)
  deriving DecidableEq, Repr

def FVal.isFinite : FVal → Bool
  | .fin _ _ _ => true
  | _ => false

def FVal.isZero : FVal → Bool
  | .fin _ 0 _ => true
  | _ => false

/-- Finite and not zero. -/
def FVal.nonZero : FVal → Bool
  | .fin _ (_ + 1) _ => true
  | _ => false

def FVal.sign : FVal → Bool
  | .nan => false
  | .inf n => n
  | .fin n _ _ => n

def FVal.neg : FVal → FVal
  | .nan => .nan
  | .inf n => .inf (!n)
  | .fin n m e => .fin (!n) m e

def FVal.abs : FVal → FVal
  | .nan => .nan
  | .inf _ => .inf false
  | .fin _ m e => .fin false m e

/-- An exact integer as a value. -/
def FVal.ofInt (x : Int) : FVal := .fin (decide (x < 0)) x.natAbs 0

/-- The value times 2^k, exactly. -/
def FVal.scale (v : FVal) (k : Int) : FVal :=
  match v with
  | .fin n m e => .fin n m (e + k)
  | v => v

/-- The signed integer ±m·2^(e-b), for e at or above b. -/
def FVal.units (v : FVal) (b : Int) : Int :=
  match v with
  | .fin n m e => let u : Int := (m : Int) * 2 ^ (e - b).toNat; if n then -u else u
  | _ => 0

/-- Exact product (R85: NaN; infinity times zero is NaN). -/
def FVal.mul : FVal → FVal → FVal
  | .nan, _ => .nan
  | _, .nan => .nan
  | .inf a, .inf b => .inf (a ^^ b)
  | .inf a, .fin b m _ => if m = 0 then .nan else .inf (a ^^ b)
  | .fin a m _, .inf b => if m = 0 then .nan else .inf (a ^^ b)
  | .fin a m e, .fin b n f => .fin (a ^^ b) (m * n) (e + f)

/-- Exact sum. An exact zero sum is +0 unless both terms are negative zeros (IEEE 754). -/
def FVal.add : FVal → FVal → FVal
  | .nan, _ => .nan
  | _, .nan => .nan
  | .inf a, .inf b => if a = b then .inf a else .nan
  | .inf a, .fin _ _ _ => .inf a
  | .fin _ _ _, .inf b => .inf b
  | .fin a m e, .fin b n f =>
    let t := min e f
    let s := FVal.units (.fin a m e) t + FVal.units (.fin b n f) t
    .fin (if s = 0 then a && b else decide (s < 0)) s.natAbs t

/-- Exact difference. -/
def FVal.sub (x y : FVal) : FVal := x.add y.neg

/-- Compare two values that are no NaN: -1, 0 or 1; -0 equals +0. -/
def FVal.cmp : FVal → FVal → Int
  | .inf a, .inf b => if a = b then 0 else if a then -1 else 1
  | .inf a, _ => if a then -1 else 1
  | _, .inf b => if b then 1 else -1
  | .fin a m e, .fin b n f =>
    let t := min e f
    let d := FVal.units (.fin a m e) t - FVal.units (.fin b n f) t
    if d < 0 then -1 else if d = 0 then 0 else 1
  | _, _ => 0

/-- `x ≤ y` of finite values and infinities; false with a NaN. -/
def FVal.le (x y : FVal) : Bool := !decide (x = .nan) && !decide (y = .nan) && decide (FVal.cmp x y ≤ 0)
def FVal.lt (x y : FVal) : Bool := !decide (x = .nan) && !decide (y = .nan) && decide (FVal.cmp x y < 0)

/-! ### Rounding an exact ratio -/

/-- ⌊log2 (num/den)⌋ for positive num and den. -/
def floorLog2 (num den : Nat) : Int :=
  let l : Int := (Nat.log2 num : Int) - (Nat.log2 den : Int)
  let le := if 0 ≤ l then decide (den * 2 ^ l.toNat ≤ num) else decide (den ≤ num * 2 ^ (-l).toNat)
  if le then l else l - 1

/-- The pair (a, b) with a/b = num/den·2^e. -/
def ratio (num den : Nat) (e : Int) : Nat × Nat :=
  if 0 ≤ e then (num * 2 ^ e.toNat, den) else (num, den * 2 ^ (-e).toNat)

/-- a/b to the nearest integer, ties to even. -/
def nearest (a b : Nat) : Nat :=
  let q := a / b
  let r := 2 * (a % b)
  if b < r then q + 1 else if r < b then q else q + q % 2

/-- a/b up to the next integer. -/
def ceilDiv (a b : Nat) : Nat := (a + (b - 1)) / b

/-- The code counting the representable magnitudes upward from 0 with `frac` fraction bits and smallest step 2^tmin:
`rnd` of num/den·2^e on the grid of its binade. Code 2^frac is the smallest normal, and every binade holds 2^frac codes. -/
def gridCode (rnd : Nat → Nat → Nat) (frac : Nat) (tmin : Int) (num den : Nat) (e : Int) : Nat :=
  if num = 0 then 0
  else
    let t := max (floorLog2 num den + e - frac) tmin
    let p := ratio num den (e - t)
    rnd p.1 p.2 + (t - tmin).toNat * 2 ^ frac

/-- The magnitude a grid code stands for, as m·2^e. -/
def gridVal (frac : Nat) (tmin : Int) (code : Nat) : Nat × Int :=
  if code < 2 ^ frac then (code, tmin)
  else (2 ^ frac + code % 2 ^ frac, tmin + ((code / 2 ^ frac : Nat) : Int) - 1)

/-! ### IEEE 754 formats -/

/-- An IEEE 754 format: exponent and fraction bits. -/
structure Fmt where
  eb : Nat
  fb : Nat
  deriving DecidableEq, Repr

def Fmt.f16 : Fmt := { eb := 5, fb := 10 }
def Fmt.f32 : Fmt := { eb := 8, fb := 23 }
def Fmt.f64 : Fmt := { eb := 11, fb := 52 }

/-- Exponent of the smallest subnormal. -/
def Fmt.tmin (f : Fmt) : Int := 2 - (2 ^ (f.eb - 1) : Nat) - (f.fb : Int)
/-- The magnitude code of infinity. -/
def Fmt.infCode (f : Fmt) : Nat := (2 ^ f.eb - 1) * 2 ^ f.fb
def Fmt.signBit (f : Fmt) : Nat := 2 ^ (f.eb + f.fb)
/-- The quiet NaN the part produces; 0x7FC00000 in binary32 (R85). -/
def Fmt.nanCode (f : Fmt) : Nat := f.infCode + 2 ^ (f.fb - 1)

def Fmt.decode (f : Fmt) (w : Nat) : FVal :=
  let neg := decide (f.signBit ≤ w)
  let c := w % f.signBit
  if f.infCode < c then .nan
  else if c = f.infCode then .inf neg
  else let v := gridVal f.fb f.tmin c; .fin neg v.1 v.2

/-- Round ±num/den·2^e to the format, nearest even, overflow to infinity. -/
def Fmt.roundRatio (f : Fmt) (neg : Bool) (num den : Nat) (e : Int) : Nat :=
  min (gridCode nearest f.fb f.tmin num den e) f.infCode + (if neg then f.signBit else 0)

def Fmt.encode (f : Fmt) : FVal → Nat
  | .nan => f.nanCode
  | .inf n => f.infCode + (if n then f.signBit else 0)
  | .fin n m e => f.roundRatio n m 1 e

/-- binary32 and binary64 to exact values and back. -/
def f32 (w : Word) : FVal := Fmt.f32.decode w.toNat
def f64 (w : Dbl) : FVal := Fmt.f64.decode w.toNat
def f16 (w : BitVec 16) : FVal := Fmt.f16.decode w.toNat
def rne32 (v : FVal) : Word := BitVec.ofNat 32 (Fmt.f32.encode v)
def rne64 (v : FVal) : Dbl := BitVec.ofNat 64 (Fmt.f64.encode v)
def rne16 (v : FVal) : BitVec 16 := BitVec.ofNat 16 (Fmt.f16.encode v)

/-- The binary32 NaN the part produces (R85). -/
def nan32 : Word := 0x7FC00000#32
def posInf32 : Word := 0x7F800000#32
def negInf32 : Word := 0xFF800000#32

def add32 (a b : Word) : Word := rne32 ((f32 a).add (f32 b))
def sub32 (a b : Word) : Word := rne32 ((f32 a).sub (f32 b))
def mul32 (a b : Word) : Word := rne32 ((f32 a).mul (f32 b))
def fma32 (a b c : Word) : Word := rne32 (((f32 a).mul (f32 b)).add (f32 c))
def add64 (a b : Dbl) : Dbl := rne64 ((f64 a).add (f64 b))
def mul64 (a b : Dbl) : Dbl := rne64 ((f64 a).mul (f64 b))
def sub64 (a b : Dbl) : Dbl := rne64 ((f64 a).sub (f64 b))
def fma64 (a b c : Dbl) : Dbl := rne64 (((f64 a).mul (f64 b)).add (f64 c))
def widen (a : Word) : Dbl := rne64 (f32 a)
def narrow (a : Dbl) : Word := rne32 (f64 a)

/-- Correctly rounded quotient in a format. -/
def Fmt.div (f : Fmt) : FVal → FVal → Nat
  | .nan, _ => f.nanCode
  | _, .nan => f.nanCode
  | .inf _, .inf _ => f.nanCode
  | .inf a, .fin b _ _ => f.encode (.inf (a ^^ b))
  | .fin a _ _, .inf b => f.encode (.fin (a ^^ b) 0 0)
  | .fin a m e, .fin b n g =>
    if n = 0 then (if m = 0 then f.nanCode else f.encode (.inf (a ^^ b)))
    else f.roundRatio (a ^^ b) m n (e - g)

def div32 (a b : Word) : Word := BitVec.ofNat 32 (Fmt.f32.div (f32 a) (f32 b))
def div64 (a b : Dbl) : Dbl := BitVec.ofNat 64 (Fmt.f64.div (f64 a) (f64 b))

/-- ⌊√n⌋, one result bit per round from bit `k` down. -/
def isqrtFrom (n : Nat) : Nat → Nat → Nat
  | 0, r => if (r + 1) * (r + 1) ≤ n then r + 1 else r
  | k + 1, r => let r' := r + 2 ^ (k + 1); isqrtFrom n k (if r' * r' ≤ n then r' else r)

def isqrt (n : Nat) : Nat := isqrtFrom n (Nat.log2 n / 2 + 1) 0

/-- √(num/den·2^e) or its reciprocal to about 100 bits and a sticky bit, as m·2^t: enough to round once to any format. -/
def sqrtSticky (m : Nat) (e : Int) : Nat × Int :=
  let up := 2 * (100 + e.natAbs % 2)
  let n := m * 2 ^ (up + (e % 2).toNat)
  let s := isqrt n
  (2 * s + (if s * s = n then 0 else 1), (e - e % 2 - up) / 2 - 1)

def sqrt32 (a : Word) : Word :=
  match f32 a with
  | .nan => nan32
  | .inf n => if n then nan32 else posInf32
  | .fin n m e =>
    if m = 0 then a else if n then nan32
    else let s := sqrtSticky m e; rne32 (.fin false s.1 s.2)

/-- Reciprocal square root: +∞ of +0, NaN of a negative (R221); of -0, -∞ (the reciprocal's sign, log entry 13). -/
def rsqrt32 (a : Word) : Word :=
  match f32 a with
  | .nan => nan32
  | .inf n => if n then nan32 else 0#32
  | .fin n m e =>
    if m = 0 then (if n then negInf32 else posInf32) else if n then nan32
    else
      -- √(2^400 / m) with its sticky bit, exponent halved
      let e' := -e
      let p := 2 ^ (400 + (e' % 2).toNat)
      let q := p / m
      let s := isqrt q
      let exact := decide (p % m = 0) && decide (s * s = q)
      rne32 (.fin false (2 * s + (if exact then 0 else 1)) ((e' - e' % 2) / 2 - 201))

/-! ### exp, log, exp2, log2 (R221), evaluated in fixed point with `fixBits` fraction bits (log entry 13) -/

def fixBits : Nat := 192
def fixOne : Int := 2 ^ fixBits

/-- Σ z^(2k+1)/(2k+1) of a fixed-point z, terms k = 0 to n-1: atanh z. -/
def atanhSum (z z2 : Int) : Nat → Int → Int
  | 0, _ => 0
  | n + 1, k => z / k + atanhSum (z * z2 / fixOne) z2 n (k + 2)

/-- atanh of a fixed-point z, |z| at most 1/3. -/
def atanhFix (z : Int) : Int := atanhSum z (z * z / fixOne) 64 1

/-- ln 2 = 2 atanh (1/3). -/
def ln2Fix : Int := 2 * atanhFix (fixOne / 3)

/-- Σ r^k/k!, from term `t` = r^(k-1)/(k-1)!. -/
def expSum (r : Int) : Nat → Int → Int → Int
  | 0, _, t => t
  | n + 1, k, t => t + expSum r n (k + 1) (t * r / fixOne / k)

/-- e^r of a fixed-point r, |r| at most 1. -/
def expFix (r : Int) : Int := expSum r 56 1 fixOne

/-- A finite value as fixed point, rounded down. -/
def toFix (neg : Bool) (m : Nat) (e : Int) : Int :=
  let p := ratio m 1 (e + fixBits)
  if neg then -(ceilDiv p.1 p.2 : Nat) else ((p.1 / p.2 : Nat) : Int)

/-- Round the positive fixed-point number v·2^k, its tail sticky. -/
def roundFix (neg : Bool) (v : Int) (k : Int) : Word := rne32 (.fin neg (2 * v.natAbs + 1) (k - fixBits - 1))

/-- exp (x·c) for c = 1 (`two` false) or c = ln 2. -/
def expGen (two : Bool) (a : Word) : Word :=
  match f32 a with
  | .nan => nan32
  | .inf n => if n then 0#32 else posInf32
  | .fin n m e =>
    if m = 0 then 0x3F800000#32
    else if 9 ≤ floorLog2 m 1 + e then (if n then 0#32 else posInf32)
    else if floorLog2 m 1 + e < -40 then 0x3F800000#32
    else
      let x := toFix n m e
      if two then
        let k := x / fixOne
        let r := x % fixOne
        if r = 0 then rne32 (.fin false 1 k) else roundFix false (expFix (r * ln2Fix / fixOne)) k
      else
        let k := x / ln2Fix
        roundFix false (expFix (x - k * ln2Fix)) k

def exp32 (a : Word) : Word := expGen false a
def exp2_32 (a : Word) : Word := expGen true a

/-- ln of a positive finite value, fixed point: e·ln 2 + 2 atanh ((y-1)/(y+1)), y in [3/4, 3/2). -/
def lnFix (m : Nat) (e : Int) : Int × Int :=
  let l : Int := floorLog2 m 1
  let k := if 3 * 2 ^ l.toNat ≤ 2 * m then l + 1 else l
  -- y = m·2^(-k)
  let p : Int := m
  let q : Int := 2 ^ k.toNat
  (e + k, 2 * atanhFix ((p - q) * fixOne / (p + q)))

def logGen (two : Bool) (a : Word) : Word :=
  match f32 a with
  | .nan => nan32
  | .inf n => if n then nan32 else posInf32
  | .fin n m e =>
    if m = 0 then negInf32 else if n then nan32
    else
      let r := lnFix m e
      if two then
        if r.2 = 0 then rne32 (FVal.ofInt r.1)
        else let v := r.1 * fixOne + r.2 * fixOne / ln2Fix; roundFix (decide (v < 0)) v 0
      else
        let v := r.1 * ln2Fix + r.2
        if r.1 = 0 && r.2 = 0 then 0#32 else roundFix (decide (v < 0)) v 0

def log32 (a : Word) : Word := logGen false a
def log2_32 (a : Word) : Word := logGen true a

/-! ### Selections -/

/-- The lesser of two values, -0 below +0; NaN if either is NaN (R216). -/
def min32 (a b : Word) : Word :=
  if f32 a = .nan || f32 b = .nan then nan32
  else if (f32 a).cmp (f32 b) < 0 then a
  else if (f32 b).cmp (f32 a) < 0 then b
  else if (f32 a).sign then a else b

def max32 (a b : Word) : Word :=
  if f32 a = .nan || f32 b = .nan then nan32
  else if (f32 a).cmp (f32 b) < 0 then b
  else if (f32 b).cmp (f32 a) < 0 then a
  else if (f32 a).sign then b else a

/-- |x| of the largest finite magnitude in a list (R90): NaN and infinities left out; +0 of none. -/
def amaxOf (xs : List Word) : Word :=
  xs.foldl (fun a x => if (f32 x).isFinite && (f32 a).lt (f32 x).abs then x &&& 0x7FFFFFFF#32 else a) 0#32

/-- One level of the pairwise tree of R213. -/
def treeLevel {α : Type} (f : α → α → α) : List α → List α
  | a :: b :: t => f a b :: treeLevel f t
  | t => t

/-- The pairwise tree over a list, `n` levels. -/
def treeJoin {α : Type} (f : α → α → α) : Nat → List α → List α
  | 0, l => l
  | n + 1, l => treeJoin f n (treeLevel f l)

/-- The join of a list by the fixed pairwise tree of R213; `d` for an empty list. -/
def joinTree {α : Type} (f : α → α → α) (d : α) (l : List α) : α :=
  (treeJoin f l.length l).headD d

end Sys2Proof.Machine
end

