-- ==== Sys2Proof/Machine/Formats.lean ====
section
/-! DEFINITION. The part's number formats and every conversion between them (02_number_formats.md), the exact runs of the
tiles and cubes (R81 to R86, R209 to R217), and the keyed generator (R227, R228). -/

namespace Sys2Proof.Machine

/-- Counts of one conversion (R96): saturations, non-finite values, non-zero values rounded to zero. -/
structure Tally where
  sat    : Nat
  nonfin : Nat
  zero   : Nat
  deriving DecidableEq, Repr

def Tally.none : Tally := { sat := 0, nonfin := 0, zero := 0 }
def Tally.one (sat nonfin zero : Bool) : Tally := { sat := sat.toNat, nonfin := nonfin.toNat, zero := zero.toNat }
def Tally.add (a b : Tally) : Tally := { sat := a.sat + b.sat, nonfin := a.nonfin + b.nonfin, zero := a.zero + b.zero }

/-! ### NF8 and NG8 (R74, R75) -/

/-- NF8: 3 fraction bits, smallest step 2^-9; 0x80 is the only NaN. -/
def nf8Val (c : Byte) : FVal :=
  if c = 0x80#8 then .nan
  else let v := gridVal 3 (-9) (c.toNat % 128); .fin (c.getLsbD 7) v.1 v.2

/-- NG8: 2 fraction bits, smallest step 2^-16; exponent field 31 is infinity or NaN. -/
def ng8Val (c : Byte) : FVal :=
  let m := c.toNat % 128
  if 0x7C < m then .nan
  else if m = 0x7C then .inf (c.getLsbD 7)
  else let v := gridVal 2 (-16) m; .fin (c.getLsbD 7) v.1 v.2

/-- Conversion to NF8 under exponent k (R77). -/
def toNF8 (k : Int) (x : FVal) : Byte × Tally :=
  match x with
  | .fin neg m e =>
    let c := gridCode nearest 3 (-9) m 1 (e - k)
    let c' := min c 0x7F
    (BitVec.ofNat 8 (if c' = 0 then 0 else if neg then 128 + c' else c'),
     Tally.one (decide (0x7F < c)) false (decide (c = 0 ∧ m ≠ 0)))
  | _ => (0x80#8, Tally.one false true false)

/-- The magnitude code of a stochastic rounding (R78): up when the top 16 bits of the fraction plus `r` carry. -/
def stochasticCode (r : Nat) (m : Nat) (e : Int) : Nat :=
  if m = 0 then 0
  else
    let t := max (floorLog2 m 1 + e - 2) (-16)
    let p := ratio m 1 (e - t)
    let d := p.1 % p.2 * 65536 / p.2
    p.1 / p.2 + (t + 16).toNat * 4 + (if 65536 ≤ d + r then 1 else 0)

/-- Conversion to NG8 under exponent k (R77), stochastic where `r` is given (R78). -/
def toNG8 (k : Int) (infOnOvf : Bool) (r : Option Nat) (x : FVal) : Byte × Tally :=
  let sgn (neg : Bool) (c : Nat) : Byte := BitVec.ofNat 8 (if neg then 128 + c else c)
  match x with
  | .nan => (0x7F#8, Tally.one false true false)
  | .inf neg => (sgn neg 0x7C, Tally.one false true false)
  | .fin neg m e =>
    let c := match r with
      | some r => stochasticCode r m (e - k)
      | none => gridCode nearest 2 (-16) m 1 (e - k)
    if 0x7B < c then (sgn neg (if infOnOvf then 0x7C else 0x7B), Tally.one true false false)
    else (sgn neg c, Tally.one false false (decide (c = 0 ∧ m ≠ 0)))

/-- Smallest k with m·2^e ≤ f·2^k, for positive m. -/
def leastExp (f m : Nat) (e : Int) : Int :=
  let k := floorLog2 m f + e
  let p := ratio m f (e - k)
  if p.1 ≤ p.2 then k else k + 1

/-- A tensor exponent fixed by a magnitude (R91, R461): 0 for magnitude 0, clamped to -32..31; `true` where clamped. -/
def expFor (f : Nat) (a : FVal) : Int × Bool :=
  match a with
  | .fin _ m e =>
    if m = 0 then (0, false)
    else let k := leastExp f m e; (max (-32) (min 31 k), decide (k < -32 ∨ 31 < k))
  | _ => (0, false)

def maxNF8 : Nat := 480
def maxNG8 : Nat := 57344

/-! ### BS8 (R71, R72) -/

/-- BS8: 3 fraction bits, smallest step 2^-22; 0xFF is poison. -/
def bs8Val (c : Byte) : FVal :=
  if c = 0xFF#8 then .nan else let v := gridVal 3 (-22) c.toNat; .fin false v.1 v.2

/-- BS8_up of num/den·2^e, and whether it saturates. -/
def bs8Up (num den : Nat) (e : Int) : Byte × Bool :=
  let c := gridCode ceilDiv 3 (-22) num den e
  if 0xFE < c then (0xFE#8, true) else (BitVec.ofNat 8 c, false)

/-- BS8_up(v / d) of a value; a NaN gives poison. -/
def bs8UpVal (v : FVal) (d : Nat) : Byte × Bool :=
  match v with
  | .fin _ m e => bs8Up m d e
  | .inf _ => (0xFE#8, true)
  | .nan => (0xFF#8, false)

/-! ### BI blocks (R69, R73) -/

/-- M_n. -/
def biMax (n : Nat) : Nat := if n ≤ 1 then 1 else 2 ^ (n - 1) - 1

/-- The n bits of a BIn element (R69): the sign alone for BI1, else the sign above the n − 1 magnitude bits; 0 is never written with
a sign. -/
def biBits (n : Nat) (x : Int) : Nat :=
  if n ≤ 1 then (if x < 0 then 1 else 0) else (if x < 0 then 2 ^ (n - 1) else 0) + x.natAbs % 2 ^ (n - 1)

/-- The value of a BIn element's bits: a sign with magnitude 0 reads as 0, and BI1 has no 0. -/
def biValue (n b : Nat) : Int :=
  if n ≤ 1 then (if b % 2 = 1 then -1 else 1)
  else let m : Int := (b % 2 ^ (n - 1) : Nat); if b / 2 ^ (n - 1) % 2 = 1 then -m else m

/-- A block in memory (R70): 8n bytes of packed elements, element 0 in the lowest bits, then its BS8 scale. -/
def biPack (n : Nat) (codes : List Int) (scale : Byte) : List Byte :=
  let v := codes.zipIdx.foldl (fun s c => s + biBits n c.1 * 2 ^ (n * c.2)) 0
  (List.range (8 * n)).map (fun i => BitVec.ofNat 8 (v / 256 ^ i)) ++ [scale]

/-- The 64 elements and the scale of a block's bytes. -/
def biUnpack (n : Nat) (bs : List Byte) : List Int × Byte :=
  let v := (bs.take (8 * n)).zipIdx.foldl (fun s b => s + b.1.toNat * 256 ^ b.2) 0
  ((List.range 64).map (fun i => biValue n (v / 2 ^ (n * i) % 2 ^ n)), bs.getD (8 * n) 0)

/-- The elements and the scale of a converted block, read from its memory form. -/
def BiBlock.codes (b : BiBlock) : List Int := (biUnpack b.width b.bytes).1
def BiBlock.scale (b : BiBlock) : Byte := (biUnpack b.width b.bytes).2

/-- A BI element as a 16-bit sign-magnitude integer, as operand halves hold it (R69), and its value. -/
def signMag (x : Int) : BitVec 16 := BitVec.ofNat 16 ((if x < 0 then 32768 else 0) + x.natAbs % 32768)
def ofSignMag (b : BitVec 16) : Int := biValue 16 b.toNat

/-- v / S to the nearest integer, ties to even (S not zero). -/
def quotient (v : FVal) (s : FVal) : Int :=
  match v, s with
  | .fin neg m e, .fin _ d f =>
    let p := ratio m d (e - f)
    let x : Int := (nearest p.1 p.2 : Nat)
    if neg then -x else x
  | _, _ => 0

/-- One element under scale S (R73 steps 3 to 7): its code and the value sent to the Anise path, if any. -/
def biElem (n : Nat) (sc : Byte) (v : FVal) : Int × Option FVal :=
  let s := bs8Val sc
  let x := quotient v s
  let sgn : Int := if v.sign && v.nonZero then -1 else 1
  if !v.isFinite then (if n = 1 then sgn else 0, none)
  else
    let exceeds := if sc = 0#8 then v.nonZero else decide (biMax n < x.natAbs)
    if n = 1 then (sgn, if exceeds then some (v.sub ((FVal.ofInt sgn).mul s)) else none)
    else if exceeds then (0, some v)
    else (if sc = 0#8 then 0 else x, none)

/-- A block row converted to BIn. -/
structure BiConv where
  codes    : List Int
  scale    : Byte
  outliers : List (Nat × FVal)
  tally    : Tally
  deriving DecidableEq, Repr

/-- The largest finite magnitude among values. -/
def amaxVals (vs : List FVal) : FVal :=
  vs.foldl (fun a v => if v.isFinite && a.lt v.abs then v.abs else a) (.fin false 0 0)

/-- R73 for one block under the tracker scale `st` (`none`: the block's own magnitude alone decides). -/
def biConvert (n : Nat) (st : Option Byte) (vs : List FVal) : BiConv :=
  let own := bs8UpVal (amaxVals vs) (biMax n)
  let s := match st with
    | some t => if t.toNat ≤ own.1.toNat then t else own.1
    | none => own.1
  let es := vs.map (biElem n s)
  let nonfin := (vs.filter (fun v => !v.isFinite)).length
  { codes := es.map (·.1)
    scale := if nonfin = 0 then s else 0xFF#8
    outliers := (es.zipIdx.filterMap (fun p => p.1.2.map (fun v => (p.2, v))))
    tally := { sat := own.2.toNat, nonfin := nonfin, zero := 0 } }

/-! ### Trits and weight codes (R59 to R65) -/

/-- L for t trits. -/
def tritMax (t : Nat) : Nat := (3 ^ t - 1) / 2

/-- The balanced-ternary expansion (R62), trit 0 first. -/
def trits : Nat → Int → List Int
  | 0, _ => []
  | t + 1, w =>
    let r := w % 3
    let d := if r = 2 then -1 else r
    d :: trits t ((w - d) / 3)

/-- Σ d_j 3^j. -/
def ofTrits : List Int → Int
  | [] => 0
  | d :: ds => d + 3 * ofTrits ds

def tw8 (w : Int) : Byte := BitVec.ofNat 8 (w + 121).toNat
def ofTw8 (b : Byte) : Int := (b.toNat : Int) - 121

/-- Valid TW8 bytes of a layer (R61). -/
def tw8Valid (t : Nat) (binary : Bool) (b : Byte) : Bool :=
  if binary then b = 120#8 || b = 122#8 else decide ((ofTw8 b).natAbs ≤ tritMax t)

/-- The scale of a block of masters (R63): BS8_up(a / L), a the largest finite magnitude, and whether it saturated. -/
def weightScale (t : Nat) (ms : List Word) : Byte × Bool := bs8UpVal (f32 (amaxOf ms)) (tritMax t)

/-- The code of a master (R60, R64); `wp` the programmed code where one exists. -/
def weightCode (t : Nat) (binary : Bool) (q : Byte) (m : Word) (wp : Option Int) : Int × Tally :=
  let v := f32 m
  let l : Int := tritMax t
  let w0 := quotient v (bs8Val q)
  let sat := match v with
    | .nan => false
    | .inf _ => true
    | v => if q = 0#8 then v.nonZero else decide (l < w0.natAbs)
  let sgn : Int := if v.sign then -1 else 1
  let w : Int :=
    if binary then (if v = .nan || v.isZero then wp.getD 1 else sgn)
    else if q = 0#8 then 0
    else match v with
      | .nan => 0
      | .inf _ => sgn * l
      | _ => if w0.natAbs ≤ tritMax t then w0 else sgn * l
  (w, Tally.one sat (decide (v = .nan)) false)

/-- The epact e = RNE(m − w·q) (R65). -/
def epact (m : Word) (w : Int) (q : Byte) : Word := rne32 ((f32 m).sub ((FVal.ofInt w).mul (bs8Val q)))

/-! ### Runs -/

/-- Whether a list of exact terms holds a NaN, or infinities of both signs, or of one (R85). -/
def runSpecial (ps : List FVal) : Option FVal :=
  if ps.any (fun p => decide (p = .nan)) then some .nan
  else
    let pos := ps.any (fun p => decide (p = .inf false))
    let neg := ps.any (fun p => decide (p = .inf true))
    if pos && neg then some .nan else if pos then some (.inf false) else if neg then some (.inf true) else none

/-- The exponent of a product written as R82 writes it. -/
def FVal.expo : FVal → Int
  | .fin _ _ e => e
  | _ => 0

/-- A product in units of 2^u, truncated toward zero. -/
def truncUnits (u : Int) (p : FVal) : Int :=
  match p with
  | .fin neg m e =>
    let r := ratio m 1 (e - u)
    let q : Int := (r.1 / r.2 : Nat)
    if neg then -q else q
  | _ => 0

/-- The largest exponent of the non-zero products: the anchor (R82); `none` with no such product. -/
def anchor (ps : List FVal) : Option Int :=
  match (ps.filter FVal.nonZero).map FVal.expo with
  | [] => none
  | e :: es => some (es.foldl max e)

/-- A run register and its unit 2^u (R82): the products truncated to the unit `s` below the anchor and summed exactly. -/
def maceReg (s : Nat) (ps : List FVal) : Int × Int :=
  match anchor ps with
  | none => (0, 0)
  | some a => let u := a - s; ((ps.map (truncUnits u)).foldl (· + ·) 0, u)

/-- The Mace run of R82 with shift `s`: the register times its unit, exactly; specials as R85. -/
def maceRun (s : Nat) (ps : List FVal) : FVal :=
  match runSpecial ps with
  | some v => v
  | none => let r := maceReg s ps; (FVal.ofInt r.1).scale r.2

/-- An exact integer run (R211): its register, and its value, specials apart. -/
def exactReg (ps : List FVal) : Int := (ps.map (fun p => p.units 0)).foldl (· + ·) 0
def exactRun (ps : List FVal) : FVal :=
  match runSpecial ps with
  | some v => v
  | none => FVal.ofInt (exactReg ps)

/-- Bit position of the leading one. -/
def leadBit (n : Nat) : Nat := Nat.log2 n

/-- A difference run's register and how far its terms are shifted right (R215): the terms are exact integers of steps. -/
def diffReg (ts : List FVal) : Int × Nat :=
  let ns := ts.map (fun t => (t.units 0).natAbs)
  let sh := leadBit (ns.foldl max 0) - 16
  (((ns.map (fun n => n / 2 ^ sh)).foldl (· + ·) 0 : Nat), sh)

/-- A difference run (R215): the promoted value without k and unit. -/
def diffRun (ts : List FVal) : FVal :=
  match runSpecial ts with
  | some v => v
  | none => let r := diffReg ts; (FVal.ofInt r.1).scale r.2

/-- The forward run register (R81): R clamped to ±(2^23 − 1), and whether it clamped. -/
def clampRun (r : Int) : Int × Bool :=
  let m : Int := 2 ^ 23 - 1
  (max (-m) (min m r), decide (m < r.natAbs))

/-- A_b = RNE(R·2^-3·S_b·q_ob) (R81). -/
def forwardRun (r : Int) (sb q : Byte) : Word :=
  rne32 ((((FVal.ofInt r).scale (-3)).mul (bs8Val sb)).mul (bs8Val q))

/-! ### AES-128 (FIPS 197) and the generator of R227, R228 -/

/-- FIPS 197's S-box, 32 entries a row, entry 0 of a row in its lowest byte. -/
def sboxRows : List Nat :=
  [0xc072a49cafa2d4adf04759fa7dc982ca76abd7fe2b670130c56f6bf27b777c63,
   0x75b227ebe28012079a059618c323c7041531d871f1e5a534ccf73f362693fdb7,
   0xcf584c4a39becb6a5bb1fc20ed00d153842fe329b3d63b52a05a6e1b1a2c8309,
   0xd2f3ff1021dab6bcf5389d928f40a351a89f3c507f02f94585334d43fbaaefd0,
   0xdb0b5ede14b8ee4688902a22dc4f816073195d643d7ea7c41744975fec130ccd,
   0x08ae7a65eaf4566ca94ed58d6d37c8e779e4959162acd3c25c2406490a3a32e0,
   0x9e1dc186b95735610ef6034866b53e708a8bbd4b1f74dde8c6b4a61c2e2578ba,
   0x16bb54b00f2d99416842e6bf0d89a18cdf2855cee9871e9b948ed9691198f8e1]

def sbox (b : Byte) : Byte := BitVec.ofNat 8 ((sboxRows.getD (b.toNat / 32) 0) >>> (8 * (b.toNat % 32)))

/-- Multiplication by x in GF(2^8). -/
def xtime (b : Byte) : Byte := (b <<< 1) ^^^ (if b.getLsbD 7 then 0x1B#8 else 0#8)

/-- A 128-bit block as its 16 bytes, highest first. -/
def bytes16 (w : BitVec 128) : List Byte := (List.range 16).map (fun i => (w >>> (8 * (15 - i))).setWidth 8)
def ofBytes16 (bs : List Byte) : BitVec 128 := bs.foldl (fun a b => (a <<< 8) ||| b.setWidth 128) 0#128

/-- The next round key. -/
def aesNextKey (rc : Byte) (k : BitVec 128) : BitVec 128 :=
  let w (i : Nat) : Word := (k >>> (32 * (3 - i))).setWidth 32
  let r := (w 3).rotateLeft 8
  let sb (i : Nat) : Word := (sbox ((r >>> (8 * i)).setWidth 8)).setWidth 32 <<< (8 * i)
  let g := sb 0 ||| sb 1 ||| sb 2 ||| sb 3
  let a := w 0 ^^^ g ^^^ ((rc.setWidth 32 : Word) <<< 24)
  let b := w 1 ^^^ a
  let c := w 2 ^^^ b
  let d := w 3 ^^^ c
  a ++ b ++ c ++ d

def subShift (s : List Byte) : List Byte :=
  (List.range 16).map (fun i => sbox (s.getD ((i + 4 * (i % 4)) % 16) 0#8))

def mixColumns (s : List Byte) : List Byte :=
  (List.range 16).map (fun i =>
    let c := i / 4 * 4
    let g (j : Nat) : Byte := s.getD (c + (i + j) % 4) 0#8
    xtime (g 0) ^^^ (xtime (g 1) ^^^ g 1) ^^^ g 2 ^^^ g 3)

def xorKey (s : List Byte) (k : BitVec 128) : List Byte := List.zipWith (· ^^^ ·) s (bytes16 k)

/-- Rounds 1 to 10, `n` left; the last one mixes no columns. -/
def aesRounds : Nat → Byte → BitVec 128 → List Byte → List Byte
  | 0, _, _, s => s
  | n + 1, rc, k, s =>
    let k' := aesNextKey rc k
    let t := subShift s
    aesRounds n (xtime rc) k' (xorKey (if n = 0 then t else mixColumns t) k')

def aes128 (key block : BitVec 128) : BitVec 128 := ofBytes16 (aesRounds 10 1#8 key (xorKey (bytes16 block) key))

/-- The counter block of R228. -/
def counterBlock (step : Dbl) (layer stream site block word : Nat) : BitVec 128 :=
  step ++ BitVec.ofNat 12 layer ++ BitVec.ofNat 4 stream ++ BitVec.ofNat 4 site ++ BitVec.ofNat 40 block ++ 0#1
    ++ BitVec.ofNat 3 word

/-- The 16-bit value of element e of a 64-element block (R228). -/
def generator (key : BitVec 128) (step : Dbl) (layer stream site block e : Nat) : Nat :=
  let w := aes128 key (counterBlock step layer stream site block (e / 8))
  ((w >>> (112 - 16 * (e % 8))).toNat) % 65536

end Sys2Proof.Machine
end

