-- ==== Sys2Proof/Machine/CubeArith.lean ====
section
/-! DEFINITION. The arithmetic of a Mace cube: which buffered element meets which (R208), its run rules (R209 to R211,
R215 to R217), its accumulators (R84, R86, R214), and the forward output (R87). -/

namespace Sys2Proof.Machine

/-- Place of A′(i, r) in an operand half of 8×8 tiles held row by row (R208). -/
def aIndex (axis : Bool) (i r : Nat) : Nat := r / 8 * 64 + (if axis then r % 8 * 8 + i else i * 8 + r % 8)
/-- Place of B′(r, j). -/
def bIndex (axis : Bool) (r j : Nat) : Nat := r / 8 * 64 + (if axis then j * 8 + r % 8 else r % 8 * 8 + j)

/-- The scale a run of a block-mode BI or TW8 operand carries for its row or column `o` (R83, R211), and the tensor exponent. -/
def blockScale (h : Half) (o : Nat) : Byte := h.scales.getD o 0#8
def expOf (h : Half) (o : Nat) : Int := h.exps.getD o 0

/-- The exact operand (R82, R210, R211): a BI element as its integer, with its own scale in scaled-input form. -/
def operand (h : Half) (idx outer r : Nat) : FVal :=
  let raw := h.elems.getD idx 0#16
  match h.fmt with
  | .ng8 => ng8Val (raw.setWidth 8)
  | .nf8 => nf8Val (raw.setWidth 8)
  | .tw8 => FVal.ofInt (ofTw8 (raw.setWidth 8))
  | .bin16 => f16 raw
  | .biBlock =>
    let s := blockScale h outer
    if s = 0xFF#8 then .nan else if s = 0#8 then .fin false 0 0 else FVal.ofInt (ofSignMag raw)
  | .biScaled => (FVal.ofInt (ofSignMag raw)).mul (bs8Val (h.scales.getD r 0#8))

/-- The same as a full value, tensor exponent and block scale applied (R79). Under block scale 0x00 an element counts as 0 (R71); the
sign of that zero is the element's here (DESIGN CHOICE, log entry 99). -/
def operandFull (h : Half) (idx outer r : Nat) : FVal :=
  match h.fmt with
  | .biBlock => (FVal.ofInt (ofSignMag (h.elems.getD idx 0#16))).mul (bs8Val (blockScale h outer))
  | .ng8 => (operand h idx outer r).scale (expOf h outer)
  | .nf8 => (operand h idx outer r).scale (expOf h outer)
  | _ => operand h idx outer r

/-- The shift of R82 and R210 for a pair. -/
def pairShift (a b : CubeFmt) : Nat :=
  match a, b with
  | .ng8, .ng8 => 11
  | .nf8, .ng8 => 10
  | .ng8, .nf8 => 10
  | .nf8, .nf8 => 9
  | .biBlock, _ => 7
  | _, .biBlock => 7
  | _, _ => 3

/-- The unit of a difference format: its smallest step (R215). -/
def stepExp (f : CubeFmt) : Int := if f = .nf8 then -9 else -16

/-- The initial accumulator of a kind (R214). -/
def initAcc (k : CubeKind) : Word :=
  match k with
  | .minPlus => posInf32
  | .maxPlus => negInf32
  | _ => 0#32

/-- Whether `a REL b` (R217); a NaN makes every relation false but ≠. -/
def relHolds (rel : Nat) (a b : FVal) : Bool :=
  if a = .nan || b = .nan then decide (rel = 3)
  else
    let c := a.cmp b
    match rel with
    | 0 => decide (c < 0)
    | 1 => decide (c ≤ 0)
    | 2 => decide (c = 0)
    | 3 => decide (c ≠ 0)
    | 4 => decide (0 ≤ c)
    | _ => decide (0 < c)

/-- A count that stops at 0xFFFFFFFF. -/
def satAdd32 (w : Word) (n : Nat) : Word := BitVec.ofNat 32 (min (w.toNat + n) 0xFFFFFFFF)

/-- A multiply-add run promoted to binary32 (R83, R210, R211). -/
def promote (a b : Half) (i j : Nat) (ps : List FVal) : Word :=
  match a.fmt, b.fmt with
  | .biBlock, .tw8 => rne32 (((exactRun ps).mul (bs8Val (blockScale a i))).mul (bs8Val (blockScale b j)))
  | .tw8, .biBlock => rne32 (((exactRun ps).mul (bs8Val (blockScale b j))).mul (bs8Val (blockScale a i)))
  | .biBlock, _ => rne32 (((maceRun 7 ps).scale (expOf b j)).mul (bs8Val (blockScale a i)))
  | _, .biBlock => rne32 (((maceRun 7 ps).scale (expOf a i)).mul (bs8Val (blockScale b j)))
  | .biScaled, _ => rne32 ((maceRun 3 ps).scale (expOf b j))
  | _, .biScaled => rne32 ((maceRun 3 ps).scale (expOf a i))
  | f, g => rne32 ((maceRun (pairShift f g) ps).scale (expOf a i + expOf b j))

/-- The exact terms of one output element's run over `len` reduction indices: products, or differences in steps of the format (R215). -/
def runTerms (d : CubeDesc) (a b : Half) (len i j : Nat) : List FVal :=
  let av (r : Nat) : FVal := operand a (aIndex d.axisA i r) i r
  let bv (r : Nat) : FVal := operand b (bIndex d.axisB r j) j r
  let u := stepExp a.fmt
  (List.range len).map (fun r => match d.kind with
    | .ada => (((av r).sub (bv r)).abs).scale (-u)
    | .sda => let t := ((av r).sub (bv r)).scale (-u); t.mul t
    | _ => (av r).mul (bv r))

/-- One output element's run register after a run; an operation without one leaves it (R86, R216, R217). -/
def regElem (d : CubeDesc) (a b : Half) (len i j : Nat) (old : BitVec 24) : BitVec 24 :=
  let ts := runTerms d a b len i j
  let shift : Nat := match a.fmt, b.fmt with
    | .biBlock, _ => 7
    | _, .biBlock => 7
    | .biScaled, _ => 3
    | _, .biScaled => 3
    | f, g => pairShift f g
  match d.kind with
  | .madd =>
    if a.fmt = .bin16 then old
    else if a.fmt = .tw8 || b.fmt = .tw8 then BitVec.ofInt 24 (exactReg ts) else BitVec.ofInt 24 (maceReg shift ts).1
  | .ada => BitVec.ofInt 24 (diffReg ts).1
  | .sda => BitVec.ofInt 24 (diffReg ts).1
  | _ => old

/-- One output element's accumulator after one run of `len` reduction indices. -/
def accElem (d : CubeDesc) (a b : Half) (len i j : Nat) (acc : Word) : Word :=
  let rs := List.range len
  let af (r : Nat) : FVal := operandFull a (aIndex d.axisA i r) i r
  let bf (r : Nat) : FVal := operandFull b (bIndex d.axisB r j) j r
  let ts := runTerms d a b len i j
  let u := stepExp a.fmt
  match d.kind with
  | .madd => if a.fmt = .bin16 then ts.foldl (fun acc t => add32 acc (rne32 t)) acc else add32 acc (promote a b i j ts)
  | .ada => add32 acc (rne32 ((diffRun ts).scale (u + expOf a i)))
  | .sda => add32 acc (rne32 ((diffRun ts).scale (2 * u + 2 * expOf a i)))
  | .minPlus => rs.foldl (fun acc r => min32 acc (add32 (rne32 (af r)) (rne32 (bf r)))) acc
  | .maxPlus => rs.foldl (fun acc r => max32 acc (add32 (rne32 (af r)) (rne32 (bf r)))) acc
  | .cmp rel => satAdd32 acc (rs.filter (fun r => relHolds rel (af r) (bf r))).length

/-- Whether a run gives nothing to output element `p` (R121). -/
def skipped (a b : Half) (p : Nat) : Bool := a.skip.contains p || b.skip.contains p

/-- All 64 accumulators after one run, C(i, j) at 8i + j. -/
def accRun (d : CubeDesc) (a b : Half) (len : Nat) (acc : List Word) : List Word :=
  (List.range 64).map (fun p =>
    let w := acc.getD p (initAcc d.kind)
    if skipped a b p then w else accElem d a b len (p / 8) (p % 8) w)

/-- All 64 run registers after one run. -/
def regRun (d : CubeDesc) (a b : Half) (len : Nat) (regs : List (BitVec 24)) : List (BitVec 24) :=
  (List.range 64).map (fun p => let w := regs.getD p 0; if skipped a b p then w else regElem d a b len (p / 8) (p % 8) w)

/-- Whether two operations are of one kind (R214); compare-counts are, whatever their relation. -/
def sameKind (x y : CubeKind) : Bool := match x, y with
  | .cmp _, .cmp _ => true
  | x, y => decide (x = y)

/-- The join of two partials of a kind: binary32 addition (R213), selection (R216), or counting (R217). -/
def joinPartial (k : CubeKind) (x y : Word) : Word :=
  match k with
  | .minPlus => min32 x y
  | .maxPlus => max32 x y
  | .cmp _ => satAdd32 x y.toNat
  | _ => add32 x y

/-- Segment sums joined by the tree of R213, element by element. -/
def joinSegments (k : CubeKind) (segs : List (List Word)) : List Word :=
  (List.range 64).map (fun p => joinTree (joinPartial k) (initAcc k) (segs.map (fun s => s.getD p (initAcc k))))

/-- An 8×8 tile transposed (OUT_T). -/
def transpose8 (t : List Word) : List Word := (List.range 64).map (fun p => t.getD (p % 8 * 8 + p / 8) 0#32)

/-- The wide accumulation of runs in ascending index from +0 (R84). -/
def wideSum (rs : List Word) : Word := rs.foldl add32 0#32

end Sys2Proof.Machine
end

