-- ==== Sys2Proof/Machine/Operands.lean ====
section
/-! DEFINITION. Operand forms: descriptor operands (R291, R292), resource names (R381), counter names (R96, R123, R175,
R237, R270, R271, R337, R354), and the keys of weights, blocks and rows in the state's tables. -/

namespace Sys2Proof.Machine

/-! ### Keys -/

/-- Key of a weight: layer, output, input. -/
def wkey (layer out idx : Nat) : Nat := (layer * 1048576 + out) * 1048576 + idx
/-- Key of a weight block: layer, output, block of 64 inputs. -/
def bkey (layer out block : Nat) : Nat := wkey layer out block
/-- Key of optimiser word `word` of a weight. -/
def okey (layer out idx word : Nat) : Nat := wkey layer out idx * 256 + word
/-- Key of a block row of a layer's BI input: layer, row, block. -/
def brkey (layer row block : Nat) : Nat := wkey layer row block
/-- Key of a forward run: layer, row, output, block. -/
def runkey (layer row out block : Nat) : Nat := wkey layer row out * 65536 + block

def keyLayer (k : Nat) : Nat := k / 1099511627776
def keyOut (k : Nat) : Nat := k / 1048576 % 1048576
def keyIdx (k : Nat) : Nat := k % 1048576

/-! ### Resources (R381) -/

def resKey (r : Resource) : Nat :=
  let d := if r.kind = 7 then 0 else r.die
  let l := if r.kind = 1 then r.leaf else 0
  ((r.kind * 8 + d) * 8192 + r.index) * 4 + l

def resTile (d : DieId) (t : Nat) : Resource := { kind := 0, die := d.val, index := t, leaf := 0 }
def resLeaf (d : DieId) (t l : Nat) : Resource := { kind := 1, die := d.val, index := t, leaf := l }
def resGroup (d : DieId) (g : Nat) : Resource := { kind := 2, die := d.val, index := g, leaf := 0 }
def resWunit (d : DieId) (u : Nat) : Resource := { kind := 3, die := d.val, index := u, leaf := 0 }
def resPort (d : DieId) (p : Nat) : Resource := { kind := 5, die := d.val, index := p, leaf := 0 }
def resRing (s : Nat) : Resource := { kind := 7, die := 0, index := s, leaf := 0 }

/-- Kind and die of a resource key. -/
def resKeyKind (k : Nat) : Nat := k / 262144
def resKeyDie (k : Nat) : Nat := k / 32768 % 8
def resKeyIndex (k : Nat) : Nat := k / 4 % 8192

/-- How many units of a kind lie on a die; ring sets on the module (R381). -/
def resCount (kind : Nat) : Nat := [4160, 4160, 64, 64, 28, 4, 496, 64].getD kind 0

/-! ### Counters -/

/-- The counters a die keeps, by register block. -/
inductive CntKey where
  | ovf (pid : Pid) (layer cls kind : Nat)
  | ani (pid : Pid) (layer kind : Nat)
  | wr (pid : Pid) (layer kind : Nat)
  | mce (kind : Nat)
  | stepc (pid : Pid) (kind : Nat)
  | smp (pid : Pid) (layer kind : Nat)
  | cdm (port : PortId) (kind : Nat)
  | stk (kind : Nat)
  | clip
  deriving DecidableEq, Repr

/-- Which block clears the counter (R97). -/
def CntKey.block : CntKey → Nat
  | .ovf _ _ _ _ => 0
  | .ani _ _ _ => 1
  | .wr _ _ _ => 2
  | .mce _ => 3
  | .stepc _ _ => 4
  | .smp _ _ _ => 5
  | .cdm _ _ => 6
  | .stk _ => 7
  | .clip => 8

/-- The counter's place in the die's table: block, kind, class, layer and partition in their own digits. -/
def cntCode (blk kind cls layer pid : Nat) : Nat := blk + 16 * (kind + 16 * (cls + 16 * (layer + 4096 * pid)))

def CntKey.code : CntKey → Nat
  | .ovf p l c k => cntCode 0 k c l p.val
  | .ani p l k => cntCode 1 k 0 l p.val
  | .wr p l k => cntCode 2 k 0 l p.val
  | .mce k => cntCode 3 k 0 0 0
  | .stepc p k => cntCode 4 k 0 0 p.val
  | .smp p l k => cntCode 5 k 0 l p.val
  | .cdm q k => cntCode 6 k q.val 0 0
  | .stk k => cntCode 7 k 0 0 0
  | .clip => cntCode 8 0 0 0 0

/-! ### Descriptor operands (R291, R292): packed in listed order from byte 0x10, little-endian (log entry 14) -/

/-- `n` bytes of the operands from byte `o` on. -/
def dopnd (d : Desc) (o n : Nat) : Nat := (d.operands >>> (8 * o)).toNat % 256 ^ n

/-- Bytes of operands that opcode `op` uses (R292). -/
def opndLen (op : Nat) : Nat :=
  match op with
  | 0x01 => 16
  | 0x02 => 19
  | 0x03 => 16
  | 0x04 => 4
  | 0x10 => 40
  | 0x11 => 40
  | 0x12 => 9
  | 0x13 => 9
  | 0x20 => 8
  | 0x21 => 12
  | _ => 0

/-- The opcodes of R292. -/
def knownOpcode (op : Nat) : Bool := [0x00, 0x01, 0x02, 0x03, 0x04, 0x10, 0x11, 0x12, 0x13, 0x20, 0x21, 0x22].contains op

/-- Opcodes a control ring alone takes, and those any ring takes (R292). -/
def controlOpcode (op : Nat) : Bool := op = 0x21 || op = 0x22
def anyRingOpcode (op : Nat) : Bool := op = 0x00 || op = 0x20

/-- Reserved bits and unused operand bytes zero, operands in range, host addresses 4 KiB aligned (R291, R292). -/
def dWellFormed (d : Desc) : Bool :=
  let op := d.opcode.toNat
  let aligned (o : Nat) : Bool := decide (dopnd d o 8 % 4096 = 0)
  knownOpcode op && decide (d.flags.toNat < 4) && decide (d.rsvd = 0#16)
    && decide (d.operands.toNat / 256 ^ opndLen op = 0)
    && (match op with
        | 0x01 => aligned 0
        | 0x02 => aligned 0 && decide (dopnd d 8 8 % 2097152 = 0) && decide (dopnd d 16 1 ≤ 1) && decide (dopnd d 17 1 ≤ 15)
                    && decide (dopnd d 18 1 ≤ 1)
        | 0x03 => aligned 0
        | 0x10 => aligned 0 && aligned 16
        | 0x11 => aligned 0 && aligned 16 && aligned 32
        | 0x12 => decide (dopnd d 0 1 ≤ 15)
        | 0x13 => decide (dopnd d 0 1 ≤ 15)
        | _ => true)

def dNowait (d : Desc) : Bool := d.flags.getLsbD 0
def dResult (d : Desc) : Bool := d.flags.getLsbD 1

end Sys2Proof.Machine
end

