-- ==== Sys2Proof/Machine/Regs.lean ====
section
/-! DEFINITION. Where the RW fields of the set-up registers are held (R456): by offset, in the die's block for a per-die
register and in the module's for a module-wide one, as the difference from the reset value, so that reset lists nothing. -/

namespace Sys2Proof.Machine

/-- A register's offset (in BAR0, or in its die's blocks) and reset value. -/
structure RegDef where
  off   : Nat
  reset : Word
  deriving DecidableEq, Repr

def calDcntCtrl : RegDef := { off := 0x8, reset := 0x00000001#32 }
def wunOvfSel : RegDef := { off := 0x4200, reset := 0x00000000#32 }
def clvTileSel : RegDef := { off := 0x1000, reset := 0x00000000#32 }
def clvRetCfg : RegDef := { off := 0x1010, reset := 0x00001008#32 }
def clvAniSel : RegDef := { off := 0x1020, reset := 0x00000000#32 }
def clvWrSel : RegDef := { off := 0x1048, reset := 0x00000000#32 }
def clvWrCfg : RegDef := { off := 0x1054, reset := 0x040003E8#32 }
def calCfg : RegDef := { off := 0x100, reset := 0x000A0004#32 }
def calLeafSel : RegDef := { off := 0x110, reset := 0x00000000#32 }
def cnvDiagTgt : RegDef := { off := 0x2000, reset := 0x00000000#32 }
def cnvDiagCtrl : RegDef := { off := 0x2004, reset := 0x40000000#32 }
def cnvMonSel : RegDef := { off := 0x2010, reset := 0x00000000#32 }
def mceCubeSel : RegDef := { off := 0x3000, reset := 0x00000000#32 }
def mceCntSel : RegDef := { off := 0x3010, reset := 0x00000000#32 }
def wunUnitSel : RegDef := { off := 0x4000, reset := 0x00000000#32 }
def wunRngSel : RegDef := { off := 0x400C, reset := 0x00000000#32 }
def wunPartSel : RegDef := { off := 0x42FC, reset := 0x00000000#32 }
def wunStepCntSel : RegDef := { off := 0x4318, reset := 0x00000000#32 }
def mceSmpCfg : RegDef := { off := 0x3100, reset := 0x00000808#32 }
def mceSmpSel : RegDef := { off := 0x3108, reset := 0x00000000#32 }
def ringSetSel : RegDef := { off := 0x80004, reset := 0x00000000#32 }
def cdmPortSel : RegDef := { off := 0x6000, reset := 0x00000000#32 }
def cdmPortCtrl : RegDef := { off := 0x6004, reset := 0x00000000#32 }
def cdmLaneCfg : RegDef := { off := 0x6010, reset := 0x00000010#32 }
def cdmCntSel : RegDef := { off := 0x6014, reset := 0x00000000#32 }
def cdmDigestCfg : RegDef := { off := 0x6024, reset := 0x03E80004#32 }
def stkCfg : RegDef := { off := 0x5000, reset := 0x0040185A#32 }
def stkErrSel : RegDef := { off := 0x5008, reset := 0x00000000#32 }
def stkRetireLo : RegDef := { off := 0x501C, reset := 0x00000000#32 }
def stkRetireHi : RegDef := { off := 0x5020, reset := 0x00000000#32 }
def stkMargin : RegDef := { off := 0x5028, reset := 0x40000000#32 }
def safTestCfg : RegDef := { off := 0x83100, reset := 0x00000001#32 }
def safDigestSel : RegDef := { off := 0x8311C, reset := 0x00000000#32 }
def safXchkCfg : RegDef := { off := 0x83130, reset := 0x00000308#32 }
def partBindReq : RegDef := { off := 0x81000, reset := 0x000003E0#32 }
def partSel : RegDef := { off := 0x81010, reset := 0x00000000#32 }
def partCntSel : RegDef := { off := 0x81018, reset := 0x00000000#32 }
def partSet : RegDef := { off := 0x81020, reset := 0x00000000#32 }
def pwrCtrl : RegDef := { off := 0x82000, reset := 0x40000000#32 }
def pwrPl : RegDef := { off := 0x82008, reset := 0x00000006#32 }
def pwrCap : RegDef := { off := 0x8200C, reset := 0x00000708#32 }
def pwrVigilCfg : RegDef := { off := 0x82010, reset := 0x0000000A#32 }
def pwrLimitCfg : RegDef := { off := 0x82014, reset := 0x00057C0A#32 }
def pwrIdle : RegDef := { off := 0x82018, reset := 0x00000032#32 }
def pwrDieSel : RegDef := { off := 0x82020, reset := 0x00000000#32 }
def pwrRefSel : RegDef := { off := 0x82028, reset := 0x00000010#32 }
def safReset : RegDef := { off := 0x831A0, reset := 0x00000000#32 }
def tstClassSel : RegDef := { off := 0x8000, reset := 0x00000000#32 }
def tstAckDelay : RegDef := { off := 0x8004, reset := 0x00000000#32 }
def tstStretch : RegDef := { off := 0x8008, reset := 0x00000010#32 }
def tstBackpress : RegDef := { off := 0x800C, reset := 0x00000000#32 }
def tstPattern : RegDef := { off := 0x8010, reset := 0x00000001#32 }

/-- Bits `hi` to `lo` of a word. -/
def bits (w : Word) (hi lo : Nat) : Nat := w.toNat / 2 ^ lo % 2 ^ (hi + 1 - lo)

/-- A register's value in a table of differences, and the table with it written. -/
def rget (t : Tab Word) (r : RegDef) : Word := tget 0 t r.off ^^^ r.reset
def rset (t : Tab Word) (r : RegDef) (v : Word) : Tab Word := tset 0 t r.off (v ^^^ r.reset)

def Die.reg (x : Die) (r : RegDef) : Word := rget x.regs r
def Die.setReg (x : Die) (r : RegDef) (v : Word) : Die := { x with regs := rset x.regs r v }
def Dev.reg (m : Dev) (r : RegDef) : Word := rget m.regs r
def Dev.setReg (m : Dev) (r : RegDef) (v : Word) : Dev := { m with regs := rset m.regs r v }

/-- A register of which each channel class, or each port, of a die keeps its own value (R337, R460). -/
def banked (r : RegDef) (n : Nat) : RegDef := { r with off := r.off + n * 0x10000 }

end Sys2Proof.Machine
end

