-- ==== Sys2Proof/Machine/Ops.lean ====
section
/-! DEFINITION. The named operations the meanings are written with: reaching a unit of the state, raising an event, counting,
ownership, completing a descriptor, and taking a fault: rollback, job stop, fencing (R42 to R54, R356 to R363). -/

namespace Sys2Proof.Machine

/-- A meaning's answer. -/
abbrev Res := Host.Outcome State Fault Refusal

/-- A meaning that always completes: it changes the module and leaves the queue. -/
def State.go (s : State) (f : Dev → Dev) : Res := .next { s with dev := f s.dev }

/-- Do `f` when `c` holds. -/
def when {α : Type} (c : Bool) (f : α → α) (x : α) : α := if c then f x else x

/-- The module's register blocks answer, except in Off (R431). -/
def Dev.regsUp (m : Dev) : Bool := decide (m.power.st ≠ .off)

/-! ### Reaching units -/

def dieIds : List DieId := [0, 1, 2, 3, 4, 5, 6, 7]
def partIds : List Pid := [0, 1, 2, 3, 4, 5, 6, 7, 8, 9, 10, 11, 12, 13, 14, 15]
def setIds : List SetId := (List.range 64).map (Fin.ofNat 64)
def portIds : List PortId := [0, 1, 2, 3]
def leafIds : List LeafId := [0, 1, 2, 3]

def Dev.die (m : Dev) (d : DieId) : Die := m.dies[d]
def Dev.part (m : Dev) (p : Pid) : Part := m.parts[p]
def Dev.ring (m : Dev) (k : SetId) : RingSet := m.rings[k]

def Dev.modDie (m : Dev) (d : DieId) (f : Die → Die) : Dev := { m with dies := m.dies.set d (f m.dies[d]) }
def Dev.modPart (m : Dev) (p : Pid) (f : Part → Part) : Dev := { m with parts := m.parts.set p (f m.parts[p]) }
def Dev.modRing (m : Dev) (k : SetId) (f : RingSet → RingSet) : Dev := { m with rings := m.rings.set k (f m.rings[k]) }

/-- Change the committed state, or the running step, of a partition. -/
def Dev.modCom (m : Dev) (p : Pid) (f : Committed → Committed) : Dev := m.modPart p (fun x => { x with com := f x.com })
def Dev.modRun (m : Dev) (p : Pid) (f : StepRun → StepRun) : Dev := m.modPart p (fun x => { x with run := x.run.map f })

def Die.tile (x : Die) (t : Nat) : Tile := tget Tile.reset x.tiles t
def Die.modTile (x : Die) (t : Nat) (f : Tile → Tile) : Die := { x with tiles := tmod Tile.reset x.tiles t f }
def Tile.leaf (t : Tile) (l : LeafId) : Leaf := tget Leaf.reset t.leaves l.val
def Tile.modLeaf (t : Tile) (l : LeafId) (f : Leaf → Leaf) : Tile := { t with leaves := tmod Leaf.reset t.leaves l.val f }
def Die.leaf (x : Die) (t : Nat) (l : LeafId) : Leaf := (x.tile t).leaf l
def Die.modLeaf (x : Die) (t : Nat) (l : LeafId) (f : Leaf → Leaf) : Die := x.modTile t (fun y => y.modLeaf l f)
def Die.cube (x : Die) (c : Nat) : Cube := tget Cube.reset x.cubes c
def Die.modCube (x : Die) (c : Nat) (f : Cube → Cube) : Die := { x with cubes := tmod Cube.reset x.cubes c f }
def Die.wunit (x : Die) (u : Nat) : WUnit := tget WUnit.reset x.wunits u
def Die.modWunit (x : Die) (u : Nat) (f : WUnit → WUnit) : Die := { x with wunits := tmod WUnit.reset x.wunits u f }
def Die.port (x : Die) (p : PortId) : Port := tget Port.reset x.ports p.val
def Die.modPort (x : Die) (p : PortId) (f : Port → Port) : Die := { x with ports := tmod Port.reset x.ports p.val f }

/-- Send something out at a connector. -/
def Dev.emit (m : Dev) (o : Out) : Dev := { m with out := m.out ++ [o] }

/-- Advance the counter of free draws by `n`; the draws are `m.free` to `m.free + n - 1` (log entry 2). -/
def Dev.drawn (m : Dev) (n : Nat) : Dev := { m with free := m.free + n }

/-! ### Dies in service (R43, R54) -/

def Dev.inService (m : Dev) (d : DieId) : Bool := decide ((m.die d).cls = .inService)
def Dev.fencedDie (m : Dev) (d : DieId) : Bool := decide ((m.die d).cls = .fenced)
/-- Whether a die's register blocks can be written: it is up and not fenced (R97, R431, R457). -/
def Dev.dieRegs (m : Dev) (d : DieId) : Bool := (m.die d).booted && !m.fencedDie d
def Dev.healthy (m : Dev) : List DieId := dieIds.filter m.inService
/-- A mask with bit n set for each die of the list. -/
def dieMask (ds : List DieId) : Nat := (ds.map (fun d => 2 ^ d.val)).foldl (· + ·) 0
def Dev.healthyMask (m : Dev) : Nat := dieMask m.healthy

/-- The die whose counter times what no die detects (R376 CDIE). -/
def Dev.clockDie (m : Dev) : Option DieId := m.map.primary.or m.healthy.head?

/-- Present value of the counter that `clockDie` names; 0 with no die. -/
def Dev.now (m : Dev) : Dbl := match m.clockDie with
  | some d => (m.die d).dcnt
  | none => 0

/-- Every die's duration counter, for an interval that a later primary may end: a counter value has no meaning on another die (R38). -/
def Dev.stamps (m : Dev) : List Dbl := dieIds.map (fun d => (m.die d).dcnt)

/-- Nanoseconds since `stamps`, on the counter of the die that holds the primary now (R6, R358, R454). -/
def Dev.elapsed (m : Dev) (since : List Dbl) : Dbl := match m.clockDie with
  | some d => (m.die d).dcnt - since.getD d.val 0
  | none => 0

/-- Apply `f` to every healthy die. -/
def Dev.eachHealthy (m : Dev) (f : Die → Die) : Dev := m.healthy.foldl (fun m d => m.modDie d f) m

/-! ### SAF_DIE_MAP (R54) -/

/-- Partitions that hold an almanac. -/
def Dev.loadedParts (m : Dev) : List Pid := partIds.filter (fun p => (m.part p).almanac.isSome)

/-- The register's value for the present state: VARIANT is that of the lowest-numbered partition running a loss variant,
DIGITAL_ONLY whether any partition runs the all-digital form (log entry 15). -/
def Dev.dieMapWord (m : Dev) : Word :=
  let vs := (m.loadedParts.map (fun p => (m.part p).variant)).filter (· ≠ 0)
  let pr := match m.map.primary with
    | some d => d.val
    | none => 15
  BitVec.ofNat 8 m.healthyMask ++ BitVec.ofNat 8 (dieMask (dieIds.filter m.fencedDie)) ++ 0#3
    ++ BitVec.ofBool (m.loadedParts.any (fun p => (m.part p).digital)) ++ BitVec.ofNat 4 pr
    ++ BitVec.ofNat 4 (vs.headD 0) ++ BitVec.ofNat 4 m.healthy.length

def Dev.publishMap (m : Dev) : Dev := { m with dieMap := m.dieMapWord }

/-! ### Counters (R96, R97) -/

/-- Add to a counter, which stops at 0xFFFFFFFF. -/
def Die.count (x : Die) (k : CntKey) (n : Nat) : Die :=
  { x with cnt := tmod 0#32 x.cnt k.code (fun w => satAdd32 w n) }

def Die.counter (x : Die) (k : CntKey) : Word := tget 0#32 x.cnt k.code

/-- Clear every counter of a block (CLEAR_ALL), or one (CLEAR_SEL). -/
def Die.clearBlock (x : Die) (blk : Nat) : Die := { x with cnt := tkeep x.cnt (fun k => k % 16 ≠ blk) }
def Die.clearOne (x : Die) (k : CntKey) : Die := { x with cnt := tset 0#32 x.cnt k.code 0 }

def Dev.count (m : Dev) (d : DieId) (k : CntKey) (n : Nat) : Dev := m.modDie d (fun x => x.count k n)

/-- Count a conversion in its class (R96, R462). -/
def Dev.countTally (m : Dev) (d : DieId) (p : Pid) (layer cls : Nat) (t : Tally) : Dev :=
  m.modDie d (fun x => ((x.count (.ovf p layer cls 0) t.sat).count (.ovf p layer cls 1) t.nonfin).count
    (.ovf p layer cls 2) t.zero)

/-! ### Events (R376 to R378) -/

/-- Severity and ACTION of an event's row in R378; for a row with two actions, the one listed first. -/
def evRow : Ev → Nat × Nat
  | .clv n => ([(0,1),(1,1),(1,2),(1,0),(1,3),(0,1),(1,2),(0,0),(1,0),(1,2),(0,0),(0,1)] : List (Nat × Nat)).getD (n - 1) (0, 0)
  | .cal n => ([(1,1),(0,1),(3,2),(0,1),(0,0),(1,0),(2,0)] : List (Nat × Nat)).getD (n - 1) (0, 0)
  | .cnv n => ([(1,1),(1,1),(0,0),(1,1)] : List (Nat × Nat)).getD (n - 1) (0, 0)
  | .mce n => ([(0,1),(1,1),(1,1),(0,3),(0,0),(2,7),(0,0),(1,3)] : List (Nat × Nat)).getD (n - 1) (0, 0)
  | .wun n => ([(0,1),(1,1),(1,5),(1,0),(0,0),(1,5),(0,3)] : List (Nat × Nat)).getD (n - 1) (0, 0)
  | .ring n => ([(0,0),(1,0),(1,0),(0,0)] : List (Nat × Nat)).getD (n - 1) (0, 0)
  | .cdm n => ([(0,1),(1,1),(1,1),(1,4),(2,6),(1,4),(2,5),(1,0),(0,0),(1,0),(3,9),(2,6)] : List (Nat × Nat)).getD (n - 1) (0, 0)
  | .stk n => ([(1,0),(1,1),(2,6),(3,9),(0,0),(0,0),(2,6),(2,5),(3,8)] : List (Nat × Nat)).getD (n - 1) (0, 0)
  | .saf n => ([(2,1),(3,8),(1,0),(3,9),(1,0),(3,9),(3,9),(3,9),(2,0),(1,1),(0,0),(0,1),(3,10),(1,0),(1,0),(0,0),(3,9)] : List (Nat × Nat)).getD (n - 1) (0, 0)
  | .part n => ([(0,0),(0,0),(1,0),(1,0)] : List (Nat × Nat)).getD (n - 1) (0, 0)
  | .pwr n => ([(0,0),(0,0),(0,0),(3,1)] : List (Nat × Nat)).getD (n - 1) (0, 0)
  | .tst n => ([(1,0),(1,0),(0,0)] : List (Nat × Nat)).getD (n - 1) (0, 0)

/-- An event with its row's severity and action and nothing else known. -/
def ev (c : Ev) : Event :=
  { code := c, sev := (evRow c).1, die := none, part := none, counter := 0, step := 0, epoch := 0, unit := 0, index := 0,
    sub := 0, data := 0, cdie := none, action := (evRow c).2, layer := none }

/-- An event of a die. -/
def evDie (c : Ev) (d : DieId) : Event := { ev c with die := some d.val }
/-- An event of a unit of a die: KIND, INDEX and SUB of R376. -/
def evUnit (c : Ev) (d : DieId) (kind index sub : Nat) : Event :=
  { ev c with die := some d.val, unit := kind, index := index, sub := sub }

/-- Put a record into a die's buffer of 1,024; the oldest is dropped when it is full (R377). -/
def Die.buffer (x : Die) (e : Event) : Die :=
  if x.evBuf.length < 1024 then { x with evBuf := x.evBuf ++ [e] }
  else { x with evBuf := x.evBuf.drop 1 ++ [e], evLost := x.evLost + 1 }

/-- Step number of the partition's job: committed steps plus one (R240). -/
def Dev.stepNo (m : Dev) (p : Pid) : Dbl := (m.part p).com.steps + 1

/-- The record of an event detected by die `det` (by what has no counter: `none`). Severity 3 asserts the fault alert until
SAF_ALERT is cleared (R377). -/
def Dev.record (m : Dev) (det : Option DieId) (e : Event) : Dev :=
  let cd := det.or m.clockDie
  let p : Option Pid := e.part.map (fun n => Fin.ofNat 16 n)
  let e1 : Event :=
    { e with
      cdie := cd.map (fun d => d.val)
      counter := match cd with
        | some d => (m.die d).dcnt
        | none => 0
      step := match p with
        | some p => if (m.part p).almanac.isSome then m.stepNo p else 0
        | none => 0
      epoch := match p with
        | some p => (m.part p).epoch
        | none => 0 }
  let m := when (decide (e.sev = 3)) (fun m => { m with board := { m.board with sev3 := true } }) m
  match cd with
  | some d => m.modDie d (fun x => x.buffer e1)
  | none => { m with evMod := m.evMod ++ [e1] }

/-- BLOCK of R376. -/
def Ev.block : Ev → Nat
  | .clv _ => 1
  | .mce _ => 2
  | .wun _ => 3
  | .cdm _ => 4
  | .cal _ => 5
  | .cnv _ => 6
  | .stk _ => 7
  | .saf _ => 8
  | .pwr _ => 9
  | .ring _ => 10
  | .part _ => 11
  | .tst _ => 12

/-- A power-state entry is aborted by a cause's BLOCK code, after every block has accepted (R424). -/
def Dev.abortEntry (m : Dev) (blk : Nat) : Dev :=
  match m.power.req with
  | some r =>
    if r.accepted && !r.exiting then
      let pw := m.power
      let pw1 : Power := { pw with req := none, aborts := BitVec.ofNat 28 (min (pw.aborts.toNat + 1) 0xFFFFFFF), lastCause := blk,
                                   hostResult := if r.src = some .host then 2 else pw.hostResult,
                                   mgmtResult := if r.src = some .mgmt then 2 else pw.mgmtResult }
      ({ m with power := pw1 }).record none { ev (.pwr 2) with data := BitVec.ofNat 64 blk }
    else m
  | none => m

/-- Raise an event. A fault (severity 2 or 3, R376) aborts a power-state entry that every block has accepted (R424). -/
def Dev.raise (m : Dev) (det : Option DieId) (e : Event) : Dev :=
  when (decide (2 ≤ e.sev)) (fun n => n.abortEntry e.code.block) (m.record det e)

/-- Raise for a partition. -/
def Dev.raiseP (m : Dev) (det : Option DieId) (p : Pid) (e : Event) : Dev := m.raise det { e with part := some p.val }

/-! ### Ownership (R381 to R389) -/

/-- The partition a resource is bound to. -/
def Dev.owner (m : Dev) (r : Resource) : Option Pid :=
  match tget 0 m.binds.owners (resKey r) with
  | 0 => none
  | n + 1 => some (Fin.ofNat 16 n)

def Dev.setOwner (m : Dev) (r : Resource) (p : Option Pid) : Dev :=
  { m with binds := { m.binds with owners := tset 0 m.binds.owners (resKey r) (match p with
    | some p => p.val + 1
    | none => 0) } }

/-- Whether a partition has any resource bound on a die. -/
def Dev.hasOn (m : Dev) (p : Pid) (d : DieId) : Bool :=
  m.binds.owners.any (fun e => e.2 = p.val + 1 && resKeyKind e.1 ≠ 7 && resKeyDie e.1 = d.val)

/-- The partitions with a resource bound on a die (R363). -/
def Dev.partsOn (m : Dev) (d : DieId) : List Pid := partIds.filter (fun p => m.hasOn p d)

/-- The ring sets bound to a partition, and the partition of a ring set. -/
def Dev.setsOf (m : Dev) (p : Pid) : List SetId := setIds.filter (fun k => decide (m.owner (resRing k.val) = some p))
def Dev.partOf (m : Dev) (k : SetId) : Option Pid := m.owner (resRing k.val)

/-- CLASS of a ring set: a control ring (R287). -/
def RingSet.isControl (r : RingSet) : Bool := r.ctrl.getLsbD 29
def RingSet.sizeLog2 (r : RingSet) : Nat := (r.ctrl >>> 16).toNat % 32
def RingSet.size (r : RingSet) : Nat := 2 ^ r.sizeLog2
def RingSet.winSlots (r : RingSet) : Nat := r.ctrl.toNat % 64

/-- Whether a partition is in being. -/
def Part.inBeing (p : Part) : Bool := decide (p.st ≠ .notInBeing)
/-- Whether it holds a job: an almanac, and not stopped. -/
def Part.hasJob (p : Part) : Bool := decide (p.st = .loaded) || decide (p.st = .running) || decide (p.st = .suspended)

/-- Whether step work is issued for it: it runs, and issue has not stopped at a preemption point (R284). -/
def Part.issues (p : Part) : Bool := decide (p.st = .running) && p.draining.isNone

/-- The layer entry of an index. -/
def Part.layer (p : Part) (l : Nat) : Option LayerEntry := p.almanac.bind (fun a => a.layerTab[l]?)

/-! ### Completing a descriptor (R292, R296 to R298) -/

/-- Whether a held descriptor has reached its completion point. -/
def Held.isDone (h : Held) : Bool := match h.st with
  | .done _ _ _ _ _ => true
  | _ => false

/-- The descriptor that is up: the first not yet complete. -/
def RingSet.head (r : RingSet) : Option Held := r.held.find? (fun h => !h.isDone)

/-- Change the first descriptor that is not complete. -/
def modHead (f : Held → Held) : List Held → List Held
  | [] => []
  | h :: t => if h.isDone then h :: modHead f t else f h :: t

/-- A completion point: status, detail, STEP and whether a slot was published. The reserved slot is given back unless one
was published; EPOCH and HEALTHY are those of this moment (R296). -/
def Held.complete (epoch : Word) (healthy : Byte) (status detail : Nat) (step : Dbl) (slot : Option Nat) (halts : Bool)
    (h : Held) : Held :=
  { h with st := .done status detail step slot.isSome halts, resv := false, slot := slot, cplEpoch := epoch,
           cplHealthy := healthy }

/-- Status codes (R297). -/
def stAborted : Nat := 0x30
def stReject : Nat := 0x20
def stNotReady : Nat := 0x10
def stDegraded : Nat := 0x01
def stReplayed : Nat := 0x02
def stOk : Nat := 0x00

def Dev.epochOf (m : Dev) (k : SetId) : Word := match m.partOf k with
  | some p => (m.part p).epoch
  | none => 0

/-- HEALTHY of SAF_DIE_MAP. -/
def Dev.mapHealthy (m : Dev) : Byte := (m.dieMap >>> 24).setWidth 8

/-- Halt a ring set (R297). -/
def Dev.haltRing (m : Dev) (k : SetId) (detail : Nat) : Dev :=
  let e : Event := { ev (.ring 2) with part := (m.partOf k).map (fun p => p.val) }
  (m.modRing k (fun r => { r with halted := true, haltDetail := BitVec.ofNat 8 detail })).raise none e

/-- Complete the descriptor that is up on a ring set. -/
def Dev.completeHead (m : Dev) (k : SetId) (status detail : Nat) (step : Dbl) (slot : Option Nat) (halts : Bool) : Dev :=
  let m1 := m.modRing k (fun r =>
    { r with held := modHead (Held.complete (m.epochOf k) m.mapHealthy status detail step slot halts) r.held })
  when halts (fun m => m.haltRing k detail) m1

/-- STEP field of a completion: the step number for STEP, 0 for any other opcode (R296). -/
def Dev.cplStep (m : Dev) (p : Pid) (h : Held) : Dbl := if h.desc.opcode = 0x10#8 then m.stepNo p else 0

/-- The STEP field of the descriptor that is up. -/
def Dev.headStep (m : Dev) (k : SetId) : Dbl := match (m.ring k).head, m.partOf k with
  | some h, some p => m.cplStep p h
  | _, _ => 0

def Dev.reject (m : Dev) (k : SetId) (detail : Nat) : Dev := m.completeHead k stReject detail (m.headStep k) none false
def Dev.completeOk (m : Dev) (k : SetId) : Dev := m.completeHead k stOk 0 0 none false

/-- Set where the descriptor that is up stands. -/
def Dev.setHead (m : Dev) (k : SetId) (f : Held → Held) : Dev := m.modRing k (fun r => { r with held := modHead f r.held })

/-! ### Coming up for execution (R292, R293, R385) -/

/-- Whether a rebind waits on the partition while it runs: its ring sets start nothing new (R385). -/
def Dev.rebindWaits (m : Dev) (p : Pid) : Bool := m.binds.waiting.any (fun w => decide (m.owner w.res = some p))

/-- What a descriptor meets when it comes up: nothing (not its turn), a rejection, or execution. -/
inductive Verdict where
  | idle
  | reject (detail : Nat) (halts : Bool)
  | exec (h : Held) (p : Pid)
  deriving DecidableEq, Repr

/-- Legality of an opcode in a partition's state (R293). -/
def legalIn (op : Nat) (st : PState) : Bool :=
  match st with
  | .notInBeing => false
  | .empty => [0x00, 0x20, 0x01, 0x02].contains op
  | .loaded => op != 0x22
  | .running => [0x00, 0x20, 0x21].contains op
  | .suspended => [0x00, 0x20, 0x02, 0x12, 0x22].contains op
  | .stopped => [0x00, 0x20, 0x01, 0x02, 0x12].contains op

/-- The descriptor up on ring set `k`, judged as R292 and R293 judge it, when its opcode is `op`. It is not its turn while
the partition is in an interruption (R358), while it is being executed, or while a rebind waits on the owner (R385). -/
def Dev.comeUp (m : Dev) (k : SetId) (op : Nat) : Verdict :=
  match (m.ring k).head, m.partOf k with
  | some h, some p =>
    if decide (h.desc.opcode.toNat ≠ op) || decide (h.st = .executing) || (m.part p).intr.isSome || m.rebindWaits p
    then .idle
    else if h.desc.seq ≠ h.index then .reject 0x0B true
    else if !dWellFormed h.desc then .reject 0x02 false
    else if !anyRingOpcode op && (m.ring k).isControl != controlOpcode op then .reject 0x03 false
    else if !legalIn op (m.part p).st then .reject 0x01 false
    else .exec h p
  | _, _ => .idle

/-- Execute the descriptor that is up: rejections complete it, otherwise `f` runs. -/
def Dev.execHead (m : Dev) (k : SetId) (op : Nat) (f : Held → Pid → Dev → Dev) : Dev :=
  match m.comeUp k op with
  | .idle => m
  | .reject d halts => m.completeHead k stReject d (m.headStep k) none halts
  | .exec h p => f h p m

/-! ### Publication of a result slot (R300 to R303) -/

/-- Publish to slot p mod WIN_SLOTS when the descriptor up reserved a slot; each of the slot's lines is snooped first
(R443). Answers the module and the slot. -/
def Dev.publish (m : Dev) (k : SetId) (pay : Payload) : Dev × Option Nat :=
  let r := m.ring k
  match r.head with
  | some h =>
    if h.resv && decide (0 < r.winSlots) then
      let n := r.published.toNat % r.winSlots
      let m1 := m.modRing k (fun r =>
        { r with slots := tset .free r.slots n (.published (r.published.setWidth 31) pay), published := r.published + 1 })
      (m1.emit (.backInvalidate k.val n), some n)
    else (m, none)
  | none => (m, none)

/-! ### Job stop, rollback, die loss -/

/-- Abort the descriptors a job ring still holds (R49, R304). -/
def abortHeld (f : Held → Held) (hs : List Held) : List Held := hs.map (fun h => if h.isDone then h else f h)

/-- A half given back to the sequencer: its run is consumed, or what it held is discarded (R219). -/
def Half.spent (h : Half) : Half := { h with full := false }

/-- A cube whose operation, operands and results are discarded (R235, R236); its registers keep their values. -/
def Cube.dropped (c : Cube) : Cube :=
  { c with a0 := c.a0.spent, a1 := c.a1.spent, b0 := c.b0.spent, b1 := c.b1.spent, part := [], op := none, runsDone := 0,
           res0 := { c.res0 with kind := none, owner := none, part := [] }, res1 := { c.res1 with kind := none, owner := none, part := [] } }

/-- The pieces of stage SRAM that a partition's producers wrote are written no more. -/
def Die.dropPieces (p : Pid) (x : Die) : Die := { x with pieces := x.pieces.filter (fun e => e.2.owner ≠ p) }

/-- Whatever a partition's operations staged on the dies goes: cube operations in progress, operand and result halves of its cube groups,
and what was written to stage SRAM (R235, R236). -/
def Dev.dropStaged (m : Dev) (p : Pid) : Dev :=
  let mine (d : DieId) (e : Nat × Cube) : Bool :=
    decide (m.owner (resGroup d (e.1 / 16)) = some p) || e.2.op.any (fun o => decide (o.owner = p))
  dieIds.foldl (fun n d => n.modDie d (fun x =>
    let cs := x.cubes.foldl (fun t e => if mine d e then tset Cube.reset t e.1 e.2.dropped else t) x.cubes
    ({ x with cubes := cs } : Die).dropPieces p)) m

/-- An armed or draining PREEMPT completes STATE_REJECT when the partition leaves LOADED, RUNNING and SUSPENDED (R293). -/
def Dev.rejectArmed (m : Dev) (p : Pid) : Dev :=
  match (m.part p).armed with
  | some a => (m.modPart p (fun x => { x with armed := none, draining := none })).completeHead a.set stReject 0x01 0 none false
  | none => m

/-- Publish SAF_DIE_MAP at once when no partition is interrupted; otherwise it changes at resumption (R54). -/
def Dev.publishIfCalm (m : Dev) : Dev :=
  if partIds.any (fun p => (m.part p).intr.isSome) then m else m.publishMap

/-- The job of a partition stops (R49): STOPPED, everything staged discarded, accepted uncommitted descriptors of its job
ring complete ABORTED_PRECOMMIT in ring order. A stop that ends the last interruption publishes SAF_DIE_MAP (R54). -/
def Dev.stopJob (m : Dev) (p : Pid) : Dev :=
  if (m.part p).hasJob then
    let m1 := m.rejectArmed p
    let m2 := (m1.setsOf p).foldl (fun n k =>
      if (n.ring k).isControl then n
      else
        let f (h : Held) : Held := Held.complete (m.part p).epoch m.mapHealthy stAborted 0 (m.cplStep p h) none false h
        n.modRing k (fun r => { r with held := abortHeld f r.held })) m1
    let m3 := m2.dropStaged p
    let m4 := m3.modPart p (fun x =>
      { x with st := .stopped, run := none, intr := none, susp := none, draining := none, digestRun := none,
               lastOutcome := if x.run.isSome || x.intr.isSome then 3 else x.lastOutcome })
    when (m.part p).intr.isSome Dev.publishIfCalm m4
  else m

/-- A frame of a kind with nothing in it. -/
def blankFrame (kind : Nat) (p : Pid) : Frame :=
  { kind := kind, mark := 0, mirror := false, partition := p, ring := 0, sender := 0, bucket := 0, chunk := 0, attempt := 0,
    step := 0, offset := 0, elems := [], senderPort := 0, ctr := 0, poison := false, cause := 0, tagOk := true, slots := [],
    maxima := [], entries := [], declarer := 0, bytes := [], place := 0, placeFmt := .bytes, placeK := 0 }

/-! ### Time -/

/-- A die's counter runs while its always-on domain is powered (R37, R414). -/
def Die.tick (x : Die) : Die := if x.booted then { x with dcnt := x.dcnt + 1 } else x

/-- One nanosecond of duration on an idle block (log entry 4): every running counter and the standby time advance. -/
def tick (m : Dev) : Dev :=
  { m with dies := m.dies.map Die.tick, board := { m.board with upNs := m.board.upNs + 1 } }

end Sys2Proof.Machine
end

