-- ==== Sys2Proof/Machine/Almanac.lean ====
section
/-! DEFINITION. Reading a loaded almanac, and the load-time checks of R280 over the container. -/

namespace Sys2Proof.Machine

/-! ### What an almanac says -/

/-- Whether an almanac carries the variant for the loss of a die. -/
def carriesLoss (a : Container) (d : DieId) : Bool := a.lossSet.getLsbD d.val

/-- The all-digital bit of a variant (0 base, n + 1 loss of die n) in DIGITAL_SET (R273). -/
def carriesDigital (a : Container) (variant : Nat) : Bool := a.digitalSet.getLsbD variant

/-- The job key of R227: bytes 0 to 15 of the job secret (R393), byte 0 the highest of the 256-bit value. -/
def jobKey (a : Container) : BitVec 128 := (a.job.jobSecret >>> 128).setWidth 128

/-- The die set of a variant: the base set, less the lost die (R46, R48). -/
def dieSetOf (a : Container) (v : Nat) : List DieId :=
  dieIds.filter (fun d => a.baseSet.getLsbD d.val && decide (v % 16 ≠ d.val + 1))

/-- The analog variants a container announces: 0, and n + 1 for each die n of LOSS_SET. -/
def variantsOf (a : Container) : List Nat :=
  0 :: (dieIds.filter (fun d => a.lossSet.getLsbD d.val)).map (fun d => d.val + 1)

/-- The all-digital forms it announces, as VARIANT codes 0x10 to 0x18. -/
def digitalOf (a : Container) : List Nat :=
  ((List.range 9).filter (fun v => a.digitalSet.getLsbD v)).map (· + 0x10)

/-- The layer's slice plan: column counts c_0 to c_{t-1} (R66, R67). -/
def sliceField (e : LayerEntry) : BitVec 16 :=
  if e.flags.getLsbD 0 then e.slice
  else match e.t with
    | 1 => 0x0002#16
    | 2 => 0x0011#16
    | 3 => 0x00C9#16
    | 4 => 0x0689#16
    | _ => 0x3489#16

def colCount (e : LayerEntry) (j : Nat) : Nat := ((sliceField e) >>> (3 * j)).toNat % 8
def footprint (e : LayerEntry) : Nat := ((List.range 5).map (colCount e)).foldl (· + ·) 0

/-- Bit-planes of a width (R107). -/
def planes (n : Nat) : Nat := if n ≤ 1 then 1 else n - 1

/-- log2 rep_k of a plane (R108, R109). -/
def repLog (e : LayerEntry) (n k : Nat) : Nat :=
  if e.flags.getLsbD 1 then (e.rep >>> (3 * k)).toNat % 8
  else if k + 1 = planes n then 2 else if k + 2 = planes n then 1 else 0

def isBinary (e : LayerEntry) : Bool := e.flags.getLsbD 2
def aniseAbort (e : LayerEntry) : Bool := e.flags.getLsbD 3

/-- The tensor entries of a layer, with their indices. -/
def tensorsOf (a : Container) (l : Nat) : List (Nat × TensorEntry) :=
  match a.layerTab[l]? with
  | some e => ((a.tensorTab.zipIdx.map (fun p => (p.2, p.1))).drop e.firstTensor).take e.tensors
  | none => []

/-- The layer's first tensor entry of a class (R96 codes). -/
def tensorOf (a : Container) (l cls : Nat) : Option (Nat × TensorEntry) := (tensorsOf a l).find? (fun p => p.2.cls = cls)

/-- BI width of a block (R70): the block-width table's, else the layer's. -/
def widthOf (a : Container) (l block : Nat) : Nat :=
  match a.layerTab[l]? with
  | some e =>
    if e.flags.getLsbD 5 then match a.blockWidths.find? (fun b => b.layer = l && b.block = block) with
      | some b => b.width
      | none => e.width
    else e.width
  | none => 1

/-- Placement entries in force under a variant; 0xFF serves every variant. -/
def placesOf (a : Container) (v : Nat) : List PlaceEntry := a.placement.filter (fun p => p.variant = v || p.variant = 0xFF)

/-- Outputs and reduction length of a layer, over all its placement. -/
def outsOf (a : Container) (l : Nat) : Nat :=
  ((a.placement.filter (fun p => p.layer = l)).map (fun p => p.outFirst + p.outCount)).foldl max 0
def rowsOf (a : Container) (l : Nat) : Nat := ((a.placement.filter (fun p => p.layer = l)).map (fun p => p.rows)).foldl max 0
def blocksOf (a : Container) (l : Nat) : Nat := (rowsOf a l + 63) / 64

/-- The TRAIN bit of an output's block (R232). -/
def trainBit (a : Container) (l out block : Nat) : Bool :=
  match a.layerTab[l]? with
  | some e => !(e.flags.getLsbD 4 && a.maskHoles.any (fun h => h.layer = l && h.out = out && h.block = block))
  | none => false

/-- Whether a layer has any TRAIN bit set (R232, R233). -/
def trained (a : Container) (l : Nat) : Bool :=
  (List.range (outsOf a l)).any (fun o => (List.range (blocksOf a l)).any (fun b => trainBit a l o b))

/-- The gradient sequence of R464 as (layer, output, element), in order. -/
def gradSeq (a : Container) : List (Nat × Nat × Nat) :=
  ((List.range a.layerTab.length).filter (trained a)).flatMap (fun l =>
    (List.range (outsOf a l)).flatMap (fun o => (List.range (rowsOf a l)).map (fun i => (l, o, i))))

/-- The VARIANT code of the form in force (R274): the variant, or its all-digital form. -/
def Part.form (x : Part) : Nat := if x.digital then x.variant + 0x10 else x.variant

/-- Whether a section's or entry's VARIANT code serves a form; 0xFF serves every one. -/
def serves (code form : Nat) : Bool := decide (code = form) || decide (code = 0xFF)

/-- The RING_ORDER section in force under a form (R275). -/
def ringOrderOf (a : Container) (v : Nat) : Option RingOrder := a.ringOrders.find? (fun r => serves r.variant v)

/-- The elements of a bucket: a run of the gradient sequence (R464). -/
def bucketElems (a : Container) (v b : Nat) : List (Nat × Nat × Nat) :=
  match ringOrderOf a v with
  | some r =>
    let before := ((r.buckets.filter (fun e => decide (e.bucket < b))).map (fun e => e.elems)).foldl (· + ·) 0
    match r.buckets.find? (fun e => e.bucket = b) with
    | some e => ((gradSeq a).drop before).take e.elems
    | none => []
  | none => []

/-! ### Resources an almanac names (R386, R389) -/

def portRes (p : PortRef) : List Resource := if p.valid then [resPort p.die p.port.val] else []

/-- Everything the almanac names but stage SRAM, which is a count of banks. -/
def namedRes (a : Container) : List Resource :=
  (a.placement.filter (fun p => !p.digital)).flatMap (fun p =>
    [resTile (Fin.ofNat 8 p.die) p.tile, resLeaf (Fin.ofNat 8 p.die) p.tile p.leaf])
  ++ a.schedules.flatMap (fun s => s.cubeGroups.map (resGroup (Fin.ofNat 8 s.die)) ++ s.wunits.map (resWunit (Fin.ofNat 8 s.die)))
  ++ a.ringOrders.flatMap (fun r => r.rings.flatMap (fun g => portRes g.inp ++ portRes g.out ++ portRes g.altIn ++ portRes g.altOut))
  ++ a.mirrors.flatMap (fun e => portRes e.port)
  ++ a.stash.regions.flatMap (fun r => (List.range r.size).map (fun i =>
      { kind := 6, die := r.die, index := r.base + i, leaf := 0 }))

/-- Stage SRAM banks of a partition on a die. -/
def Dev.banks (m : Dev) (p : Pid) (d : Nat) : Nat :=
  (m.binds.owners.filter (fun e => e.2 = p.val + 1 && resKeyKind e.1 = 4 && resKeyDie e.1 = d)).length

/-- Whether the partition holds everything the almanac names (R389); a loss variant's units of a lost die are not named by
the variant running, so units of fenced dies do not count.
The stage SRAM use of a die is its schedule's, the tier-1 stash (R247) and the schedule store (R280). -/
def Dev.holdsAll (m : Dev) (p : Pid) (a : Container) : Bool :=
  (namedRes a).all (fun r => m.fencedDie (Fin.ofNat 8 r.die) || decide (m.owner r = some p))
    && a.schedules.all (fun s => m.fencedDie (Fin.ofNat 8 s.die)
        || decide (s.sramBytes + a.stash.tier1 + Config.scheduleStore ≤ m.banks p s.die * Config.sramBank))

/-- R386: the loaded almanac names something the partition no longer holds. -/
def Dev.incomplete (m : Dev) (p : Pid) : Bool :=
  match (m.part p).almanac with
  | some a => !m.holdsAll p a
  | none => false

/-! ### The checks of R280 -/

/-- ASCII NV8ALMNC, little-endian. -/
def magicAlmanac : Dbl := 0x434E4D4C4138564E#64

/-- The VARIANT codes of R274. -/
def variantCode (v : Nat) : Bool := decide (v ≤ 8) || (decide (0x10 ≤ v) && decide (v ≤ 0x18)) || decide (v = 0xFF)

def dirCount (a : Container) (p : DirEntry → Bool) : Nat := (a.dir.filter p).length

/-- Check 1: the container's form (R273, R275). -/
def wellFormedContainer (a : Container) (len : Nat) : Bool :=
  decide (a.magic = magicAlmanac) && decide (a.format = 1) && decide (a.hdrLen = 256) && decide (a.totalLen = len)
    && decide (1 ≤ a.dir.length) && decide (256 + 32 * a.dir.length ≤ a.totalLen)
    && a.dir.all (fun e => decide (e.offset + e.length ≤ a.totalLen))
    && (match a.dir.getLast? with
        | some e => decide (e.typ = 0xFF) && decide (e.offset + e.length = a.totalLen)
        | none => false)
    && [0x01, 0x02, 0x03, 0x05, 0x0B, 0x0C, 0xFF].all (fun t => decide (dirCount a (fun e => e.typ = t) = 1))
    && (variantsOf a ++ digitalOf a).all (fun v =>
        [0x06, 0x07, 0x08, 0x09, 0x0A].all (fun t => decide (dirCount a (fun e => e.typ = t && e.variant = v) ≤ 1))
        && (dieSetOf a v).all (fun d => decide (dirCount a (fun e => e.typ = 4 && e.variant = v && e.die = d.val) = 1)))

/-- Check 2: both signatures verify under the owner's keys (R279, R396). -/
def Dev.ownerSigned (m : Dev) (g : Signature) : Bool :=
  g.rsaOk && g.slhOk && decide (m.sec.owner = some (g.rsaKeyId, g.slhKeyId))

/-- A length padded to a whole number of 64-byte units (R273; DEDUCED, log entry 119). -/
def pad64 (n : Nat) : Nat := (n + 63) / 64 * 64

/-- Entries and bytes of a section whose layout the spec gives, as the directory must state them (R274; DEDUCED, log entry 119). -/
def sectionForm (a : Container) (e : DirEntry) : Option (Nat × Nat) :=
  let sized (n size : Nat) : Option (Nat × Nat) := some (n, pad64 (n * size))
  match e.typ with
  | 0x01 => some (0, pad64 96)
  | 0x02 => some (a.layerTab.length + a.tensorTab.length, pad64 (32 * a.layerTab.length + 16 * a.tensorTab.length))
  | 0x05 => some (a.stash.tensors.length + a.stash.regions.length, pad64 (32 + 8 * a.stash.tensors.length + 16 * a.stash.regions.length))
  | 0x06 => (a.ringOrders.find? (fun r => r.variant = e.variant)).map (fun r =>
      (r.rings.length + r.buckets.length + r.slots.length, pad64 (16 + 32 * r.rings.length + 16 * r.buckets.length + 8 * r.slots.length)))
  | 0x07 => sized (a.mirrors.filter (fun r => r.variant = e.variant)).length 16
  | 0x08 => sized (a.deadlines.filter (fun r => r.variant = e.variant)).length 16
  | 0x09 => sized (a.preempts.filter (fun r => r.variant = e.variant)).length 16
  | 0xFF => some (0, 16624)
  | _ => none

/-- A directory entry's COUNT and LENGTH against the section it describes (R274, R279). -/
def dirMatches (a : Container) (e : DirEntry) : Bool := match sectionForm a e with
  | some f => decide (e.count = f.1) && decide (e.length = f.2)
  | none => decide (e.typ ≠ 0x06)

/-- Every entry that belongs to one form stands in a section of the directory. -/
def sectionsNamed (a : Container) : Bool :=
  let named (t v : Nat) : Bool := a.dir.any (fun e => e.typ = t && e.variant = v)
  a.ringOrders.all (fun r => named 0x06 r.variant) && a.mirrors.all (fun r => named 0x07 r.variant)
    && a.deadlines.all (fun r => named 0x08 r.variant) && a.preempts.all (fun r => named 0x09 r.variant)

/-- A directory entry's fields (R273, R274). The SIGNATURE section's length is R279's, no multiple of 64. -/
def dirOk (e : DirEntry) : Bool :=
  (decide (1 ≤ e.typ ∧ e.typ ≤ 0x0C) || decide (e.typ = 0xFF)) && variantCode e.variant
    && (decide (e.die ≤ 7) || decide (e.die = 0xFF)) && decide (e.rsvd0 = 0) && decide (e.rsvd1 = 0)
    && decide (e.offset % 64 = 0) && (decide (e.length % 64 = 0) || (decide (e.typ = 0xFF) && decide (e.length = 16624)))

/-- The job header's ranges (R276). -/
def jobOk (j : JobHeader) : Bool :=
  decide (1 ≤ j.accN ∧ j.accN ≤ 32) && decide (j.fbBudget ≤ 16) && decide (1 ≤ j.fbClean ∧ j.fbClean ≤ 4096)
    && decide (1 ≤ j.stormClean ∧ j.stormClean ≤ 1024) && decide (j.smpShift ≤ 12)
    && decide (1 ≤ j.prefetchLead ∧ j.prefetchLead ≤ 8) && (f32 j.clipNorm).isFinite
    && ((f32 j.clipNorm).isZero || !(f32 j.clipNorm).sign) && (f32 j.lscale).nonZero
    && decide (j.policy.toNat < 2) && decide (1 ≤ j.devices ∧ j.devices ≤ 4096) && decide (j.deviceIndex < j.devices)
    && decide (j.rsvd = 0) && decide (j.wrapRsvd = 0)

/-- A slice plan (R66): counts 1 to 4 below t, 0 at and above it, 12 columns at most, the high bit 0. -/
def sliceOk (e : LayerEntry) : Bool :=
  (List.range 5).all (fun j => if j < e.t then decide (1 ≤ colCount e j ∧ colCount e j ≤ 4) else decide (colCount e j = 0))
    && decide (footprint e ≤ 12) && !(sliceField e).getLsbD 15

/-- A repeat plan (R108). -/
def repOk (e : LayerEntry) : Bool :=
  decide (e.rep.toNat < 2097152)
    && (List.range 7).all (fun k => let f := (e.rep >>> (3 * k)).toNat % 8
        decide (f ≤ 4) && (decide (k < planes e.width) || decide (f = 0)))

/-- A layer entry (R277). -/
def layerOk (a : Container) (e : LayerEntry) : Bool :=
  decide (1 ≤ e.t ∧ e.t ≤ 5) && decide (1 ≤ e.width ∧ e.width ≤ 8) && decide (e.epactCap ≤ 16) && decide (e.aniseSlots ≤ 16)
    && decide (e.promotePermille ≤ 1000) && decide (e.fbLimit ≤ 255) && decide (-32 ≤ e.u ∧ e.u ≤ 31)
    && decide (e.tensors ≤ 64) && (decide (e.tensors = 0) || decide (e.firstTensor + e.tensors ≤ a.tensorTab.length)) && decide (e.rsvd = 0) && decide (e.flags.toNat < 64)
    && (e.flags.getLsbD 0 || decide (e.slice = 0#16)) && (e.flags.getLsbD 1 || decide (e.rep = 0#32))
    && sliceOk e && repOk e && (!isBinary e || decide (e.t = 1))

/-- A tensor entry (R278). A drop-out site is an ACT entry (DEDUCED, log entry 111). -/
def tensorOk (a : Container) (e : TensorEntry) : Bool :=
  decide (e.layer < a.layerTab.length) && decide (e.cls ≤ 4) && decide (e.flags.toNat < 8) && decide (e.margin ≤ 3)
    && decide (e.site ≤ 15) && decide (e.drop16 ≤ 32768) && (decide (e.drop16 = 0) || decide (e.cls = 0)) && (f32 e.coldStart).nonZero && !(f32 e.coldStart).sign
    && decide (e.rsvd = 0)
    && (decide (e.flags.toNat % 4 = 0) || decide (e.cls = 2) || decide (e.cls = 3))
    && (decide (e.cls < 3) || (decide (e.margin = 0) && decide (e.site = 0) && decide (e.drop16 = 0)
        && decide (e.flags.toNat / 4 = 0)))
    && (decide (e.cls ≠ 4) || decide (e.flags = 0#8))

/-- Placement (R104): in every variant each output of each layer on exactly one leaf lane, and lanes that exist. -/
def placementOk (a : Container) : Bool :=
  (variantsOf a).all (fun v =>
    (List.range a.layerTab.length).all (fun l =>
      let ps := (placesOf a v).filter (fun p => p.layer = l)
      (List.range (outsOf a l)).all (fun o =>
        decide ((ps.filter (fun p => decide (p.outFirst ≤ o ∧ o < p.outFirst + p.outCount))).length = 1))))
    && a.placement.all (fun p => variantCode p.variant && decide (p.layer < a.layerTab.length) && decide (1 ≤ p.outCount)
        && decide (1 ≤ p.rows ∧ p.rows ≤ 256) && decide (p.die ≤ 7) && decide (p.tile < 4160) && decide (p.leaf ≤ 3)
        && (p.digital || match a.layerTab[p.layer]? with
            | some e => decide (p.laneFirst + p.outCount ≤ min 121 (1024 / footprint e))
            | none => false))
    && (variantsOf a).all (fun v =>
        let ps := (placesOf a v).filter (fun p => !p.digital)
        ps.zipIdx.all (fun x => ps.zipIdx.all (fun y => decide (x.2 = y.2) || decide (x.1.die ≠ y.1.die)
          || decide (x.1.tile ≠ y.1.tile) || decide (x.1.leaf ≠ y.1.leaf)
          || decide (x.1.laneFirst + x.1.outCount ≤ y.1.laneFirst) || decide (y.1.laneFirst + y.1.outCount ≤ x.1.laneFirst))))

/-- A layer with a TRAIN bit set lies on live leaves (R148, R233). -/
def liveOk (a : Container) : Bool := a.placement.all (fun p => p.digital || !p.frozen || !trained a p.layer)

/-- Operand pairs that multiply-add accepts (R209). -/
def pairOk (x y : CubeFmt) : Bool :=
  match x, y with
  | .ng8, .ng8 => true
  | .nf8, .ng8 => true
  | .ng8, .nf8 => true
  | .nf8, .nf8 => true
  | .biBlock, .ng8 => true
  | .ng8, .biBlock => true
  | .biScaled, .ng8 => true
  | .ng8, .biScaled => true
  | .biBlock, .tw8 => true
  | .tw8, .biBlock => true
  | .bin16, .bin16 => true
  | _, _ => false

/-- Formats a selection or comparison takes (R216, R217). -/
def selFmt (x : CubeFmt) : Bool := x != .tw8

/-- One scheduled cube operation (R209, R214, R215, R217, R461). -/
def opOk (a : Container) (o : SchedOp) : Bool :=
  (match o.kind with
    | .madd => pairOk o.fmtA o.fmtB
    | .ada => (o.fmtA == .nf8 || o.fmtA == .ng8) && o.fmtA == o.fmtB && decide (o.expA = o.expB)
    | .sda => (o.fmtA == .nf8 || o.fmtA == .ng8) && o.fmtA == o.fmtB && decide (o.expA = o.expB)
    | .minPlus => selFmt o.fmtA && selFmt o.fmtB
    | .maxPlus => selFmt o.fmtA && selFmt o.fmtB
    | .cmp rel => decide (rel < 6) && selFmt o.fmtA && selFmt o.fmtB)
  && (!o.accKeep || (o.keepsSame && decide (o.keepsKind = o.kind)))
  && (match o.srcAct with
      | some l => (tensorOf a l 0).isSome
      | none => true)

/-- Ring orders (R275, R320, R464). -/
def ringsOk (a : Container) : Bool :=
  (if a.job.devices = 1 then a.ringOrders.isEmpty
   else (variantsOf a ++ digitalOf a).all (fun v => match ringOrderOf a v with
    | some r => decide ((r.rings.filter (fun g => g.closing)).length = 1)
        && r.rings.all (fun g => !g.closing || decide (g.n = a.job.devices))
    | none => false))
  && a.ringOrders.all (fun r => variantCode r.variant && r.rings.all (fun g => decide (g.ring ≤ 255) && decide (2 ≤ g.n ∧ g.n ≤ 4096)
        && decide (g.pos < g.n) && decide (g.rsvd = 0))
      && r.buckets.all (fun b => decide (1 ≤ b.elems ∧ b.elems ≤ 67108864) && decide (b.rsvd = 0))
      && r.slots.all (fun s => decide (s.rsvd = 0))
      && decide ((r.buckets.map (fun b => b.elems)).foldl (· + ·) 0 = (gradSeq a).length))

/-- Numbers in strictly rising order. -/
def rising : List Nat → Bool
  | a :: b :: t => decide (a < b) && rising (b :: t)
  | _ => true

/-- MIRROR, DEADLINE, PREEMPT and GATHER entries (R324, R322, R283, R286), and the tables of the MASK section. -/
def entriesOk (a : Container) : Bool :=
  a.mirrors.all (fun e => decide (1 ≤ e.period ∧ e.period ≤ 1024) && decide (e.phase < e.period) && decide (e.role ≤ 3)
      && decide (e.rsvd = 0))
  && a.deadlines.all (fun e => (decide (e.kind ≤ 4) || decide (e.kind = 15)) && decide (1000 ≤ e.durationNs)
      && decide (e.durationNs ≤ 10000000000) && decide (e.rsvd = 0) && (decide (e.kind ≠ 15) || decide (e.index = 0)))
  && a.preempts.all (fun e => !e.inExchange && decide (e.phase ≠ 6) && decide (e.phase ≠ 7) && decide (e.rsvd = 0))
  && ((a.preempts.map (fun e => e.variant)).eraseDups).all (fun v => rising ((a.preempts.filter (fun e => e.variant = v)).map (fun e => e.point)))
  && a.gathers.all (fun e => decide (e.gatherId ≤ 4095) && decide (1 ≤ e.capacity ∧ e.capacity ≤ 1048576)
      && decide (64 ≤ e.rowBytes ∧ e.rowBytes ≤ 16384) && decide (e.rowBytes % 64 = 0) && decide (e.layer < a.layerTab.length)
      && decide (e.source < a.tensorTab.length) && decide (e.rsvd = 0))
  && a.blockWidths.all (fun b => decide (1 ≤ b.width ∧ b.width ≤ 8))

/-- Two spans of units do not meet. -/
def apart (b s c t : Nat) : Bool := decide (b + s ≤ c) || decide (c + t ≤ b)

/-- Weights placed on a die under a variant, with the layer of each run. -/
def placedOn (a : Container) (v d : Nat) : List (Nat × Nat) :=
  ((placesOf a v).filter (fun p => p.die = d)).map (fun p => (p.layer, p.outCount * p.rows))

/-- 32 times the least bytes of COMMITTED on a die (R341). -/
def committedNeed32 (a : Container) (v d : Nat) : Nat :=
  ((placedOn a v d).map (fun p =>
    let cap := match a.layerTab[p.1]? with
      | some e => e.epactCap
      | none => 0
    p.2 * (64 * (13 + 4 * a.wprog.words) + 2 * cap))).foldl (· + ·) 0 + 32 * 4194304

/-- Least bytes of EXCHANGE on a die. -/
def exchangeNeed (a : Container) (v d : Nat) : Nat :=
  ((placedOn a v d).map (fun p => if trained a p.1 then 9 * p.2 else 0)).foldl (· + ·) 0

def regionsIn (a : Container) (v d : Nat) : List Region :=
  a.stash.regions.filter (fun r => (r.variant = v || r.variant = 0xFF) && r.die = d)

/-- 256 MiB. -/
def stackUnit : Nat := 268435456

/-- One die of one variant of the region plan (R341, R342). -/
def diePlanOk (a : Container) (v : Nat) (d : DieId) : Bool :=
  let rs := regionsIn a v d.val
  let ds := (dieSetOf a v).map (fun d => d.val)
  let com := rs.filter (fun r => r.kind = 0)
  let exc := rs.filter (fun r => r.kind = 2)
  let mir := a.stash.regions.filter (fun r => (r.variant = v || r.variant = 0xFF) && r.kind = 1 && r.partner = d.val)
  decide (com.length = 1) && decide (exc.length = 1) && decide (mir.length = 1)
    && mir.all (fun r => ds.contains r.die && decide (r.die ≠ d.val) && com.all (fun c => decide (r.size = c.size))
        && (decide (v ≠ 0) || decide (a.baseSet ≠ 0xFF#8) || decide (r.die = d.val ^^^ 4)))
    && com.all (fun r => decide (committedNeed32 a v d.val ≤ 32 * r.size * stackUnit))
    && exc.all (fun r => decide (exchangeNeed a v d.val ≤ r.size * stackUnit))
    && decide (((rs.filter (fun r => r.kind = 3 || r.kind = 4)).map (fun r => r.size)).foldl (· + ·) 0 ≤ 384)
    && (decide (a.stash.tier3 = 0) || rs.any (fun r => r.kind = 4 && decide (1 ≤ r.size)))
    && rs.zipIdx.all (fun x => rs.zipIdx.all (fun y => decide (x.2 = y.2) || apart x.1.base x.1.size y.1.base y.1.size))
    && (rs.filter (fun r => r.kind = 6)).all (fun r => (regionsIn a 0 d.val).any (fun b =>
        b.kind = 1 && b.partner = r.partner && b.base = r.base && b.size = r.size))
    && (rs.filter (fun r => r.kind = 0 || r.kind = 2)).all (fun r => (regionsIn a 0 d.val).all (fun b =>
        decide (b.kind ≠ r.kind) || (decide (b.base = r.base) && decide (b.size = r.size))))

/-- The STASH section (R247, R342). -/
def stashOk (a : Container) : Bool :=
  decide (a.stash.tier1 ≤ 167772160) && decide (a.stash.tier3 ≤ 4398046511104) && decide (a.stash.rsvd = 0)
    && a.stash.tensors.all (fun t => decide (t.tensor < a.tensorTab.length) && decide (t.rsvd = 0))
    && a.stash.regions.all (fun r => decide (r.base + r.size ≤ 496) && (decide (r.variant ≤ 8) || decide (r.variant = 0xFF))
        && decide (r.die ≤ 7) && decide (r.kind ≤ 6) && decide (r.rsvd = 0)
        && (if r.kind = 1 || r.kind = 6 then decide (r.partner ≤ 7) else decide (r.partner = 0xFF)))
    && (variantsOf a).all (fun v => (dieSetOf a v).all (diePlanOk a v))

/-- Check 3: ranges, reserved fields and every load-time refusal. -/
def Dev.rangesOk (m : Dev) (p : Pid) (a : Container) : Bool :=
  decide (a.totalLen ≤ 2147483648) && decide (a.rsvd0 = 0) && decide (a.rsvd1 = 0) && decide (a.rsvd2 = 0)
    && decide (a.dir.length ≤ 4096) && decide (a.lossSet &&& ~~~a.baseSet = 0#8) && decide (a.digitalSet.toNat < 512)
    && dieIds.all (fun d => !a.digitalSet.getLsbD (d.val + 1) || a.lossSet.getLsbD d.val)
    && decide (1 ≤ a.layers ∧ a.layers ≤ 4096) && decide (a.layerTab.length = a.layers)
    && a.dir.all (fun e => dirOk e && dirMatches a e) && sectionsNamed a && jobOk a.job && a.layerTab.all (layerOk a) && a.tensorTab.all (tensorOk a) && placementOk a && liveOk a
    && a.schedules.all (fun s => s.ops.all (opOk a)) && ringsOk a && entriesOk a && stashOk a && m.holdsAll p a

/-- The variant a container starts in against the healthy set (R46); `none` where the set is not acceptable, as no set below
two dies is (R50). -/
def Dev.startVariant (m : Dev) (a : Container) : Option Nat :=
  let h := m.healthyMask
  if m.healthy.length < 2 then none
  else if a.baseSet.toNat = h then some 0
  else (dieIds.find? (fun d => a.baseSet.toNat = h + 2 ^ d.val && !m.inService d && carriesLoss a d)).map (fun d => d.val + 1)

/-- Bytes of tier-3 stash bound to a partition (R247, R349). -/
def Part.tier3Bound (x : Part) : Nat := ((x.bufs.filter (fun b => b.kind = 0)).map (fun b => b.len.toNat)).foldl (· + ·) 0

/-- The first failed check of R280 as its DETAIL code, judged where the load fails at once; a load that passes all but
check 4 has that one judged at its completion point (R304). -/
def Dev.loadCheck (m : Dev) (p : Pid) (len : Nat) (a : Container) : Option Nat :=
  if !wellFormedContainer a len then some 0x04
  else if !m.ownerSigned a.sig then some 0x05
  else if !m.rangesOk p a then some 0x06
  else
    let late :=
      if Config.scheduleStore < a.shareMax then some 0x08
      else if (m.part p).tier3Bound < a.stash.tier3 then some 0x0A
      else if (m.part p).slot.isNone || decide (a.job.wrapSet ≠ (m.part p).setId) || !a.job.wrapOk then some 0x0D
      else none
    if late.isSome && (m.startVariant a).isNone then some 0x07 else late

end Sys2Proof.Machine
end

