-- ==== Sys2Proof/Machine/LinkOps.lean ====
section
/-! DEFINITION. Sending frames on the Cardamom ports: which port a ring uses, the frame header and its counter, the slots a
device owes in a step, and marks (R315 to R330). -/

namespace Sys2Proof.Machine

/-- Whether a port carries traffic: trained and neither disabled nor down. -/
def Port.alive (q : Port) : Bool := match q.st with
  | .up => true
  | .narrowed => true
  | .failover => true
  | _ => false

/-- A port named by an almanac that its die can use now. -/
def Dev.usable (m : Dev) (r : PortRef) : Bool := r.valid && m.inService r.die && ((m.die r.die).port r.port).alive

/-- The port a ring sends on, and the one it receives on: its own, or its alternate (R321). -/
def Dev.ringOut (m : Dev) (g : RingEntry) : Option (DieId × PortId) :=
  if m.usable g.out then some (g.out.die, g.out.port) else if m.usable g.altOut then some (g.altOut.die, g.altOut.port) else none

/-- Ports bound to a partition, in ascending die and port. -/
def Dev.portsOf (m : Dev) (p : Pid) : List (DieId × PortId) :=
  (dieIds.flatMap (fun d => portIds.map (fun q => (d, q)))).filter (fun r => decide (m.owner (resPort r.1 r.2.val) = some p))

/-- SENDER_PORT of R315. -/
def senderPort (d : DieId) (q : PortId) : Nat := d.val * 4 + q.val

/-! ### Flits (R312 to R315) -/

/-- Virtual channel of a frame (R316). -/
def frameVc (f : Frame) : Nat := if f.kind < 0x10 then 0 else 1

/-- Bytes of data a frame carries. -/
def frameBytes (f : Frame) : Nat := 4 * f.elems.length + 16 * f.slots.length + 4 * f.maxima.length + 32 * f.entries.length + f.bytes.length

/-- Flits of a frame: header, data, trailer and tag over 248-byte payloads. -/
def frameFlits (f : Frame) : List TxFlit :=
  let n := (72 + frameBytes f + 247) / 248
  (List.range n).map (fun i => { frame := f, index := i, count := n, seq := 0 })

/-- What a port can send now: credits of each channel, room in the replay buffer, and what has been sent and kept waiting. -/
structure Pump where
  cred0 : Nat
  cred1 : Nat
  room  : Nat
  seq   : BitVec 12
  sent  : List TxFlit
  kept  : List TxFlit
  deriving DecidableEq, Repr

/-- One waiting flit: sent against a credit of its channel, in order within the channel (R314). -/
def Pump.one (s : Pump) (f : TxFlit) : Pump :=
  let vc := frameVc f.frame
  let cred := if vc = 0 then s.cred0 else s.cred1
  if s.room = 0 || cred = 0 || s.kept.any (fun g => frameVc g.frame = vc) then { s with kept := s.kept ++ [f] }
  else
    { cred0 := if vc = 0 then s.cred0 - 1 else s.cred0, cred1 := if vc = 0 then s.cred1 else s.cred1 - 1, room := s.room - 1,
      seq := s.seq + 1, sent := s.sent ++ [{ f with seq := s.seq }], kept := s.kept }

def Port.pumped (y : Port) : Pump :=
  y.txq.foldl Pump.one { cred0 := y.cred0, cred1 := y.cred1, room := 4096 - y.replay.length, seq := y.seqOut, sent := [], kept := [] }

/-- Put a sent flit on the wire; with its last flit the frame has left. -/
def Dev.emitFlit (m : Dev) (d : DieId) (q : PortId) (f : TxFlit) : Dev :=
  let m1 := m.emit (.flit d.val q.val f)
  if f.index + 1 = f.count then m1.emit (.frame d.val q.val f.frame) else m1

/-- Send what waits, unless the port pauses in a failover (R311). -/
def Dev.pump (m : Dev) (d : DieId) (q : PortId) : Dev :=
  let y := (m.die d).port q
  if y.st = .up || y.st = .narrowed then
    let s := y.pumped
    s.sent.foldl (fun n f => n.emitFlit d q f) (m.modDie d (fun x => x.modPort q (fun y =>
      { y with cred0 := s.cred0, cred1 := s.cred1, seqOut := s.seq, txq := s.kept, replay := y.replay ++ s.sent })))
  else m

/-- Send a frame on a port: only one that is alive, keyed, and whose FRAME_CTR is below 2^63; the counter rises by one
(R319). A frame of a step makes the port hold a step frame. -/
def Dev.sendOn (m : Dev) (d : DieId) (q : PortId) (f : Frame) : Dev :=
  let pt := (m.die d).port q
  if m.inService d && pt.alive && pt.key.isSome && decide (pt.frameCtr.toNat < 2 ^ 63) then
    (m.modDie d (fun x => x.modPort q (fun y =>
      { y with frameCtr := y.frameCtr + 1, stepFrame := y.stepFrame || decide (f.kind < 0x10),
               txq := y.txq ++ frameFlits { f with senderPort := senderPort d q, ctr := pt.frameCtr } }))).pump d q
  else m

/-- A frame of this device for the step in progress, carrying the highest mark it holds (R329). -/
def stepFrame (a : Container) (x : Part) (p : Pid) (kind ring bucket chunk : Nat) : Frame :=
  { blankFrame kind p with
    mark := x.xch.mark
    ring := ring
    sender := a.job.deviceIndex
    bucket := bucket
    chunk := chunk
    attempt := x.xch.attempt
    step := x.com.steps + 1 }

/-- Whether the exchange record holds a frame already sent in the step. -/
def sentFrame (r : XchgRecord) (kind ring bucket chunk offset : Nat) : Bool :=
  r.frames.any (fun f => f.kind = kind && f.ring = ring && f.bucket = bucket && f.chunk = chunk && f.offset = offset)

/-- Keep a frame in the exchange record (R331). -/
def keepFrame (f : Frame) (x : Part) : Part :=
  { x with xch := { x.xch with record := { x.xch.record with frames := x.xch.record.frames ++ [f] } } }

/-- Send a frame of the step on a ring's outgoing port and keep it in the exchange record. -/
def Dev.sendRing (m : Dev) (p : Pid) (g : RingEntry) (f : Frame) : Dev :=
  let m1 := m.modPart p (keepFrame f)
  match m.ringOut g with
  | some r => m1.sendOn r.1 r.2 f
  | none => m1

/-- The first element of chunk `c` of a bucket of `e` elements over `n` positions (R317). -/
def chunkLo (e n c : Nat) : Nat := c * e / n

/-- Position `pos` sends chunk `c` on in the reduce phase, or in the gather phase (R317). -/
def sendsReduce (g : RingEntry) (c : Nat) : Bool := decide ((c + g.n - 1) % g.n ≠ g.pos)
def sendsGather (g : RingEntry) (c : Nat) : Bool := decide ((c + g.n - 2) % g.n ≠ g.pos)

/-- The buckets of a ring. -/
def bucketsOf (r : RingOrder) (g : RingEntry) : List BucketEntry := r.buckets.filter (fun b => b.ring = g.ring)

/-- Every slot this device owes in a step as (ring, kind, bucket, chunk): bucket chunks on an exchange step, and the closing
frames always (R317, R327). -/
def owedSlots (a : Container) (v : Nat) (exchange : Bool) : List (RingEntry × Nat × Nat × Nat) :=
  match ringOrderOf a v with
  | some r =>
    (if exchange then r.rings.flatMap (fun g => (bucketsOf r g).flatMap (fun b => (List.range g.n).flatMap (fun c =>
        (if sendsReduce g c then [(g, 1, b.bucket, c)] else []) ++ (if sendsGather g c then [(g, 2, b.bucket, c)] else []))))
     else [])
    ++ (r.rings.filter (fun g => g.closing)).flatMap (fun g =>
        (if sendsReduce g 0 then [(g, 3, 0, 0)] else []) ++ (if sendsGather g 0 then [(g, 4, 0, 0)] else []))
  | none => []

/-- Take on a mark: the highest seen (R329). -/
def Dev.takeMark (m : Dev) (p : Pid) (k : Nat) : Dev :=
  m.modPart p (fun x => { x with xch := { x.xch with mark := max x.xch.mark k } })

/-- Take on mark `k` and put it in every slot the device still owes in the step, as MARK frames (R245, R329). A job of one
device has no slots. -/
def Dev.sendMarks (m : Dev) (p : Pid) (k : Nat) : Dev :=
  let x := m.part p
  match x.almanac, x.run with
  | some a, some r =>
    if r.isForward then m
    else
    let m1 := m.takeMark p k
    ((owedSlots a x.form r.exchange).filter (fun s => !sentFrame x.xch.record s.2.1 s.1.ring s.2.2.1 s.2.2.2 0)).foldl
      (fun n s => n.sendRing p s.1 (stepFrame a (n.part p) p 6 s.1.ring s.2.2.1 s.2.2.2)) m1
  | _, _ => m

/-- A port that was told to go down does so once it holds no frame of a step (R337). -/
def Port.settle (q : Port) : Port :=
  let q1 := { q with stepFrame := false }
  if q.downWait then { q1 with st := .disabled, downWait := false, key := none, held := [], rx := [], txq := [], replay := [] } else q1

/-- At a step's outcome the partition's ports hold no frame of it any more. -/
def Dev.settlePorts (m : Dev) (p : Pid) : Dev :=
  (m.portsOf p).foldl (fun n r => n.modDie r.1 (fun x => x.modPort r.2 Port.settle)) m

end Sys2Proof.Machine
end

