-- ==== Sys2Proof/Machine/StepOps.lean ====
section
/-! DEFINITION. The course of a step: scales from committed history (R90 to R93), tensor exponents fixed by data (R461), the
ledger digest (R368, R369), step start (R239), and a step's outcomes other than commit (R244, R245). -/

namespace Sys2Proof.Machine

/-- Count a module-wide decision on the die of the primary Saffron controller (R462). -/
def Dev.countDecision (m : Dev) (k : CntKey) (n : Nat) : Dev := match m.clockDie with
  | some d => m.count d k n
  | none => m

/-! ### Weights -/

/-- The weights of a layer as (output, input), and all weights of the shard. -/
def weightsOf (a : Container) (l : Nat) : List (Nat × Nat) :=
  (List.range (outsOf a l)).flatMap (fun o => (List.range (rowsOf a l)).map (fun i => (o, i)))
def allWeights (a : Container) : List (Nat × Nat × Nat) :=
  (List.range a.layerTab.length).flatMap (fun l => (weightsOf a l).map (fun w => (l, w)))

/-- A weight's code as held in a code table: in binary mode the level 0 is never programmed (R60), so there an unlisted code
reads +1, the initial value of R463. -/
def codeAt (a : Container) (t : Tab Int) (l o i : Nat) : Int :=
  let w := tget 0 t (wkey l o i)
  if w = 0 && (match a.layerTab[l]? with
    | some e => isBinary e
    | none => false) then 1 else w

/-- The exponent by data of R461 over a layer's listed words. -/
def layerExp (t : Tab Word) (l : Nat) : Int × Bool :=
  let v := f32 (amaxOf ((t.filter (fun e => keyLayer e.1 = l)).map (fun e => e.2)))
  if v.isZero then (0, false) else expFor maxNG8 v

/-- The die that fixes a layer's exponent by data: of its placement's first run in service (DESIGN CHOICE, log entry 110), else the
die that times what none detects. -/
def Dev.layerDie (m : Dev) (p : Pid) (a : Container) (l : Nat) : Option DieId :=
  (((placesOf a (m.part p).variant).filter (fun e => decide (e.layer = l))).map (fun e => (Fin.ofNat 8 e.die : DieId))).find? m.inService
    |>.or m.clockDie

/-- Count one exponent clamp of a layer (R461, R462). -/
def Dev.countClamp (m : Dev) (p : Pid) (a : Container) (l cls : Nat) : Dev := match m.layerDie p a l with
  | some d => m.count d (.ovf p l cls 0) 1
  | none => m

/-- Fix a table of layer exponents; a clamp counts one saturation in WGT (R461). -/
def Dev.fixExps (m : Dev) (p : Pid) (a : Container) (t : Tab Word) (put : Tab Int → Committed → Committed) : Dev :=
  let es := (List.range a.layerTab.length).map (fun l => (l, layerExp t l))
  let m1 := es.foldl (fun m e => if e.2.2 then m.countClamp p a e.1 4 else m) m
  m1.modCom p (put (tsetAll 0 [] (es.map (fun e => (e.1, e.2.1)))))

/-- The exponents of the committed masters, fixed at a commit and at the completion of a load (R461). -/
def Dev.fixMasters (m : Dev) (p : Pid) : Dev :=
  match (m.part p).almanac with
  | some a => m.fixExps p a (m.part p).com.masters (fun t c => { c with kMaster := t })
  | none => m

/-- The exponents of the committed epacts of every layer, fixed at a commit (R461). -/
def Dev.fixEpacts (m : Dev) (p : Pid) : Dev :=
  match (m.part p).almanac with
  | some a => m.fixExps p a (m.part p).com.epacts (fun t c => { c with kEpact := t })
  | none => m

/-! ### The ledger digest (R368, R369) -/

/-- p = 2^127 − 1. -/
def digestP : Nat := 2 ^ 127 - 1

/-- The term h(i)·x of one covered word. -/
def digestTerm (key : BitVec 128) (kind layer elem word x : Nat) : Nat :=
  let pos : BitVec 128 := BitVec.ofNat 4 kind ++ BitVec.ofNat 12 layer ++ BitVec.ofNat 40 elem ++ BitVec.ofNat 8 word ++ 0#64
  let v := (aes128 key pos).toNat % 2 ^ 127
  (1 + v % (digestP - 1)) * x

/-- K_D. -/
def digestKey (a : Container) : BitVec 128 := aes128 (jobKey a) (~~~ 0#128)

/-- Σ h(i)·x_i over the covered words of the weights whose TRAIN bit is `train`. -/
def digestSum (a : Container) (c : Committed) (train : Bool) : Nat :=
  let key := digestKey a
  let one (w : Nat × Nat × Nat) : Nat :=
    let n := Config.elementNumber w.1 w.2.1 w.2.2
    let k := wkey w.1 w.2.1 w.2.2
    digestTerm key 1 w.1 n 0 (tget 0 c.masters k).toNat
      + ((List.range a.wprog.words).map (fun j =>
          digestTerm key 2 w.1 n j (tget 0 c.opt (okey w.1 w.2.1 w.2.2 j)).toNat)).foldl (· + ·) 0
      + digestTerm key 3 w.1 n 0 (tw8 (codeAt a c.target w.1 w.2.1 w.2.2)).toNat
  (((allWeights a).filter (fun w => decide (trainBit a w.1 w.2.1 (w.2.2 / 64) = train))).map one).foldl (· + ·) 0 % digestP

/-- D from the held fixed sum and the words written. -/
def digestStep (a : Container) (c : Committed) : Committed := { c with digest := (c.fixed + digestSum a c true) % digestP }
/-- D_fixed by a full pass, and D (R369). -/
def digestLoad (a : Container) (c : Committed) : Committed := digestStep a { c with fixed := digestSum a c false }

/-! ### Scales (R91 to R93) -/

/-- What the trackers settle at a step start: their previous scales, the step's exponents and predicted magnitudes, and the
clamps as (layer, class). -/
structure Scales where
  trk    : Tab Tracker
  scale  : Tab Int
  pred   : Tab (Word × Nat)
  clamps : List (Nat × Nat)
  deriving DecidableEq, Repr

/-- The largest finite value of a class's format (ACT is NF8, GRD is NG8). -/
def classMax (cls : Nat) : Nat := if cls = 0 then maxNF8 else maxNG8

/-- S_t of a predicted magnitude for width `n` (R91), and whether it saturates. -/
def predScale (pp : Word × Nat) (n : Nat) : Byte × Bool := bs8UpVal ((f32 pp.1).scale pp.2) (biMax n)

/-- The widths a layer's blocks take (R70), each once. -/
def widthsOf (a : Container) (l : Nat) : List Nat := ((List.range (blocksOf a l)).map (widthOf a l)).eraseDups

/-- k of the cold-start magnitude times 2^8: the probe pass's, and the default where no step has run (R91, R93). -/
def coldExp (e : TensorEntry) : Int × Bool := expFor (classMax e.cls) ((f32 e.coldStart).scale 8)

/-- Settle one tensor entry under margin `g` (R91). Only classes 0 to 2 have trackers. A scale S_t that saturates counts once for each width
it is formed for (R72). -/
def settleTensor (a : Container) (g : Nat) (s : Scales) (i : Nat) (e : TensorEntry) : Scales :=
  if 3 ≤ e.cls then s
  else
    let tr := tget Tracker.reset s.trk i
    let mx := amaxOf tr.hist
    let zero := (f32 mx).isZero
    if e.cls = 1 then
      let pp := if zero then tr.prevP.getD (0#32, 0) else (mx, g)
      { trk := tset Tracker.reset s.trk i { tr with prevP := some pp }, scale := s.scale, pred := tset (0#32, 0) s.pred i pp,
        clamps := s.clamps ++ ((widthsOf a e.layer).filter (fun n => (predScale pp n).2)).map (fun _ => (e.layer, 1)) }
    else
      let kc := if zero then (match tr.prevK with
          | some k => (k, false)
          | none => coldExp e)
        else expFor (classMax e.cls) ((f32 mx).scale g)
      { trk := tset Tracker.reset s.trk i { tr with prevK := some kc.1 }, scale := tset 0 s.scale i kc.1, pred := s.pred,
        clamps := if kc.2 then s.clamps ++ [(e.layer, e.cls)] else s.clamps }

/-- The margin in force: raised by 2, capped at 3, while conservative steps are left (R93). -/
def marginOf (e : TensorEntry) (left : Nat) : Nat := if 0 < left then min 3 (e.margin + 2) else e.margin

def settleScales (a : Container) (trk : Tab Tracker) (left : Nat) : Scales :=
  a.tensorTab.zipIdx.foldl (fun s e => settleTensor a (marginOf e.1 left) s e.2 e.1) { trk := trk, scale := [], pred := [], clamps := [] }

/-- The scales of a probe pass (R93): each BI block its own, and the cold-start magnitudes times 2^8. -/
def probeScales (a : Container) (trk : Tab Tracker) : Scales :=
  a.tensorTab.zipIdx.foldl (fun s e =>
    if e.1.cls = 0 ∨ e.1.cls = 2 then
      { s with scale := tset 0 s.scale e.2 (coldExp e.1).1,
               clamps := if (coldExp e.1).2 then s.clamps ++ [(e.1.layer, e.1.cls)] else s.clamps }
    else s) { trk := trk, scale := [], pred := [], clamps := [] }

/-- The history a probe pass fills: all sixteen entries of each tracker at its tensor's amax of the pass (R93). -/
def probeFill (a : Container) (amax : Tab Word) (trk : Tab Tracker) : Tab Tracker :=
  a.tensorTab.zipIdx.foldl (fun t e =>
    if e.1.cls < 3 then tmod Tracker.reset t e.2 (fun tr => { tr with hist := List.replicate 16 (tget 0 amax e.2) }) else t) trk

/-! ### Step start (R239 phase 1) -/

/-- A step or FORWARD with nothing staged yet: its working halves are copies of the committed ones (R241). -/
def StepRun.fresh (c : Committed) (set : SetId) (isForward : Bool) (tokens accN : Nat) (inp : StepInput) (replaying : Bool) : StepRun :=
  { isForward := isForward, set := set, number := c.steps + 1, tokens := tokens, input := inp.input, index := inp.index, phase := 1,
    probe := !c.histValid, probing := !c.histValid,
    exchange := decide ((c.steps.toNat + 1) % accN = 0) && !isForward, replaying := replaying, fallback := c.fallback,
    scale := [], pred := [], probeTrk := none, blocks := [], runs := [], digRuns := [], clippedRuns := [], outs := [], grads := [],
    masters := c.masters, opt := c.opt, accum := c.accum, accDone := [], updated := [], dg := [], amax := [], lossTerms := [], loss := none,
    lossBad := false, shard := none, norm := none, clip := none, sampled := [], compared := [], disagree := [], compDone := false,
    tripped := [], entering := [], exceeded := false, saturated := false, substituted := false, satEvent := false, promoUsed := [],
    abort := none, stashed := [], stash1 := [], stash2 := [], stash3 := 0,
    prefetched := [], late := [], gathered := [], dropped := 0, dropRaised := false, xchkRaised := false, armed := [], contrib := [],
    kBucket := [], partials := [], finals := [], chunksDone := [], primFrames := [], mirrFrames := [], slots := [],
    maxima := [], closeDone := false, decided := false }

/-- Changes that take effect at a step boundary of the partition: discarding of history (R98) and the sampler's settings
(R271). -/
def Part.boundary (x : Part) : Part :=
  { x with
    com := if x.forceWarm then { x.com with histValid := false, stepsLeft := 0 } else x.com
    forceWarm := false
    smpForce := x.smpWritten
    smpPending := false }

/-- Return from the all-digital form at a step start (R257). -/
def Dev.leaveDigital (m : Dev) (p : Pid) (a : Container) : Dev :=
  let x := m.part p
  if x.digital && decide (a.job.stormClean ≤ x.com.cleanRun) then
    ((m.modPart p (fun y => { y with digital := false, com := { y.com with fallback := [] } })).raiseP m.map.primary p
      (ev (.mce 7))).publishIfCalm
  else m

/-- Layers that leave fallback at a step start (R254). -/
def leavers (a : Container) (c : Committed) : List Nat := c.fallback.filter (fun l => decide (a.job.fbClean ≤ tget 0 c.fbClean l))

/-- The exchange record of the step before is kept until the next closing final (R331). -/
def Exchange.renew (n : Dbl) (x : Exchange) : Exchange :=
  { x with
    mark := 0
    attempt := 0
    complete := false
    declares := []
    prev := if x.record.step = n then x.prev else x.record
    record := { XchgRecord.none with step := n } }

/-- A replay keeps ATTEMPT and, at or after its exchange-complete point, the exchange record (R331). -/
def Exchange.again (n : Dbl) (x : Exchange) : Exchange :=
  if x.complete then { x with mark := 0 }
  else { x with mark := 0, complete := false, declares := [], record := { XchgRecord.none with step := n } }

/-- √ of a binary64 value, correctly rounded. -/
def sqrt64 (a : Dbl) : Dbl :=
  match f64 a with
  | .nan => rne64 .nan
  | .inf n => if n then rne64 .nan else a
  | .fin n m e =>
    if m = 0 then a else if n then rne64 .nan
    else let s := sqrtSticky m e; rne64 (.fin false s.1 s.2)

/-- c of R262. -/
def clipFactor (clipNorm : Word) (total : Dbl) : Word :=
  if (f32 clipNorm).isZero then 0x3F800000#32
  else
    let q := div64 (widen clipNorm) (sqrt64 total)
    let one : Dbl := 0x3FF0000000000000#64
    narrow (if (f64 q).lt (f64 one) || f64 q = .nan then q else one)

/-- A replay after the exchange-complete point reads the recorded finals and closing results (R331): of an exchange step, the norm total
and the clip factor with them. -/
def serveRecord (clipNorm : Word) (e : Exchange) (r : StepRun) : StepRun :=
  let total := if r.exchange then e.record.close.map (fun c => (c.1.headD (0, 0)).1) else none
  if e.complete && !r.isForward then
    { r with
      finals := e.record.finals
      closeDone := e.record.close.isSome
      slots := (e.record.close.map (fun c => c.1)).getD []
      maxima := (e.record.close.map (fun c => c.2)).getD []
      norm := total
      clip := total.map (clipFactor clipNorm) }
  else r

/-- Retired cubes and W-units that passed every enabled pattern on three successive visits return to service at a step start of their
owner, or of any where they have none (R366): EV-SAF-12. -/
def Dev.returnUnits (m : Dev) (p : Pid) : Dev :=
  let mine (r : Resource) : Bool := decide (m.owner r = some p) || (m.owner r).isNone
  m.healthy.foldl (fun n d =>
    let cs := ((n.die d).cubes.filter (fun e => e.2.st = .retired && decide (3 ≤ e.2.visits) && mine (resGroup d (e.1 / 16)))).map (fun e => e.1)
    let us := ((n.die d).wunits.filter (fun e => e.2.st = .retired && decide (3 ≤ e.2.visits) && mine (resWunit d e.1))).map (fun e => e.1)
    let n1 := cs.foldl (fun n c =>
      ({ n.modDie d (fun x => x.modCube c (fun u => { u with st := .inService, visits := 0, faults := 0 })) with
         flash := { n.flash with cubesRet := tset false n.flash.cubesRet (d.val * 1024 + c) false } }).raise (some d) (evUnit (.saf 12) d 2 c 0)) n
    us.foldl (fun n w =>
      ({ n.modDie d (fun x => x.modWunit w (fun u => { u with st := .inService, visits := 0, faults := 0 })) with
         flash := { n.flash with wunitsRet := tset false n.flash.wunitsRet (d.val * 64 + w) false } }).raise (some d) (evUnit (.saf 12) d 3 w 0)) n1) m

/-- The trackers keep as their previous scales those that a step starts with (R91). -/
def keepScales (a : Container) (trk t : Tab Tracker) : Tab Tracker :=
  a.tensorTab.zipIdx.foldl (fun t e => tmod Tracker.reset t e.2 (fun tr =>
    { tr with prevP := (tget Tracker.reset trk e.2).prevP, prevK := (tget Tracker.reset trk e.2).prevK })) t

/-- Count the clamps that the settling of scales made. -/
def Dev.countScales (m : Dev) (p : Pid) (sc : Scales) : Dev := sc.clamps.foldl (fun n l => n.countDecision (.ovf p l.1 l.2 0) 1) m

/-- Start a STEP or FORWARD of ring set `k` (R239, R91 to R93, R254, R257), or its replay. Where the tracker history is not valid the
run begins with the probe pass. -/
def Dev.beginStep (m : Dev) (p : Pid) (k : SetId) (isForward replaying : Bool) (tokens : Nat) (inp : StepInput) : Dev :=
  match (m.part p).almanac with
  | none => m
  | some a =>
    let m0 := if isForward || replaying then m else m.returnUnits p
    let m1 := if isForward then m0 else (m0.modPart p Part.boundary).leaveDigital p a
    let c := (m1.part p).com
    let out := if isForward then [] else leavers a c
    let m2 := out.foldl (fun n l => n.raiseP n.map.primary p { ev (.mce 5) with layer := some l }) m1
    let sc := if c.histValid then settleScales a c.trackers c.stepsLeft else probeScales a c.trackers
    let m3 := (m2.countScales p sc).dropStaged p
    let r0 := StepRun.fresh c k isForward tokens a.job.accN inp replaying
    let r1 : StepRun := { r0 with fallback := c.fallback.filter (fun l => !out.contains l), scale := sc.scale, pred := sc.pred }
    (m3.modPart p (fun x =>
      let xch := if isForward then x.xch else if replaying then x.xch.again r1.number else x.xch.renew r1.number
      { x with st := .running, run := some (serveRecord a.job.clipNorm xch r1), xch := xch, susp := none,
               ueFirst := if replaying then x.ueFirst else [],
               com := { x.com with trackers := keepScales a sc.trk x.com.trackers } })).setHead k
      (fun h => { h with st := .executing, inp := inp })

/-- Whether a probe pass has run through: of a step its loss and the gradient of every trained layer, of a FORWARD its loss (DESIGN CHOICE,
log entry 109). -/
def probeOver (a : Container) (r : StepRun) : Bool :=
  r.probing && r.loss.isSome && (r.isForward || ((List.range a.layerTab.length).filter (trained a)).all (fun l => r.accDone.contains l))

/-- The end of a probe pass (R93): it stages nothing, its magnitudes fill the history, and the pass of the step or FORWARD itself begins,
under the conservative margin. -/
def Dev.endProbe (m : Dev) (p : Pid) : Dev :=
  match (m.part p).run, (m.part p).almanac with
  | some r, some a =>
    if probeOver a r then
      let c := (m.part p).com
      let sc := settleScales a (probeFill a r.amax c.trackers) 16
      let r0 := StepRun.fresh c r.set r.isForward r.tokens a.job.accN { input := r.input, index := r.index } r.replaying
      let r1 : StepRun := { r0 with probing := false, fallback := r.fallback, scale := sc.scale, pred := sc.pred, probeTrk := some sc.trk }
      ((m.countScales p sc).dropStaged p).modPart p (fun x =>
        { x with run := some (serveRecord a.job.clipNorm x.xch r1), com := { x.com with trackers := keepScales a sc.trk x.com.trackers } })
    else m
  | _, _ => m

/-! ### Outcomes other than commit (R244, R245, R270) -/

/-- Share in per cent. -/
def pct (used cap : Nat) : Nat := if cap = 0 then 0 else min 100 (used * 100 / cap)

/-- Bytes of tier-2 stash planned on a die (R247, R342). -/
def tier2Cap (a : Container) (v d : Nat) : Nat :=
  (((regionsIn a v d).filter (fun r => r.kind = 3)).map (fun r => r.size * stackUnit)).foldl (· + ·) 0

/-- What WUN_STASH_STATUS reports of the last step to end (R270): EXHAUSTED and the tiers' highest fills. -/
def Part.stashShown (x : Part) : Part :=
  match x.run, x.almanac with
  | some r, some a =>
    { x with
      exhausted := decide (r.abort = some .stash)
      t1pct := (r.stash1.map (fun e => pct e.2 a.stash.tier1)).foldl max 0
      t2pct := (r.stash2.map (fun e => pct e.2 (tier2Cap a x.variant e.1))).foldl max 0
      t3pct := pct r.stash3 a.stash.tier3 }
  | _, _ => x

/-- What the step registers report at a step's outcome (R270, R272). -/
def Part.closeStep (code : Nat) (x : Part) : Part :=
  match x.run, x.almanac with
  | some r, some _ =>
    { x.stashShown with
      run := none
      lastOutcome := code
      st := if x.hasJob then .loaded else x.st
      susp := none
      com := { x.com with lastDis := r.disagree }
      xch := { x.xch with lastMark := x.xch.mark, mark := 0, complete := false, attempt := 0, declares := [] } }
  | _, _ => x

/-- A PREEMPT armed for the step that has just reached its outcome completes STATE_REJECT (R293). -/
def Dev.missedPreempt (m : Dev) (p : Pid) (n : Dbl) : Dev := match (m.part p).armed with
  | some a => if a.target = n then m.rejectArmed p else m
  | none => m

/-- The LAST_OUTCOME code and the counters of an abort: a job-wide skip counts SKIPPED, any other abort ABORTED, and a stash
exhaustion STASH_EXHAUSTED too. -/
def abortKinds (c : AbortCause) : List Nat := match c with
  | .skip => [2]
  | .stash => [0, 3]
  | _ => [0]
def abortCode (c : AbortCause) : Nat := if c = .skip then 4 else 3

/-- The faults that a tile, cube or W-unit counts are those within one step (R234, R362): at its outcome they start at 0
again for the partition's units. -/
def Dev.settleUnits (m : Dev) (p : Pid) : Dev :=
  dieIds.foldl (fun n d => n.modDie d (fun x =>
    { x with
      tiles := x.tiles.foldl (fun t e => if decide (n.owner (resTile d e.1) = some p) && decide (e.2.hs0 ≠ 0)
        then tset Tile.reset t e.1 { e.2 with hs0 := 0 } else t) x.tiles
      cubes := x.cubes.foldl (fun t e => if decide (n.owner (resGroup d (e.1 / 16)) = some p) && decide (e.2.faults ≠ 0)
        then tset Cube.reset t e.1 { e.2 with faults := 0 } else t) x.cubes
      wunits := x.wunits.foldl (fun t e => if decide (n.owner (resWunit d e.1) = some p) && decide (e.2.faults ≠ 0)
        then tset WUnit.reset t e.1 { e.2 with faults := 0 } else t) x.wunits })) m

/-- Whether a ring set still holds the descriptor of the step it executes: a host-link reset discards it (R452). -/
def Dev.heldStep (m : Dev) (k : SetId) : Bool := (m.ring k).head.any (fun h => decide (h.st = .executing))

/-- The step's descriptor, where it is still held, reaches its completion point. -/
def Dev.completeStep (m : Dev) (k : SetId) (status detail : Nat) (step : Dbl) (slot : Option Nat) : Dev :=
  if m.heldStep k then m.completeHead k status detail step slot false else m

/-- Abort the partition's step before commit (R245): marks to the peers, counters, completion ABORTED_PRECOMMIT; everything
staged is discarded and the step is not replayed. -/
def Dev.abortStep (m : Dev) (p : Pid) (c : AbortCause) : Dev :=
  match (m.part p).run with
  | none => m
  | some r =>
    let m1 := (m.modRun p (fun r => { r with abort := some c })).sendMarks p (if c = .skip then 2 else 1)
    let m2 := (abortKinds c).foldl (fun n k => n.countDecision (.stepc p k) 1) m1
    let m3 := m2.completeStep r.set stAborted 0 (if r.isForward then 0 else r.number) none
    let m4 := m3.dropStaged p
    ((m4.modPart p (Part.closeStep (abortCode c))).missedPreempt p r.number).settlePorts p |>.settleUnits p

/-- The step has reached at least phase `n`. -/
def StepRun.reach (n : Nat) (r : StepRun) : StepRun := { r with phase := max r.phase n }

end Sys2Proof.Machine
end

