-- ==== Sys2Proof/Machine/RingOps.lean ====
section
/-! DEFINITION. Doorbell lines (R288 to R290): how a line read is checked and taken over, and when descriptors may be
accepted (R290, R415). -/

namespace Sys2Proof.Machine

/-- Free the slots of publications `from`, `from + 1`, …, `n` of them (R302); their lines are snooped (R443). -/
def freeSlots (win : Nat) : Nat → Word → Tab Slot → Tab Slot
  | 0, _, t => t
  | n + 1, i, t => freeSlots win n (i + 1) (tset .free t (i.toNat % win) .free)

/-- The slots whose lines turn not-ready when `n` publications from `i` on are released. -/
def freedSlots (win n : Nat) (i : Word) : List Nat := (List.range (min n win)).map (fun j => (i + BitVec.ofNat 32 j).toNat % win)

/-- Whether a line is valid for a ring set (R289); the counters are free-running 32-bit values. -/
def lineOk (r : RingSet) (l : Doorbell) : Bool :=
  decide ((l.subTail - r.completed).toNat ≤ r.size)
    && decide ((r.accepted - r.completed).toNat ≤ (l.subTail - r.completed).toNat)
    && decide ((l.cplHead - r.cplHead).toNat ≤ (r.completed - r.cplHead).toNat)
    && decide ((l.release - r.released).toNat ≤ (r.published - r.released).toNat)

/-- Take over a doorbell line as re-read (R288, R289): an invalid one halts the ring set with DETAIL 0x0B; RELEASE frees the
slots it covers; a new descriptor aborts a power-state entry (R424). -/
def Dev.readLine (m : Dev) (k : SetId) (l : Doorbell) : Dev :=
  let r := m.ring k
  if !r.enabled then m
  else if !lineOk r l then if r.halted then m else m.haltRing k 0x0B
  else
    let n := (l.release - r.released).toNat
    let win := r.winSlots
    let gone := if win = 0 then [] else freedSlots win n r.released
    let m1 := gone.foldl (fun m s => m.emit (.backInvalidate k.val s)) m
    let m2 := m1.modRing k (fun r =>
      { r with subTail := l.subTail, cplHead := l.cplHead, released := l.release,
               slots := if win = 0 then r.slots else freeSlots win (min n win) r.released r.slots })
    if l.subTail = r.accepted then m2 else m2.abortEntry 0x0A

/-- Process the lines kept for some ring sets (R290). -/
def Dev.readKept (m : Dev) (ks : List SetId) : Dev :=
  ks.foldl (fun n k => match (n.ring k).kept with
    | some l => (n.modRing k (fun r => { r with kept := none })).readLine k l
    | none => n) m

/-- Whether the edge bridge has failed (R53). -/
def Dev.bridgeDown (m : Dev) : Bool := m.board.hostFail || m.board.mgmtFail

/-- Descriptors are accepted only in Run and Hold (R415) and with the bridge in service. -/
def Dev.working (m : Dev) : Bool := m.power.st = .run && !m.bridgeDown

/-- A block that has accepted a power-state entry holds its state until the request ends: it starts nothing that would stop it from accepting
(R422, log entry 129). -/
def Dev.blockHeld (m : Dev) (blk : Nat) : Bool := m.power.req.any (fun r => !r.exiting && !r.deferring.contains blk)

/-- The RING block never defers: it accepts no descriptor while a request is in progress (R422, R423). -/
def Dev.holdsRings (m : Dev) : Bool := m.power.req.any (fun r => !r.exiting)

/-- Windows are held once CLV has accepted, and CAL, whose due reads need them (R423). -/
def Dev.holdsWindows (m : Dev) : Bool := m.blockHeld 1 && m.blockHeld 5

/-- Whether an interruption is in progress on a ring set's owner. -/
def Dev.interrupted (m : Dev) (k : SetId) : Bool := match m.partOf k with
  | some p => (m.part p).intr.isSome
  | none => false

end Sys2Proof.Machine
end

