-- ==== Sys2Proof/Machine/Faults.lean ====
section
/-! DEFINITION. Taking a fault: rollback, replay, second faults, die loss and fencing, and the end of an interruption (R42 to
R54, R356 to R363, R256, R259). -/

namespace Sys2Proof.Machine

/-- A window that a fault stops before its record: no further train begins, nothing of it is recorded, and the tile awaits
reconciliation of every group admitted, on the digital path (R158). The calibration results of its own reads are discarded; what was
ready before it waits for the next (R199). -/
def Tile.stopWindow (t : Tile) : Tile :=
  match t.win with
  | some w =>
    let hit := t.queue.filter (fun e => w.done.contains e || w.admitted.any (fun g => g.1 = e.leaf && g.2 = e.row))
    let t1 : Tile := { t with win := none, reconcile := some (t.reconcile.getD [] ++ hit).eraseDups,
                              convNext := w.convs ++ t.convNext, refPend := t.refPend ||| w.refs }
    w.trk.foldl (fun t r => t.modLeaf r.1 (fun f => { f with ready := some (f.ready.getD r.2) })) t1
  | none => t

/-- Stop the open windows of a partition's tiles. -/
def Dev.stopWindows (m : Dev) (p : Pid) : Dev :=
  m.healthy.foldl (fun n d => n.modDie d (fun x =>
    let ts := (x.tiles.filter (fun e => e.2.win.isSome && decide (n.owner (resTile d e.1) = some p))).map (fun e => e.1)
    let x1 := ts.foldl (fun x t => x.modTile t Tile.stopWindow) x
    { x1 with diag := { x1.diag with inWindow := x1.diag.inWindow && !ts.contains (bits x1.diag.tgt 12 0) } })) m

/-- A fault stops a partition's job (R49): its open windows stop with the rollback (R158). -/
def Dev.endJob (m : Dev) (p : Pid) : Dev := if (m.part p).hasJob then ((m.stopWindows p).modPart p Part.stashShown).stopJob p else m

/-- A second fault inside a recovery window (R359): the job stops with EV-SAF-07. -/
def Dev.secondFault (m : Dev) (det : Option DieId) (p : Pid) : Dev := (m.raiseP det p (ev (.saf 7))).endJob p

/-- The ring set whose STEP or FORWARD is being executed for a partition. -/
def Dev.execSet (m : Dev) (p : Pid) : Option (SetId × Held) :=
  ((m.setsOf p).filterMap (fun k => match (m.ring k).head with
    | some h => if h.st = .executing && (h.desc.opcode = 0x10#8 || h.desc.opcode = 0x11#8) then some (k, h) else none
    | none => none)).head?

/-- Begin an interruption of a partition (R356 to R359). Before its exchange-complete point the device marks REPLAY to its
peers (R331); the step's working halves, staged outputs and open windows go, and it ends at ROLLBACK_RESUME. A fault inside
another interruption is a second fault, but one inside a storm's switch is handled first and keeps the storm's form (R259,
R268). -/
def Dev.interrupt (m : Dev) (det : Option DieId) (p : Pid) (i : Interrupt) : Dev :=
  let x := m.part p
  if !x.hasJob then m
  else match x.intr with
  | some j =>
    if j.storm && !i.storm then
      m.modPart p (fun x => { x with intr := some { i with since := j.since, digital := i.digital.or j.digital } })
    else m.secondFault det p
  | none =>
    let marks := !i.storm && !x.xch.complete && (match x.run with
      | some r => !r.isForward
      | none => false)
    let m1 := if marks then m.sendMarks p 3 else m
    let m2 := m1.dropStaged p
    let m3 := m2.stopWindows p
    let m4 := match m3.execSet p with
      | some k => if i.storm then m3 else m3.setHead k.1 (fun h => { h with replayed := true })
      | none => m3
    (m4.modPart p Part.stashShown).modPart p (fun x =>
      { x with intr := some i, run := none, susp := x.susp.map (fun _ => 0), draining := none,
               lastOutcome := if x.run.isSome then (if i.storm then 6 else 5) else x.lastOutcome,
               com := { x.com with lastDis := match x.run with
                 | some r => r.disagree
                 | none => x.com.lastDis },
               xch := { x.xch with lastMark := if x.run.isSome then max x.xch.mark (if marks then 3 else 0) else x.xch.lastMark } })

/-- An interruption of the rollback class from now on. -/
def Dev.plainIntr (m : Dev) (action : Nat) : Interrupt :=
  { since := m.stamps, action := action, stop := false, variant := none, digital := none, storm := false }

/-- A partition's form, all-digital or not. Leaving the all-digital form on a die loss, the fallback set and the clean counts begin empty
(R259). -/
def Part.toForm (dig : Bool) (x : Part) : Part :=
  { x with digital := dig
           com := if x.digital && !dig then { x.com with fallback := [], cleanRun := 0, fbClean := [] } else x.com }

/-- The regions of a partition's plan in force under its variant (R342). -/
def Part.regions (x : Part) : List Region :=
  match x.almanac with
  | some a => a.stash.regions.filter (fun r => r.variant = x.variant || r.variant = 0xFF)
  | none => []

/-- The die whose stack holds the mirror of die `d` (R41): the MIRROR region whose PARTNER names `d`. -/
def Part.mirrorHolder (x : Part) (d : Nat) : Option Nat :=
  (x.regions.find? (fun r => r.kind = 1 && r.partner = d)).map (fun r => r.die)

/-- The dies whose mirror lies on die `d`. -/
def Part.mirroredOn (x : Part) (d : Nat) : List Nat :=
  (x.regions.filter (fun r => r.kind = 1 && r.die = d)).map (fun r => r.partner)

/-- Where a plan puts a stack byte (R342): the kind and place of the region there. -/
def regionPlace (rs : List Region) (d : DieId) (a : Nat) : Option (Nat × Nat × Nat) :=
  (rs.find? (fun r => r.die = d.val && decide (r.base * 2 ^ 28 ≤ a) && decide (a < (r.base + r.size) * 2 ^ 28))).map
    (fun r => (r.kind, r.base, r.size))

/-- At a variant switch a region that does not keep its place has undefined contents (R342). -/
def Dev.movePlan (m : Dev) (old new : List Region) : Dev :=
  dieIds.foldl (fun n d => n.modDie d (fun x => { x with stack := { x.stack with
    mem := tkeep x.stack.mem (fun a => decide (regionPlace old d a = regionPlace new d a)) } })) m

/-- A fault of the rollback class: the partitions named roll back and will replay, each on its own (R356, R363). -/
def Dev.rollback (m : Dev) (det : Option DieId) (ps : List Pid) (action : Nat) : Dev :=
  ps.foldl (fun n p => n.interrupt det p (m.plainIntr action)) m

/-- A port taken down loses its key and the frames and flits it holds (R321, R394). -/
def Port.takenDown (q : Port) : Port :=
  { q with st := .down, key := none, stepFrame := false, held := [], rx := [], txq := [], replay := [] }

/-- Every port the die has of record, changed. -/
def Die.eachPort (x : Die) (f : Port → Port) : Die := portIds.foldl (fun x q => x.modPort q f) x

/-- A die drops out: no handshakes, ports down and keyless, core rail off, its stack and its buffered records gone (R43,
R377). -/
def Die.drop (x : Die) : Die :=
  { x with cls := .fenced, rails := false, analog := false, vddMv := 0, evBuf := [], evLost := 0, awake := false,
           ports := (x.eachPort Port.takenDown).ports,
           stack := { x.stack with trained := false },
           saf := { x.saf with resetting := false } }

/-- The lowest-numbered healthy die other than `old` that lies in the majority of the last measurement round, or any while
DISPUTED stands (R403). -/
def Dev.nextPrimary (m : Dev) (old : Option DieId) : Option DieId :=
  (m.healthy.filter (fun d => decide (some d ≠ old) && (m.map.disputed || (m.die d).saf.majority))).head?.or
    (m.healthy.filter (fun d => decide (some d ≠ old))).head?

/-- Elect a new primary (R403): EV-SAF-03; the old primary's SPDM sessions end (R408). -/
def Dev.electAfter (m : Dev) (old : Option DieId) : Dev :=
  let n := m.nextPrimary old
  let m1 := { m with map := { m.map with primary := n }, sec := { m.sec with sessions := [] } }
  match n with
  | some d => m1.raise (some d) (evDie (.saf 3) d)
  | none => m1

/-- The loss of a die for one partition (R47, R49, R259, R360): roll back and switch to the loss variant, or stop the job.
The all-digital form is kept where the new variant has one. -/
def Dev.dieLoss (m : Dev) (d : DieId) (p : Pid) : Dev :=
  let x := m.part p
  if !x.hasJob then m
  else if x.unrepl.contains d.val then ((m.raiseP none p (ev (.saf 8))).modPart p (fun y => { y with stateLost := true })).endJob p
  else match x.almanac with
    | some a =>
      if x.intr.isSome && !(x.intr.any (fun i => i.storm)) then m.secondFault none p
      else if x.variant = 0 && carriesLoss a d then
        let v := d.val + 1
        let i : Interrupt := { m.plainIntr 8 with variant := some v, digital := some (x.digital && carriesDigital a v) }
        let sole := (x.mirrorHolder d.val).toList ++ x.mirroredOn d.val
        let mark (y : Part) : Part := { y with unrepl := sole ++ y.unrepl, served := d.val :: y.served }
        if m.power.st = .vigil then
          let n := m.modPart p (fun y => mark { y.toForm (y.digital && carriesDigital a v) with variant := v })
          n.movePlan x.regions (n.part p).regions
        else (m.interrupt none p i).modPart p mark
      else m.endJob p
    | none => m

/-- Fewer than two healthy dies: every job stops and EV-SAF-17 is raised (R50). -/
def Dev.tooFew (m : Dev) : Dev :=
  if m.healthy.length < 2 then partIds.foldl (fun n p => n.endJob p) (m.raise none (ev (.saf 17))) else m

/-- Fence a die (R43, R47, R50): EV-SAF-02 for each partition with a resource on it, a new primary where it held the
primary, and die loss for each such partition. -/
def Dev.fence (m : Dev) (d : DieId) : Dev :=
  if m.fencedDie d then m
  else
    let aff := m.partsOn d
    let m1 := m.modDie d Die.drop
    let m2 := when (decide (m.map.primary = some d)) (fun n => n.electAfter (some d)) m1
    let m3 := if aff.isEmpty then m2.raise none (evDie (.saf 2) d)
      else aff.foldl (fun n p => n.raiseP none p (evDie (.saf 2) d)) m2
    let m4 := aff.foldl (fun n p => n.dieLoss d p) m3
    m4.tooFew.publishIfCalm

/-! ### The end of an interruption (R356, R358, R299, R51, R256) -/

/-- Restart the step or FORWARD that is being executed, as a replay; a device that would begin attempt 3 stops the job
instead (R332). A suspended partition restarts after RESUME (R284). -/
def Dev.restart (m : Dev) (p : Pid) : Dev :=
  match m.execSet p with
  | some (k, h) =>
    if (m.part p).susp.isSome then m
    else if 3 ≤ (m.part p).xch.attempt then (m.raiseP none p (ev (.cdm 11))).endJob p
    else m.beginStep p k (h.desc.opcode = 0x11#8) true (dopnd h.desc 28 4) h.inp
  | none => m

/-- The switches that take effect at resumption: variant and form (R47, R259), epoch (R299), and the attempt of a step that
every device of the job replays (R332). -/
def Part.resumed (i : Interrupt) (stepping : Bool) (x : Part) : Part :=
  { x.toForm (i.digital.getD x.digital) with
    intr := none
    epoch := if i.storm then x.epoch else x.epoch + 1
    variant := i.variant.getD x.variant
    xch := if stepping && !i.storm && !x.xch.complete then { x.xch with attempt := x.xch.attempt + 1 } else x.xch }

/-- Resume a partition at the end of its interruption. After a fault EV-SAF-11 carries the interruption's length in ns. -/
def Dev.resumePart (m : Dev) (p : Pid) : Dev :=
  match (m.part p).intr with
  | none => m
  | some i =>
    let stepping := match m.execSet p with
      | some (_, h) => decide (h.desc.opcode = 0x10#8)
      | none => false
    let m0 := m.modPart p (Part.resumed i stepping)
    let m1 := (m0.movePlan (m.part p).regions (m0.part p).regions).publishIfCalm
    let len := m.elapsed i.since
    let m2 := if i.storm then m1
      else ({ m1 with recov := { m1.recov with action := i.action, lastUs := BitVec.ofNat 16 (min (len.toNat / 1000) 0xFFFF) } }).raiseP
        m.map.primary p { ev (.saf 11) with data := len }
    -- a FORWARD that published before the fault has its record written now, with the new epoch (R302)
    let m3 := (m2.setsOf p).foldl (fun n k => n.modRing k (fun r =>
      { r with held := r.held.map (fun h => if h.isDone && h.desc.opcode = 0x11#8 then { h with cplEpoch := (m2.part p).epoch } else h) })) m2
    (m3.readKept (m3.setsOf p)).restart p

/-- A numerics storm with an all-digital form (R256): EV-MCE-06, an EXTEND frame on every port of the partition (R333), the
form loaded and the step abandoned for its replay at STORM_REPLAY_START. Of SAF_DIE_MAP DIGITAL_ONLY alone changes now. -/
def Dev.storm (m : Dev) (p : Pid) (a : Container) : Dev :=
  let x := m.part p
  let m1 := (m.raiseP m.map.primary p (ev (.mce 6))).countDecision (.stepc p 6) 1
  let f : Frame := { stepFrame a x p 0x12 0 0 0 with declarer := a.job.deviceIndex }
  let m2 := (m1.portsOf p).foldl (fun n r => n.sendOn r.1 r.2 f) m1
  let i : Interrupt := { m.plainIntr 7 with digital := some true, storm := true }
  let m3 := (m2.interrupt m.map.primary p i).modPart p (fun x => { x with digital := true, com := { x.com with cleanRun := 0 } })
  { m3 with dieMap := m3.dieMap ||| 0x1000#32 }

end Sys2Proof.Machine
end

