-- ==== Sys2Proof/Machine/WeightOps.lean ====
section
/-! DEFINITION. Weights on leaves: which weights a leaf holds (R104), what whole-leaf programming writes and commits (R63, R64,
R170, R171), epact tables (R117), and the write queue's two passes (R145 to R151). -/

namespace Sys2Proof.Machine

/-! ### Sites -/

/-- A weight's place: layer, output, input (its row) and output lane. -/
structure Site where
  layer : Nat
  out   : Nat
  row   : Nat
  lane  : Nat
  deriving DecidableEq, Repr

def Site.key (s : Site) : Nat := wkey s.layer s.out s.row
def Site.block (s : Site) : Nat := bkey s.layer s.out (s.row / 64)

/-- The tile that carries a placed tile's leaves: itself, or the spare it was retired to, spare after spare (R136). -/
def physFrom (x : Die) : Nat → Nat → Nat
  | 0, t => t
  | n + 1, t => if (x.tile t).st = .retiredSpare then physFrom x n (x.tile t).link.toNat else t
def Die.phys (x : Die) (t : Nat) : Nat := physFrom x 64 t

/-- Weights that a run of the placement puts on its leaf. -/
def runSites (e : PlaceEntry) : List Site :=
  (List.range e.outCount).flatMap (fun j => (List.range e.rows).map (fun r =>
    { layer := e.layer, out := e.outFirst + j, row := r, lane := e.laneFirst + j }))

/-- The placement's runs on a physical tile's leaf under a variant. -/
def Die.leafRuns (x : Die) (a : Container) (v d t l : Nat) : List PlaceEntry :=
  (placesOf a v).filter (fun e => !e.digital && decide (e.die = d) && decide (x.phys e.tile = t) && decide (e.leaf = l))

/-- The weights on a physical tile's leaf. -/
def Die.leafSites (x : Die) (a : Container) (v d t l : Nat) : List Site := (x.leafRuns a v d t l).flatMap runSites

/-- Every placed leaf of an almanac on one die, all variants, as (tile, leaf, frozen), each once. -/
def Die.placedLeaves (x : Die) (a : Container) (d : Nat) (pick : PlaceEntry → Bool) : List (Nat × Nat × Bool) :=
  ((a.placement.filter (fun e => !e.digital && decide (e.die = d) && pick e)).map
    (fun e => (x.phys e.tile, e.leaf, e.frozen))).eraseDups

/-- Slice width and mode of a layer. -/
def layerT (a : Container) (l : Nat) : Nat := match a.layerTab[l]? with
  | some e => e.t
  | none => 4
def layerBinary (a : Container) (l : Nat) : Bool := match a.layerTab[l]? with
  | some e => isBinary e
  | none => false
def epactCapOf (a : Container) (l : Nat) : Nat := match a.layerTab[l]? with
  | some e => e.epactCap
  | none => 0

/-! ### What whole-leaf programming writes (R60, R63, R64) -/

/-- Masters of a block of up to 64 weights of a layer with `rows` inputs. -/
def blockMasters (t : Tab Word) (l o b rows : Nat) : List Word :=
  (List.range (min 64 (rows - 64 * b))).map (fun i => tget 0 t (wkey l o (64 * b + i)))

/-- A weight's code under scale `q` from a table of masters. -/
def siteCode (a : Container) (ms : Tab Word) (q : Byte) (wp : Option Int) (s : Site) : Int × Tally :=
  weightCode (layerT a s.layer) (layerBinary a s.layer) q (tget 0 ms s.key) wp

/-- Codes and scales by R63 and R64 for the sites of a leaf, with the counts of each layer. `fresh`: no programmed code
exists there. -/
def planLeaf (a : Container) (c : Committed) (fresh : Bool) (ss : List Site) : Tab Int × Tab Byte × List (Nat × Tally) :=
  ss.foldl (fun r s =>
    let q := weightScale (layerT a s.layer) (blockMasters c.masters s.layer s.out (s.row / 64) (rowsOf a s.layer))
    let w := siteCode a c.masters q.1 (if fresh then none else some (codeAt a c.prog s.layer s.out s.row)) s
    let n : Tally := if s.row % 64 = 0 then Tally.one q.2 false false else Tally.none
    (tset 0 r.1 s.key w.1, tset 0 r.2.1 s.block q.1, r.2.2 ++ [(s.layer, n.add w.2)])) ([], [], [])

/-- The codes and scales held in tables, for the sites of a leaf. -/
def heldLeaf (a : Container) (codes : Tab Int) (scales : Tab Byte) (ss : List Site) : Tab Int × Tab Byte :=
  ss.foldl (fun r s => (tset 0 r.1 s.key (codeAt a codes s.layer s.out s.row), tset 0 r.2 s.block (tget 0 scales s.block)))
    ([], [])

/-- Begin whole-leaf programming of a leaf with the codes and scales given: its queue entries go, and it is served digitally
until its record (R170). -/
def Die.startLeaf (x : Die) (t : Nat) (l : LeafId) (byDesc : Bool) (codes : Tab Int) (scales : Tab Byte) : Die :=
  x.modTile t (fun y => ({ y with queue := y.queue.filter (fun e => e.leaf ≠ l) } : Tile).modLeaf l (fun f =>
    { f with prog := some 0, progFail := [], progRow := 0, progMax := 0, progDesc := byDesc, progCodes := codes, progScales := scales }))

/-- Begin it for the leaf's own weights, planned from the committed masters; counts go to the die (R172, R462). -/
def Dev.programLeaf (m : Dev) (p : Pid) (d : DieId) (t : Nat) (l : LeafId) (byDesc : Bool) : Dev :=
  match (m.part p).almanac with
  | some a =>
    let c := (m.part p).com
    let r := planLeaf a c ((m.die d).leaf t l).blank ((m.die d).leafSites a (m.part p).variant d.val t l.val)
    (r.2.2.foldl (fun n k => n.countTally d p k.1 4 k.2) m).modDie d (fun x => x.startLeaf t l byDesc r.1 r.2.1)
  | none => m

/-- Begin it with the partition's target codes and scales as they stand (R136, R350, R401). -/
def Dev.programHeld (m : Dev) (p : Pid) (d : DieId) (t : Nat) (l : LeafId) (byDesc : Bool) (scales : Tab Byte) : Dev :=
  match (m.part p).almanac with
  | some a =>
    let c := (m.part p).com
    let r := heldLeaf a c.target scales ((m.die d).leafSites a (m.part p).variant d.val t l.val)
    m.modDie d (fun x => x.startLeaf t l byDesc r.1 r.2)
  | none => m

/-! ### Epact tables (R117) -/

/-- Insert by falling magnitude, a lower row first among equals. -/
def magInsert (e : Nat × Byte) : List (Nat × Byte) → List (Nat × Byte)
  | [] => [e]
  | f :: t => if f.2.toNat % 128 < e.2.toNat % 128 then e :: f :: t else f :: magInsert e t

/-- The table of a block from its epacts by ascending row, with the counts of the conversions. -/
def epactTable (cap : Nat) (k : Int) (es : List (Nat × Word)) : List (Nat × Byte) × Tally :=
  let cs := es.map (fun e => (e.1, toNG8 k false none (f32 e.2)))
  ((((cs.filter (fun e => decide (e.2.1.toNat % 128 ≠ 0))).map (fun e => (e.1, e.2.1))).foldl (fun l e => magInsert e l) []).take cap,
   (cs.map (fun e => e.2.2)).foldl Tally.add Tally.none)

/-- Rebuild the table of one block. -/
def rebuildBlock (a : Container) (c : Committed) (b : Nat) : Committed × Tally :=
  let l := keyLayer b
  let o := keyOut b
  let i := keyIdx b
  let es := (List.range (min 64 (rowsOf a l - 64 * i))).map (fun j => (64 * i + j, tget 0 c.epacts (wkey l o (64 * i + j))))
  let r := epactTable (epactCapOf a l) (tget 0 c.kEpact l) es
  ({ c with tables := tset [] c.tables b r.1 }, r.2)

/-- Rebuild the tables of some blocks, counting on the die that builds them. -/
def Dev.rebuildTables (m : Dev) (p : Pid) (d : DieId) (bs : List Nat) : Dev :=
  match (m.part p).almanac with
  | some a => bs.foldl (fun n b =>
      (n.modCom p (fun c => (rebuildBlock a c b).1)).countTally d p (keyLayer b) 4 (rebuildBlock a (n.part p).com b).2) m
  | none => m

/-- The epact exponents of some layers, fixed again (R461); a clamp counts once, on the die that `die` gives for the layer (R462). -/
def Dev.refixEpacts (m : Dev) (p : Pid) (die : Nat → Option DieId) (ls : List Nat) : Dev :=
  ls.foldl (fun n l =>
    let r := layerExp (n.part p).com.epacts l
    let n1 := n.modCom p (fun c => { c with kEpact := tset 0 c.kEpact l r.1 })
    match die l with
    | some d => when r.2 (fun n => n.count d (.ovf p l 4 0) 1) n1
    | none => n1) m

/-- Recompute the epacts of some weights against the programmed codes and scales (R65). -/
def reEpact (a : Container) (ss : List Site) (c : Committed) : Committed :=
  { c with epacts := ss.foldl (fun t s =>
      tset 0 t s.key (epact (tget 0 c.masters s.key) (codeAt a c.prog s.layer s.out s.row) (tget 0 c.scales s.block))) c.epacts }

/-- The target codes of some weights (R64). -/
def reTarget (a : Container) (ss : List Site) (c : Committed) : Committed :=
  { c with target := ss.foldl (fun t s =>
      tset 0 t s.key (siteCode a c.masters (tget 0 c.scales s.block) (some (codeAt a c.prog s.layer s.out s.row)) s).1) c.target }

def siteLayers (ss : List Site) : List Nat := (ss.map (fun s => s.layer)).eraseDups
def siteBlocks (ss : List Site) : List Nat := (ss.map (fun s => s.block)).eraseDups

/-- What a window or programming record does for some weights of a die (R157, R171): epacts against the codes now programmed,
the layers' exponents, and their blocks' tables. -/
def Dev.recordSites (m : Dev) (p : Pid) (d : DieId) (ss : List Site) : Dev :=
  match (m.part p).almanac with
  | some a => ((m.modCom p (reEpact a ss)).refixEpacts p (fun _ => some d) (siteLayers ss)).rebuildTables p d (siteBlocks ss)
  | none => m

/-- The record of a leaf's whole programming (R171): every w_p and scale of the leaf, its target codes under the new scales,
epacts and tables. The leaf returns to analog service at its window's close. A leaf of a variant not in force changes no committed weight (log entry 17). -/
def Dev.leafRecord (m : Dev) (p : Pid) (d : DieId) (t : Nat) (l : LeafId) : Dev :=
  match (m.part p).almanac with
  | some a =>
    let f := (m.die d).leaf t l
    let ss := (m.die d).leafSites a (m.part p).variant d.val t l.val
    let m1 := m.modCom p (fun c => reTarget a ss
      { c with prog := ss.foldl (fun u s => tset 0 u s.key (codeAt a f.progCodes s.layer s.out s.row)) c.prog
               scales := ss.foldl (fun u s => tset 0 u s.block (tget 0 f.progScales s.block)) c.scales })
    (m1.recordSites p d ss).modDie d (fun x => x.modLeaf t l (fun f =>
      { f with blank := false, prog := some 257, progDesc := false, progCodes := [], progScales := [], satWarned := false, reEval := true }))
  | none => m.modDie d (fun x => x.modLeaf t l (fun f => { f with blank := false, prog := some 257, progDesc := false, progCodes := [], progScales := [] }))

/-! ### The write queue at a commit (R145 to R151) -/

/-- A weight that is due: leaf, site, target, programmed code. -/
structure Due where
  leaf   : LeafId
  site   : Site
  target : Int
  prev   : Int
  gap    : FVal
  deriving DecidableEq, Repr

/-- |m / q − w_p| ordered by |m − w_p·q| / q: `x` comes before `y` where it is greater; ties to the lower leaf, row, lane. -/
def Due.before (x y : Due) : Bool :=
  let c := y.gap.cmp x.gap
  decide (c < 0) || (decide (c = 0) && (decide (x.leaf.val < y.leaf.val) || (decide (x.leaf = y.leaf) &&
    (decide (x.site.row < y.site.row) || (decide (x.site.row = y.site.row) && decide (x.site.lane < y.site.lane))))))

def dueInsert (e : Due) : List Due → List Due
  | [] => [e]
  | f :: t => if e.before f then e :: f :: t else f :: dueInsert e t

/-- |m / q − w_p| to 256 fraction bits, which keep every two values of binary32 masters apart; a weight whose scale is 0 is
due by sign alone (binary mode, R60). -/
def dueGap (m : Word) (q : Byte) (wp : Int) : FVal :=
  let diff := ((f32 m).sub ((FVal.ofInt wp).mul (bs8Val q))).abs
  match diff, bs8Val q with
  | .fin _ a e, .fin _ b f =>
    if b = 0 then .fin false 0 0
    else let r := ratio a b (e - f + 256); .fin false (r.1 / r.2) (-256)
  | .inf _, _ => .fin false 1 1024
  | _, _ => .fin false 0 0

/-- The due weights of a leaf after a commit. -/
def leafDues (a : Container) (c : Committed) (l : LeafId) (ss : List Site) : List Due :=
  ss.filterMap (fun s =>
    let wt := codeAt a c.target s.layer s.out s.row
    let wp := codeAt a c.prog s.layer s.out s.row
    if wt = wp then none
    else some { leaf := l, site := s, target := wt, prev := wp,
                gap := dueGap (tget 0 c.masters s.key) (tget 0 c.scales s.block) wp })

/-- What a commit does to one tile's queue: the entries kept, and the weights carried by layer. -/
structure QueueStep where
  queue   : List QEntry
  carried : List Nat
  deriving DecidableEq, Repr

def entryOf (d : Due) : QEntry :=
  { leaf := d.leaf, row := d.site.row, lane := d.site.lane, target := tw8 d.target, prev := tw8 d.prev, retry := false,
    failCols := [] }

def sameWeight (e : QEntry) (d : Due) : Bool := decide (e.leaf = d.leaf) && decide (e.row = d.site.row) && decide (e.lane = d.site.lane)

/-- The two passes of R150: entries of `mine` no longer due go, the rest take their new target, and entries of other leaves keep their
place; then dues of weights in `eligible` are appended in order until the queue's 32 entries are full, and the others are carried (R151). -/
def queueStep (dues eligible : List Due) (mine : QEntry → Bool) (q : List QEntry) : QueueStep :=
  let kept := q.filterMap (fun e => if mine e then (dues.find? (sameWeight e)).map (fun d => { e with target := tw8 d.target }) else some e)
  let new := (eligible.filter (fun d => !kept.any (fun e => sameWeight e d))).foldl (fun l d => dueInsert d l) []
  let room := 32 - kept.length
  { queue := kept ++ (new.take room).map entryOf, carried := (new.drop room).map (fun d => d.site.layer) }

end Sys2Proof.Machine
end

