-- ==== Sys2Proof/Machine/TileOps.lean ====
section
/-! DEFINITION. Reading a tile: temperatures (R185, R189), what serves it (R134), the corrected column reading (R190), a pass's
run (R106 to R115), the error model (R125 to R128), and the digital run (R121). -/

namespace Sys2Proof.Machine

/-! ### Temperatures -/

def meanInt (xs : List Int) : Int := if xs.isEmpty then 0 else xs.foldl (· + ·) 0 / xs.length

/-- The mean TD reading of a tile's pipeline converters; `none` before any. -/
def Tile.diodeMean (y : Tile) : Option Int := if y.diodes.isEmpty then none else some (meanInt (y.diodes.map (fun e => e.2)))

/-- The reading of the die's sensor nearest a tile, in 1/16 °C; with the monitor converter failed, the mean reading of the
tile's diodes (R189). -/
def Die.tempAt (x : Die) (t : Nat) : Int :=
  (if x.mon.fail then (x.tile t).diodeMean else none).getD (tget 0 x.mon.readings (16 + Config.nearestSensor t % 16))

/-- What sensor `i` of the die reads: with the monitor converter failed, the mean of the tiles nearest it (R189). -/
def Die.sensorAt (x : Die) (i : Nat) : Int :=
  let near := (x.tiles.filter (fun e => decide (Config.nearestSensor e.1 % 16 = i))).filterMap (fun e => e.2.diodeMean)
  if x.mon.fail && !near.isEmpty then meanInt near else tget 0 x.mon.readings (16 + i)

/-- The sensors' readings, in 1/16 °C. -/
def Die.sensors (x : Die) : List Int := (List.range 16).map x.sensorAt

/-- A temperature in 1/16 °C as a code of 12 bits. -/
def tempCode (t : Int) : BitVec 12 := BitVec.ofInt 12 t

/-- The count of the tile's most-written cell: a row-and-lane count and its leaf's leaf-wide count (R164), in 24 bits. -/
def Leaf.maxWear (f : Leaf) : Nat := (f.wear.map (fun e => e.2.toNat)).foldl max f.wearBase.toNat + f.leafWear.toNat
def Tile.maxWear (y : Tile) : BitVec 24 := BitVec.ofNat 24 (min ((leafIds.map (fun l => (y.leaf l).maxWear)).foldl max 0) 0xFFFFFF)

/-! ### Analog or digital service (R134) -/

/-- Whether a tile serves a leaf by analog reads now. -/
def Tile.analogOk (y : Tile) (l : LeafId) : Bool :=
  let f := y.leaf l
  decide (y.st = .analog) && !y.digital && y.remaps.isEmpty && y.reconcile.isNone && f.prog.isNone && !f.offline && !f.scrub && !f.blank

def Die.analogOk (x : Die) (t : Nat) (l : LeafId) : Bool := x.storeReady && x.analog && !x.warmup && (x.tile t).analogOk l

/-! ### The column reading (R177, R190, R191) -/

/-- The physical column that stands for weight column `c`: itself or the spare it was remapped to. -/
def Tile.colOf (y : Tile) (c : Nat) : Nat :=
  match y.spareMap.find? (fun e => decide (e.2.toNat = c)) with
  | some e => 1024 + e.1
  | none => c

/-- A converter's reading of `a`, in 1/256 code, after its own corrections (R190), in 2^−28 level-rows. Converter `k` is a column's own, or
1,152 + n for pipeline converter n (`fine`). -/
def convReading (y : Tile) (k : Nat) (fine : Bool) (a : Int) : Int :=
  (a - 4 * (tget 0#12 y.convO k).toInt) * (131072 + (tget 0#16 y.convG k).toInt) * (if fine then 1 else 16)

/-- 1,600,000 × (1 − κ(T_w − T_cal)) (R190, R191). -/
def LeafCal.comp (c : LeafCal) : Int := 1600000 - c.kappa.toInt * (c.tw.toInt - c.tcal.toInt)

/-- The exact reading of R190 as numerator and denominator, in level-rows: `a` is in 1/256 code, `fine` whether a pipeline
converter made it, `ns` the net rows driven. -/
def columnReading (y : Tile) (f : Leaf) (col : Nat) (fine : Bool) (ns a : Int) : Int × Nat :=
  let k := if fine then 1152 + col / 8 else col
  let corr := convReading y k fine a - (tget 0#12 f.colO col).toInt * 2097152 - ns * f.cal.z.toInt * 262144
  let gain := (131072 + (tget 0#16 f.colG col).toInt) * (131072 + f.cal.k.toInt)
  (corr * gain * f.cal.comp, 2 ^ 28 * 2 ^ 34 * 1600000)

/-! ### A run (R106, R107, R115) -/

/-- Fractions with a positive denominator. -/
def radd (x y : Int × Nat) : Int × Nat := (x.1 * y.2 + y.1 * x.2, x.2 * y.2)

/-- The nearest integer, ties to even. -/
def rnear (x : Int × Nat) : Int := let n : Int := (nearest x.1.natAbs (max x.2 1) : Nat); if x.1 < 0 then -n else n

/-- Net rows driven by plane `k` of a block of codes. -/
def netRows (n k : Nat) (codes : List Int) : Int :=
  codes.foldl (fun s x => if n ≤ 1 ∨ x.natAbs.testBit k then (if x < 0 then s - 1 else if x = 0 then s else s + 1) else s) 0

/-- First column of trit `j` within a footprint: the most significant trit comes first (R68). -/
def tritOffset (e : LayerEntry) (j : Nat) : Nat := ((List.range e.t).filter (fun i => decide (j < i))).foldl (fun s i => s + colCount e i) 0

/-! ### Converter samples (R177 to R182) -/

/-- The end codes of a converter (R177): a pipeline converter's, or a column converter's. -/
def endCodes (fine : Bool) : Int × Int := if fine then (-512, 511) else (-32, 31)

/-- A sample at an end code is clipped (R180). -/
def isClipped (fine : Bool) (c : Int) : Bool := decide (c ≤ (endCodes fine).1) || decide ((endCodes fine).2 ≤ c)

/-- Clipped samples among a converter's. -/
def clippedIn (fine : Bool) (cs : List Int) : Nat := (cs.filter (isClipped fine)).length

/-- An averager's result with 8 fraction bits (R181): the exact sum of the samples times 2^−s. -/
def averaged (s : Nat) (cs : List Int) : Int := cs.foldl (· + ·) 0 * 2 ^ (8 - s)

/-- The samples of a column in a plane of a row group, taken by the group's pipeline converter or by its own. -/
def samplesOf (ss : List ColSample) (group plane col : Nat) (fine : Bool) : List Int :=
  match ss.find? (fun c => c.group = group && c.plane = plane && c.col = col && c.fine == fine) with
  | some c => c.codes
  | none => []

/-- The physical columns that hold the replicas of trit `j` of an output lane, in order (R68, R104). -/
def tritCols (y : Tile) (e : LayerEntry) (lane j : Nat) : List Nat :=
  (List.range (colCount e j)).map (fun i => y.colOf (lane * footprint e + tritOffset e j + i))

/-- r_jk: the mean of trit j's replicas, the most significant trit's by the pipeline converters (R106), `a` the log2 of the plane's
repeats (R108); each reading is folded in binary32 as the part folds it (a free value). -/
def tritReading (y : Tile) (f : Leaf) (e : LayerEntry) (ss : List ColSample) (group lane j k a : Nat) (ns : Int) : Int × Nat :=
  let cols := tritCols y e lane j
  let vs := cols.map (fun c =>
    let v := columnReading y f c (j + 1 = e.t) ns (averaged a (samplesOf ss group k c (j + 1 = e.t)))
    let w := Config.foldReading v.1 v.2
    ((w.1, max w.2 1) : Int × Nat))
  let s := vs.foldl radd (0, 1)
  (s.1, s.2 * max cols.length 1)

/-- R of R115 before its clamp. -/
def runRegister (y : Tile) (f : Leaf) (e : LayerEntry) (n : Nat) (codes : List Int) (ss : List ColSample) (group lane : Nat) : Int :=
  rnear ((List.range (planes n)).foldl (fun s k =>
    (List.range e.t).foldl (fun s j =>
      let r := tritReading y f e ss group lane j k (repLog e n k) (netRows n k codes)
      radd s (8 * 2 ^ k * 3 ^ j * r.1, r.2)) s) (0, 1))

/-- Whether a pass brought what an output's run of a row group needs: of every column of its footprint, in every plane, exactly the
repeats that the almanac sets (R55, R108). -/
def readWhole (y : Tile) (e : LayerEntry) (n : Nat) (ss : List ColSample) (group lane : Nat) : Bool :=
  (List.range (planes n)).all (fun k => (List.range e.t).all (fun j =>
    (tritCols y e lane j).all (fun c => decide ((samplesOf ss group k c (j + 1 = e.t)).length = 2 ^ repLog e n k))))

/-- Whether an output's run of a row group contains a clipped sample (R180). -/
def runClipped (y : Tile) (e : LayerEntry) (n : Nat) (ss : List ColSample) (group lane : Nat) : Bool :=
  (List.range (planes n)).any (fun k => (List.range e.t).any (fun j =>
    (tritCols y e lane j).any (fun c => (samplesOf ss group k c (j + 1 = e.t)).any (isClipped (j + 1 = e.t)))))

/-! ### Digital products -/

/-- A block's masters rounded to NG8 under the layer's exponent (R461), with the counts of the conversions. -/
def masterCodes (a : Container) (c : Committed) (l o b : Nat) : List (Byte × Tally) :=
  (List.range (min 64 (rowsOf a l - 64 * b))).map (fun i => toNG8 (tget 0 c.kMaster l) false none (f32 (tget 0 c.masters (wkey l o (64 * b + i)))))

/-- The NF8 × NG8 run of a block (R121): source values under their exponent, masters under the layer's, with the counts of the masters'
conversion (R77). -/
def digitalRun (a : Container) (c : Committed) (bl : BiBlock) (l o b : Nat) : Word × Tally :=
  let ms := masterCodes a c l o b
  (rne32 ((maceRun 10 (ms.zipIdx.map (fun w => (nf8Val (bl.srcNf8.getD w.2 0#8)).mul (ng8Val w.1.1)))).scale (bl.kOut + tget 0 c.kMaster l)),
   (ms.map (fun w => w.2)).foldl Tally.add Tally.none)

/-- The programmed codes of a block of an output (R131). -/
def programmedCodes (a : Container) (c : Committed) (l o b : Nat) : List Int :=
  (List.range (min 64 (rowsOf a l - 64 * b))).map (fun i => codeAt a c.prog l o (64 * b + i))

/-- The digital recomputation of a block run: BIn × TW8 over the programmed codes (R131, R211, R252). -/
def recomputedRun (codes ws : List Int) (sb q : Byte) : Word :=
  rne32 (((FVal.ofInt ((ws.zipIdx.map (fun w => codes.getD w.2 0 * w.1)).foldl (· + ·) 0)).mul (bs8Val sb)).mul (bs8Val q))

/-! ### The error bound (R125 to R128), as exact fractions -/

def fadd (x y : Nat × Nat) : Nat × Nat := (x.1 * y.2 + y.1 * x.2, x.2 * y.2)
def fmul (x y : Nat × Nat) : Nat × Nat := (x.1 * y.1, x.2 * y.2)

/-- Linear interpolation of a table of (temperature in 1/16 °C, value) rows; outside it the end rows hold, which the spec leaves open
(R31; DESIGN CHOICE, log entry 104). -/
def interp : List (Int × Nat) → Int → Nat × Nat
  | [], _ => (0, 1)
  | [r], _ => (r.2, 1)
  | r :: s :: t, x =>
    if x ≤ r.1 then (r.2, 1)
    else if x ≤ s.1 then
      let w := (s.1 - r.1).toNat
      ((r.2 : Int) * (s.1 - x) + (s.2 : Int) * (x - r.1) |>.toNat, w)
    else interp (s :: t) x

/-! ### Rates and the phase length (R32, R112, R416) -/

/-- Effective cap of a die in 64ths: the smallest of its level's, the operator's and its thermal cap (R416, R418). -/
def Dev.effCap (m : Dev) (d : DieId) : Nat := min (([16, 32, 48, 64, 64, 64, 64, 64] : List Nat).getD m.power.pl 64) (min m.power.cOp (m.die d).thermCap)

/-- s(V, T) of R32 as a fraction, `mv` the core voltage in mV and `t` in 1/16 °C; `none` outside the table, where no value is stated (R31). -/
def rateScale (mv : Nat) (t : Int) : Option (Nat × Nat) :=
  if 650 ≤ mv ∧ mv ≤ 900 ∧ 0 ≤ t ∧ t ≤ 1680 then
    some (fmul (fmul (interp [(650, 70), (700, 80), (750, 90), (800, 100), (850, 109), (900, 117)] mv)
      (interp [(0, 105), (400, 104), (800, 102), (1200, 100), (1520, 98), (1680, 97)] t)) (1, 10000))
  else none

/-- A read phase's length in strobes of 1.25 ns (R112, R416): hold strobe 4 or 5 plus four, or the output stage's 7.0 ns ÷ s(V, T) where that
is longer, lengthened by a rate cap of `cap`/64. -/
def phaseStrobes (strobe5 : Bool) (cap : Nat) (sc : Nat × Nat) : Nat :=
  ceilDiv ((max (if strobe5 then 9 else 8) (ceilDiv (7000 * sc.2) (1250 * max sc.1 1))) * 64) (max cap 1)

/-- The hold strobe's choice at the start of a phase (R112). -/
def holdChoice (t16 : Int) (old : Bool) : Bool := if 720 ≤ t16 then false else if t16 < 688 then true else old

/-- Take `n` more measured lengths of `ps` each into a mean (R142). -/
def Meas.add (now : Nat) (n ps : Nat) (x : Meas) : Meas :=
  if n = 0 then x else if x.ms = now then { x with sum := x.sum + n * ps, cnt := x.cnt + n } else { ms := now, sum := n * ps, cnt := n }

/-- The mean, saturating; 0 before the first. -/
def Meas.mean (x : Meas) : Nat := if x.cnt = 0 then 0 else min (x.sum / x.cnt) 0xFFFFFF

/-- The present millisecond of a die's counter. -/
def Die.ms (x : Die) : Nat := x.dcnt.toNat / 1000000

/-- A free 24-bit length in picoseconds, for what the spec states no time of (log entry 117). -/
def freePs (n : Nat) : Nat := (Config.freeWord n).toNat % 2 ^ 24

/-- `n` read phases of a tile run (R112): their mean length counts them. Outside the range of R31 the length is a free value. -/
def Die.phases (x : Die) (cap draw : Nat) (strobe5 : Bool) (t n : Nat) : Die :=
  { x with phaseM := x.phaseM.add x.ms n (match rateScale x.vddMv (x.tempAt t) with
      | some sc => 1250 * phaseStrobes strobe5 cap sc
      | none => freePs draw) }

/-- Read phases of a row group for block `g` of a layer: Σ rep_k over the planes (R108). -/
def phasesOf (a : Container) (e : LayerEntry) (l g : Nat) : Nat :=
  let n := widthOf a l g
  ((List.range (planes n)).map (fun k => 2 ^ repLog e n k)).foldl (· + ·) 0

/-- σ_c in thousandths of a level by wear band, and σ_r in hundredths of a level-row (R128). -/
def sigmaC (band : Nat) (t : Int) : Nat × Nat :=
  interp (match band with
    | 0 => [(0, 50), (400, 42), (1200, 45), (1680, 55)]
    | 1 => [(0, 65), (400, 57), (1200, 60), (1680, 72)]
    | _ => [(0, 85), (400, 78), (1200, 85), (1680, 100)]) t
def sigmaR (t : Int) : Nat × Nat := interp [(0, 34), (400, 36), (1200, 40), (1680, 46)] t

/-- The endurance budget of a cell (R163): 1.0 × 10^6 trains. -/
def enduranceBudget : Nat := 1000000

/-- The wear fraction's factors: σ_c's multiplier and σ_r's 1 + 0.25 a, by band, or by `a` itself above 1. -/
def wearFactors (band maxWear : Nat) : (Nat × Nat) × (Nat × Nat) :=
  if enduranceBudget < maxWear then ((maxWear, enduranceBudget), (4 * enduranceBudget + maxWear, 4 * enduranceBudget))
  else match band with
    | 0 => ((1, 1), (1, 1))
    | 1 => ((1, 1), (9, 8))
    | _ => ((1, 1), (5, 4))

/-- H of R127 and its part on the 10-bit converters. -/
def hSum (e : LayerEntry) : Nat × Nat := (List.range e.t).foldl (fun s j => fadd s (9 ^ j, max (colCount e j) 1)) (0, 1)
def hTop (e : LayerEntry) : Nat × Nat := (9 ^ (e.t - 1), max (colCount e (e.t - 1)) 1)
/-- D of R127. -/
def dSum (e : LayerEntry) (n : Nat) : Nat × Nat := (List.range (planes n)).foldl (fun s k => fadd s (4 ^ k, 2 ^ repLog e n k)) (0, 1)

/-- γ (R128): 0.10 %, and on a frozen leaf 0.04 % more per °C of change since its last calibration, `dt16` in 1/16 °C. -/
def gammaOf (frozen : Bool) (dt16 : Nat) : Nat × Nat := if frozen then (1600 + 40 * dt16, 1600000) else (1600, 1600000)

/-- ρ² of R127 for one run. -/
def rhoSquared (e : LayerEntry) (n band maxWear : Nat) (t : Int) (frozen : Bool) (dt16 : Nat) : Nat × Nat :=
  let lim := tritMax e.t
  let wf := wearFactors band maxWear
  let sc := fmul (fmul (sigmaC band t) wf.1) (1, if isBinary e then 2000 else 1000)
  let sr := fmul (fmul (sigmaR t) wf.2) (1, 100)
  let sr2 := fmul sr sr
  let h6 := (List.range (e.t - 1)).foldl (fun s j => fadd s (9 ^ j, max (colCount e j) 1)) (0, 1)
  let cell := fmul (fmul (fmul sc sc) (hSum e)) (1, 64 * lim * lim)
  let f := 64 * biMax n * lim
  let read := fmul (fmul (fadd (fmul (hTop e) (fadd sr2 (13, 10000))) (fmul h6 (fadd sr2 (3333, 10000)))) (dSum e n)) (1, f * f)
  let g := gammaOf frozen dt16
  fadd (fadd cell read) (fmul g g)

/-- |A − D| > TOL/8 × B_b, with B_b = 6 ρ F_b: compared as squares (R252). Non-finite values disagree unless equal. -/
def beyondBound (tol : Nat) (rho2 : Nat × Nat) (n t : Nat) (sb q : Byte) (x d : Word) : Bool :=
  match (f32 x).sub (f32 d), (bs8Val sb).mul (bs8Val q) with
  | .fin _ m e, .fin _ m2 e2 =>
    let f := 64 * biMax n * tritMax t * m2
    -- (m·2^e)² · 64 · den  >  tol² · 36 · num · f² · 2^(2·e2)
    let r := ratio (m * m * 64 * rho2.2) (max (tol * tol * 36 * rho2.1 * f * f) 1) (2 * e - 2 * e2)
    if f = 0 then decide (m ≠ 0) else decide (r.2 < r.1)
  | _, _ => decide (x ≠ d)

end Sys2Proof.Machine
end

