-- ==== Sys2Proof/Machine/Corrections.lean ====
section
/-! DEFINITION. Corrections from raw samples: a converter's from its internal channels (R187), a leaf's K and z from its reference columns
(R192, R194, R198), a column's from its single-row reads (R194), each exact and rounded once to its format (R191; DEDUCED, log entry 120). -/

namespace Sys2Proof.Machine

/-- An exact value rounded to a signed code of `w` bits; beyond its range the end code (log entry 120). -/
def satCode (w : Nat) (x : Int × Nat) : BitVec w :=
  BitVec.ofInt w (max (-(2 ^ (w - 1) : Int)) (min (2 ^ (w - 1) - 1) (rnear x)))

/-- The code of a gain num / den (R191): its distance from 1 in 2^−17. Nothing measured reads as the largest gain. -/
def gainCode (num den : Int) : BitVec 16 := if den ≤ 0 then 0x7FFF#16 else satCode 16 ((num - den) * 131072, den.toNat)

/-! ### Converters (R182, R187) -/

/-- O_k and G_k from 256 samples each of ZERO, PFS and NFS: the mean of ZERO in codes, and the nominal span of 96 level-rows to the measured
one. -/
def convCodes (fine : Bool) (zero pfs nfs : List Int) : BitVec 12 × BitVec 16 :=
  (satCode 12 (averaged 8 zero, 4), gainCode (256 * (if fine then 768 else 48)) (averaged 8 pfs - averaged 8 nfs))

/-- Bounds of R188 for a pipeline converter: |O_k| above 16 codes or |G_k − 1| above 5 %. -/
def convOutside (c : BitVec 12 × BitVec 16) : Bool := decide (1024 < c.1.toInt.natAbs) || decide (6553 < c.2.toInt.natAbs)

/-- A column whose whole input path, its column converter included, has a gain outside ±20 % of nominal or an offset outside ±4 level-rows
(R133, R188). -/
def Tile.pathOutside (y : Tile) (f : Leaf) (c : Nat) : Bool :=
  let g := 131072 + (tget 0#16 y.convG c).toInt
  let path := g * (131072 + (tget 0#16 f.colG c).toInt)
  let off := 64 * (tget 0#12 y.convO c).toInt * g + (tget 0#12 f.colO c).toInt * 2097152
  decide (2 ^ 34 < 5 * (path - 2 ^ 34).natAbs) || decide (4 * 2 ^ 28 < off.natAbs)

/-! ### Reference columns (R103, R192, R194, R198) -/

/-- The fixed level of reference column 1,120 + n; no cell of the open columns is formed (R103). -/
def refLevel (n : Nat) : Option Int := if n < 10 then some 1 else if n < 20 then some 0 else if n < 30 then some (-1) else none

/-- Reference columns of one level that are not excluded (R198). -/
def healthyAt (bad : Word) (level : Option Int) : List Nat := (List.range 32).filter (fun n => decide (refLevel n = level) && !bad.getLsbD n)

/-- One phase's reference samples, `ns` the rows driven net: phases with |n_s| below 8 are left out of the sums (R192). -/
def Track.add (y : Tile) (t16 ns : Int) (cols : List (Nat × Int)) (x : Track) : Track :=
  let x1 : Track := { x with phases := x.phases + 1, temps := x.temps + t16 }
  if ns.natAbs < 8 then x1
  else { x1 with used := x1.used + ns.natAbs,
                 sums := cols.foldl (fun u c => tmod 0 u c.1 (· + ns.sign * convReading y (1152 + (1120 + c.1) / 8) true c.2)) x1.sums }

def Track.sum (x : Track) (ns : List Nat) : Int := (ns.map (tget 0 x.sums)).foldl (· + ·) 0

/-- K and z (R192): z the middle columns' mean reading for each net driven row, K the expected readings of the high and low columns to their
corrected readings, taken with sign; `none` where nothing was driven or no such column is healthy. -/
def Track.values (bad : Word) (x : Track) : Option (BitVec 16 × BitVec 12) :=
  let hi := healthyAt bad (some 1)
  let mid := healthyAt bad (some 0)
  let lo := healthyAt bad (some (-1))
  let n : Int := mid.length
  let read := (x.sum hi - x.sum lo) * n - x.sum mid * ((hi.length : Int) - lo.length)
  if x.used = 0 || mid.isEmpty || (hi ++ lo).isEmpty || decide (read ≤ 0) then none
  else some (gainCode (x.used * ((hi.length : Int) + lo.length) * 2 ^ 28 * n) read,
             satCode 12 (x.sum mid * 1024, mid.length * x.used * 2 ^ 28))

/-- Reference columns found unhealthy (R198): more than 0.2 level-rows for each net driven row from their class's mean, or an open column's
leakage above 0.05. -/
def Track.unhealthy (bad : Word) (x : Track) : List Nat :=
  if x.used = 0 then []
  else
    let off (level : Option Int) : List Nat :=
      let ns := healthyAt bad level
      ns.filter (fun n => decide (ns.length * x.used * 2 ^ 28 < 5 * (ns.length * tget 0 x.sums n - x.sum ns).natAbs))
    off (some 1) ++ off (some 0) ++ off (some (-1))
      ++ (healthyAt bad none).filter (fun n => decide (x.used * 2 ^ 28 < 20 * (tget 0 x.sums n).natAbs))

/-- The mean sensor reading over what was gathered. -/
def Track.meanTemp (x : Track) : Int := x.temps / max x.phases 1

/-! ### Reference reads (R182, R194) -/

def driveRows : RefDrive → Int
  | .pos => 48
  | .neg => -48
  | .undriven => 0

/-- The samples of one column in one part of a reference read. -/
def refCodes (r : RefRead) (g : Nat) (dr : RefDrive) (n : Nat) : List Int :=
  match r.samples.find? (fun s => s.group = g && decide (s.drive = dr) && s.col = 1120 + n) with
  | some s => s.codes
  | none => []

/-- The twelve parts of a reference read: each row group driven each way. -/
def refParts : List (Nat × RefDrive) := (List.range 4).flatMap (fun g => [(g, .pos), (g, .neg), (g, .undriven)])

/-- Every sample of the read is there: 16 of each column in each part. -/
def refWhole (r : RefRead) : Bool := refParts.all (fun q => (List.range 32).all (fun n => decide ((refCodes r q.1 q.2 n).length = 16)))

/-- What a reference read gathers, as R192 sums it. -/
def refTrack (y : Tile) (t16 : Int) (r : RefRead) : Track :=
  refParts.foldl (fun x q => x.add y t16 (driveRows q.2) ((List.range 32).map (fun n => (n, averaged 4 (refCodes r q.1 q.2 n))))) Track.reset

/-- Read phases of a reference read: 1.44 µs at 10.0 ns (R194). -/
def refPhases : Nat := 144

/-! ### Column calibration (R182, R194) -/

/-- Every sample of a column's calibration is there. -/
def calWhole (c : ColCal) : Bool :=
  decide (c.rows.length = 256) && c.rows.all (fun cs => decide (cs.length = 16)) && decide (c.undriven.length = 64)

/-- O_c: the undriven reading. -/
def colOffset (y : Tile) (c : ColCal) : BitVec 12 := satCode 12 (convReading y (1152 + c.col / 8) true (averaged 6 c.undriven) * 128, 2 ^ 28)

/-- A row's reading under the leaf's corrections but for the column's gain, over 2^28 · 2^17 · 1,600,000, and the level it rounds to. -/
def colRow (y : Tile) (f : Leaf) (o : BitVec 12) (c : ColCal) (codes : List Int) : Int × Int :=
  let v := (convReading y (1152 + c.col / 8) true (averaged 4 codes) - o.toInt * 2097152 - f.cal.z.toInt * 262144)
    * (131072 + f.cal.k.toInt) * f.cal.comp
  (v, max (-1) (min 1 (rnear (v, 2 ^ 45 * 1600000))))

/-- G_c and O_c: the least-squares gain that fits the readings to their levels over the non-middle cells, none where there are fewer than
16 of them. -/
def colCodes (y : Tile) (f : Leaf) (c : ColCal) : Option (BitVec 16) × BitVec 12 :=
  let o := colOffset y c
  let vs := (c.rows.map (colRow y f o c)).filter (fun v => decide (v.2 ≠ 0))
  let fit := (vs.map (fun v => v.1 * v.2)).foldl (· + ·) 0 * (2 ^ 45 * 1600000)
  let sq := (vs.map (fun v => v.1 * v.1)).foldl (· + ·) 0
  (if vs.length < 16 then none else some (gainCode fit sq), o)

/-- The gains of a leaf's columns: a column with none takes the mean of the others' (R194). -/
def fillGains (cs : List (Nat × Option (BitVec 16))) : List (Nat × BitVec 16) :=
  let gs := cs.filterMap (fun c => c.2.map BitVec.toInt)
  let mean : BitVec 16 := if gs.isEmpty then 0 else satCode 16 (gs.foldl (· + ·) 0, gs.length)
  cs.map (fun c => (c.1, c.2.getD mean))

/-- Samples of a window's calibration reads that are clipped (R180). -/
def readClips (rs : List RefRead) (cs : List ColCal) : Nat :=
  ((rs.flatMap (fun r => r.samples.map (fun s => clippedIn true s.codes)))
    ++ cs.flatMap (fun c => clippedIn true c.undriven :: c.rows.map (clippedIn true))).foldl (· + ·) 0

end Sys2Proof.Machine
end

