-- ==== Sys2Proof/Machine/Wire.lean ====
section
/-! DEFINITION. Records as they leave the part, byte by byte: CRC-32C (R202), the completion record (R296), the Derpol record (R376) and the
Ethernet frame that carries Derpol records (R446). Multi-byte fields are little-endian; IDTAG is a byte string whose first byte is the highest
of the value held (log entry 123). -/

namespace Sys2Proof.Machine

/-! ### CRC-32C (R202) -/

/-- One bit of the reflected polynomial 0x1EDC6F41. -/
def crcBit (c : Word) : Word := if c.getLsbD 0 then (c >>> 1) ^^^ 0x82F63B78#32 else c >>> 1
def crcByte (c : Word) (b : Byte) : Word := (List.range 8).foldl (fun c _ => crcBit c) (c ^^^ b.setWidth 32)

/-- CHECK's function: initial value and final XOR all ones. -/
def crc32c (bs : List Byte) : Word := bs.foldl crcByte 0xFFFFFFFF#32 ^^^ 0xFFFFFFFF#32

/-! ### Bytes -/

/-- A number in `n` bytes, least significant first. -/
def leNat (v n : Nat) : List Byte := leBytes (BitVec.ofNat (8 * n) v) n
def ofLe : List Byte → Nat
  | [] => 0
  | b :: bs => b.toNat + 256 * ofLe bs

/-- The bytes of IDTAG in digest order (R201). -/
def idtagBytes (idtag : Dbl) : List Byte := (leBytes idtag 8).reverse

/-! ### Completion records (R296) -/

def completionBytes (c : Completion) : List Byte :=
  [c.status, c.detail] ++ leBytes c.flags 2 ++ leBytes c.seq 4 ++ leBytes c.tag 8 ++ leBytes c.epoch 4 ++ leBytes c.slot 2
    ++ [c.healthy, 0#8] ++ leBytes c.step 8

/-! ### Derpol records (R376) -/

/-- NUMBER of R376. -/
def Ev.number : Ev → Nat
  | .clv n | .mce n | .wun n | .cdm n | .cal n | .cnv n | .stk n | .saf n | .pwr n | .ring n | .part n | .tst n => n

/-- UNIT: KIND, INDEX, SUB. -/
def unitWord (e : Event) : Nat := e.unit * 2 ^ 28 + e.index * 2 ^ 15 + e.sub * 2 ^ 12

/-- Bytes 0x00 to 0x3B. -/
def derpolHead (idtag : Dbl) (r : LogRec) : List Byte :=
  let e := r.ev
  [0x44#8, 0x50#8, 0x01#8, BitVec.ofNat 8 e.sev, BitVec.ofNat 8 e.code.block, BitVec.ofNat 8 e.code.number,
   BitVec.ofNat 8 (e.die.getD 0xFF), BitVec.ofNat 8 (e.part.getD 0xFF)]
    ++ leBytes r.seq 8 ++ leBytes e.counter 8 ++ leBytes e.step 8 ++ leBytes e.epoch 4 ++ leNat (unitWord e) 4 ++ idtagBytes idtag
    ++ leBytes e.data 8 ++ [BitVec.ofNat 8 (e.cdie.getD 0xFF), BitVec.ofNat 8 e.action] ++ leNat (e.layer.getD 0xFFFF) 2

/-- A record of 64 bytes. -/
def derpolBytes (idtag : Dbl) (r : LogRec) : List Byte := derpolHead idtag r ++ leBytes (crc32c (derpolHead idtag r)) 4

/-- The Ethernet frame of 1 to 16 records (R446). -/
def derpolFrame (idtag : Dbl) (dest : BitVec 48) (rs : List LogRec) : List Byte :=
  (leBytes dest 6).reverse ++ 0x02#8 :: (idtagBytes idtag).take 5 ++ [0x88#8, 0xB5#8]
    ++ 0x01#8 :: BitVec.ofNat 8 rs.length :: List.replicate 6 0#8 ++ rs.flatMap (derpolBytes idtag)

end Sys2Proof.Machine
end

