-- ==== Sys2Proof/Machine/Rings.lean ====
section
/-! DEFINITION. Rings and result windows: doorbells, acceptance, NOP and BARRIER, completions, window accesses, and the ring
registers' commands (R288 to R307). -/

namespace Sys2Proof.Machine

/-- DOORBELL_SNOOP (R288): a snoop that arrives during an interruption, or in Vigil or Repose, is kept (R290, R415). -/
def execDoorbellSnoop (k : SetId) (l : Doorbell) (s : State) : Res :=
  s.go fun m =>
    if !(m.ring k).enabled || m.bridgeDown then m
    else if m.working && !m.interrupted k then m.readLine k l
    else m.modRing k (fun r => { r with kept := some l })

/-- The conditions of R290 for accepting `d` on a ring set. -/
def acceptable (r : RingSet) (d : Desc) : Bool :=
  r.enabled && !r.disabling && !r.halted && decide (r.subTail ≠ r.accepted) && decide (r.held.length < 64)
    && decide ((r.accepted - r.cplHead).toNat < r.size)
    && (!dResult d || decide ((r.published - r.released).toNat + (r.held.filter (fun h => h.resv)).length < r.winSlots))

/-- The held copy of a descriptor on acceptance. -/
def heldCopy (index : Word) (epoch : Word) (seen : Tab Word) (d : Desc) : Held :=
  { index := index, desc := d, st := .waiting, resv := dResult d, slot := none, epochAcc := epoch, replayed := false,
    cplEpoch := 0, cplHealthy := 0, inp := { input := [], index := [] }, seen := if d.opcode = 0x20#8 then seen else [] }

/-- How many descriptors each ring set has accepted. -/
def Dev.acceptedNow (m : Dev) : Tab Word := tsetAll 0 [] (setIds.map (fun k => (k.val, (m.ring k).accepted)))

/-- DESCRIPTOR_ACCEPT (R290): the head descriptor of the submission ring, as read, enters the held copy, and its completion
slot and result slot are reserved. -/
def execDescriptorAccept (k : SetId) (d : Desc) (s : State) : Res :=
  s.go fun m =>
    if m.working && !m.holdsRings && !m.interrupted k && acceptable (m.ring k) d then
      m.modRing k (fun r => { r with held := r.held ++ [heldCopy r.accepted (m.epochOf k) m.acceptedNow d], accepted := r.accepted + 1 })
    else m

/-- NOP (R292): completes. -/
def execNop (k : SetId) (s : State) : Res := s.go fun m => m.execHead k 0x00 fun _ _ m => m.completeOk k

/-- Whether every descriptor of ring set `n` accepted before the barrier `b` of ring set `k` has completed (R295); those ahead
of it on its own ring set have, since it is up. -/
def barrierClear (m : Dev) (k n : SetId) (b : Held) : Bool :=
  let r := m.ring n
  n = k || r.held.all (fun h => h.isDone
    || decide ((tget 0 b.seen n.val - r.completed).toNat ≤ (h.index - r.completed).toNat)
    || decide ((r.accepted - r.completed).toNat < (tget 0 b.seen n.val - r.completed).toNat))

/-- A BARRIER up on a ring set (R295): a mask naming a ring set that is not enabled or not owned halts the ring set with
DETAIL 0x0C. -/
def Dev.barrier (m : Dev) (k : SetId) : Dev :=
  m.execHead k 0x20 fun h p m =>
    let named := setIds.filter (fun n => (dopnd h.desc 0 8).testBit n.val)
    if named.all (fun n => (m.ring n).enabled && decide (m.partOf n = some p)) then
      if named.all (fun n => barrierClear m k n h) then m.completeOk k else m.setHead k (fun h => { h with st := .precond })
    else m.completeHead k stReject 0x0C 0 none true

def execBarrier (k : SetId) (s : State) : Res := s.go fun m => m.barrier k

/-- A head whose opcode no command executes, or whose SEQ differs from its index, completes STATE_REJECT when it comes up
(R292). -/
def Dev.settleUnknown (m : Dev) (k : SetId) : Dev :=
  match (m.ring k).head with
  | some h =>
    if m.interrupted k || decide (h.st = .executing) then m
    else if h.desc.seq ≠ h.index then m.completeHead k stReject 0x0B (m.headStep k) none true
    else if knownOpcode h.desc.opcode.toNat then m else m.completeHead k stReject 0x02 0 none false
  | none => m

/-- STATUS as written (R297): OK becomes REPLAYED_EPOCH for work rolled back and rerun in a later epoch. -/
def writtenStatus (h : Held) (st : Nat) : Nat :=
  if st = stOk && h.replayed && decide (h.epochAcc ≠ h.cplEpoch) then stReplayed else st

/-- The record of a held descriptor at its completion point (R296). -/
def completionOf (r : RingSet) (h : Held) : Option Completion :=
  match h.st with
  | .done st detail step valid halts =>
    let phase := (h.desc.seq.toNat / r.size) % 2 = 0
    some { status := BitVec.ofNat 8 (writtenStatus h st)
           detail := BitVec.ofNat 8 (if st = stReject then detail else 0)
           flags := BitVec.ofNat 16 ((if phase then 1 else 0) + 2 * h.replayed.toNat + 4 * valid.toNat + 8 * halts.toNat)
           seq := h.desc.seq
           tag := h.desc.tag
           epoch := h.cplEpoch
           slot := match h.slot with
             | some n => BitVec.ofNat 16 n
             | none => 0xFFFF#16
           healthy := h.cplHealthy
           step := step }
  | _ => none

/-- Where the completion ring lies, and the record slot of an index (R289). -/
def RingSet.cplBase (r : RingSet) : Dbl := (tget 0 r.bases 3) ++ (tget 0 r.bases 2)
def RingSet.cplAddr (r : RingSet) (index : Word) : Dbl := r.cplBase + BitVec.ofNat 64 (index.toNat % r.size * 32)

/-- A ring set told to disable does so when it holds nothing more (R304); its window then reads not-ready. -/
def RingSet.settle (r : RingSet) : RingSet :=
  if r.disabling && r.held.isEmpty then { r with enabled := false, disabling := false, slots := [] } else r

/-- COMPLETION_WRITE (R298): the oldest held descriptor, once complete, has its record written whole and leaves the held
copy; nothing is written during an interruption or after a bridge failure. -/
def execCompletionWrite (k : SetId) (s : State) : Res :=
  s.go fun m0 =>
    let m := m0.settleUnknown k
    if m.interrupted k || m.bridgeDown then m
    else
      let r := m.ring k
      match r.held with
      | h :: t =>
        match completionOf r h with
        | some c =>
          let m1 := m.modRing k (fun r => ({ r with held := t, completed := r.completed + 1 } : RingSet).settle)
          m1.emit (.completion k.val (r.cplAddr h.index) (completionBytes c))
        | none => m
      | [] => m

/-! ### Result windows (R300, R301) -/

/-- The bytes of a publication's payload (R303), of the 60 of its first line; every other line's payload is 0. -/
def payloadBytes (p : Payload) : List Byte :=
  leBytes p.loss 8 ++ leBytes p.norm 8 ++ leBytes p.clip 4 ++ leBytes p.tokens 4 ++ leBytes p.step 8 ++ leBytes p.disagree 4
    ++ leBytes p.dropped 4 ++ [p.fbCount, p.flags] ++ List.replicate 18 0#8

/-- Line `n` of a published slot: its payload and the READY word. -/
def slotLine (n : Nat) (count : BitVec 31) (p : Payload) : List Byte :=
  (if n = 0 then payloadBytes p else List.replicate 60 0#8) ++ leBytes (count.setWidth 32) 4

/-- What a line of the 8 MiB window range reads as; `none` is the not-ready pattern (R300, R301). -/
def Dev.windowLine (m : Dev) (addr : Nat) : Option (List Byte) :=
  let r := m.ring (Fin.ofNat 64 (addr / 0x20000))
  let slot := addr % 0x20000 / 4096
  if r.enabled && decide (slot < r.winSlots) then
    match tget .free r.slots slot with
    | .published c p => some (slotLine (addr % 4096 / 64) c p)
    | .free => none
  else none

/-- An access outside every slot, or a write (R301). -/
def Dev.badAccess (m : Dev) : Dev :=
  ({ m with board := { m.board with badAccess := satAdd32 m.board.badAccess 1 } }).raise none (ev (.ring 4))

/-- RESULT_WINDOW_READ (R301): of the HDM range of 256 MiB the first 8 MiB are the windows (R443). -/
def execResultWindowRead (addr : BitVec 28) (s : State) : Res :=
  s.go fun m =>
    let line := addr.toNat / 64 * 64
    if !m.board.memActive then m
    else if line < 0x800000 then m.emit (.windowLine line (m.windowLine line)) else (m.emit (.windowZero line)).badAccess

/-- RESULT_WINDOW_WRITE (R301). -/
def execResultWindowWrite (_addr : BitVec 28) (s : State) : Res := s.go fun m => if m.board.memActive then m.badAccess else m

/-! ### Ring registers (R306, R307) -/

/-- The ring set that RING_SET_SEL selects. -/
def Dev.selSet (m : Dev) : SetId := Fin.ofNat 64 (bits (m.reg ringSetSel) 5 0)

/-- The fields of RING_SET_CTRL that a write keeps, each ignored when out of range (R306). -/
def ctrlFields (old v : Word) : Word :=
  let size := if 6 ≤ bits v 20 16 ∧ bits v 20 16 ≤ 16 then bits v 20 16 else bits old 20 16
  let win := if bits v 5 0 ≤ 32 then bits v 5 0 else bits old 5 0
  BitVec.ofNat 32 (bits v 29 29 * 2 ^ 29 + size * 2 ^ 16 + win)

/-- The ENABLE_ERR code of the first condition of R307 that fails, 0 for none. -/
def Dev.enableErr (m : Dev) (k : SetId) (r : RingSet) : Nat :=
  match m.partOf k with
  | none => 1
  | some p =>
    if !m.board.cacheEn then 2
    else if decide ((tget 0 r.bases 0).toNat % 4096 ≠ 0) || decide ((tget 0 r.bases 2).toNat % 4096 ≠ 0)
        || decide ((tget 0 r.bases 4).toNat % 64 ≠ 0) then 3
    else if !r.isControl && (m.setsOf p).any (fun n => decide (n ≠ k) && (m.ring n).enabled && !(m.ring n).isControl) then 4
    else 0

/-- A ring set freshly enabled: counts at 0, every slot not-ready (R307). -/
def RingSet.start (r : RingSet) : RingSet :=
  { r with enabled := true, disabling := false, halted := false, haltDetail := 0, enableErr := 0, accepted := 0, completed := 0,
           published := 0, released := 0, subTail := 0, cplHead := 0, kept := none, held := [], slots := [] }

/-- A write of RING_SET_CTRL (R306): fields other than ENABLE are kept only while the ring set is not enabled; ENABLE 1
enables when the conditions of R307 hold, ENABLE 0 disables (R304). -/
def Dev.writeRingCtrl (m : Dev) (v : Word) : Dev :=
  let k := m.selSet
  let r := m.ring k
  let m1 := if r.enabled then m else m.modRing k (fun r => { r with ctrl := ctrlFields r.ctrl v })
  if v.getLsbD 31 then
    if r.enabled then m1
    else match m1.enableErr k (m1.ring k) with
      | 0 => m1.modRing k RingSet.start
      | e => m1.modRing k (fun r => { r with enableErr := e })
  else if r.enabled then m1.modRing k (fun r => ({ r with disabling := true } : RingSet).settle)
  else m1

/-- RING_ENABLE (R307): a write of RING_SET_CTRL with ENABLE 1. -/
def execRingEnable (v : Word) (s : State) : Res := s.go fun m => if m.regsUp && v.getLsbD 31 then m.writeRingCtrl v else m

/-- RING_DISABLE (R304): a write of RING_SET_CTRL with ENABLE 0. -/
def execRingDisable (v : Word) (s : State) : Res := s.go fun m => if m.regsUp && !v.getLsbD 31 then m.writeRingCtrl v else m

/-- RING_HALT_CLEAR (R297): HALTED of the selected ring set clears, and acceptance resumes. -/
def execRingHaltClear (s : State) : Res := s.go fun m => if m.regsUp then m.modRing m.selSet (fun r => { r with halted := false }) else m

/-- RING_BAD_CLEAR (R306). -/
def execRingBadClear (s : State) : Res := s.go fun m => if m.regsUp then { m with board := { m.board with badAccess := 0 } } else m

end Sys2Proof.Machine
end

