-- ==== Sys2Proof/Machine/SetupOps.lean ====
section
/-! DEFINITION. Operations of the set-up descriptors: passing preconditions (R294), refusals, installing an almanac (R281,
R463), forming weights from a package (R401), and restoring a checkpoint (R350). -/

namespace Sys2Proof.Machine

/-! ### Passing preconditions -/

/-- STORE_READY is not set on every healthy die (R203). -/
def Dev.storeWaits (m : Dev) : Bool := m.healthy.any (fun d => !(m.die d).storeReady)

/-- Every placed leaf of healthy dies that `pick` names, as (die, tile, leaf). -/
def Dev.leavesOf (m : Dev) (a : Container) (pick : PlaceEntry → Bool) : List (DieId × Nat × LeafId) :=
  m.healthy.flatMap (fun d => ((m.die d).placedLeaves a d.val pick).map (fun e => (d, e.1, Fin.ofNat 4 e.2.1)))

/-- The leaves of some layers in force under a partition's variant. -/
def Dev.layerLeaves (m : Dev) (p : Pid) (layers : Nat → Bool) : List (DieId × Nat × LeafId) :=
  match (m.part p).almanac with
  | some a => m.leavesOf a (fun e => (decide (e.variant = (m.part p).variant) || decide (e.variant = 0xFF)) && layers e.layer)
  | none => []

def Dev.leafAt (m : Dev) (r : DieId × Nat × LeafId) : Leaf := (m.die r.1).leaf r.2.1 r.2.2

/-- A leaf among them is being scrubbed, or is still programmed by a LEAF_PROGRAM or WEIGHT_LOAD. -/
def Dev.leavesWait (m : Dev) (ls : List (DieId × Nat × LeafId)) : Bool :=
  ls.any (fun r => (m.leafAt r).scrub || ((m.leafAt r).prog.isSome && (m.leafAt r).progDesc))

/-- A descriptor that meets a passing precondition waits at the head, or completes NOT_READY under NOWAIT. -/
def Dev.waitHead (m : Dev) (k : SetId) (h : Held) : Dev :=
  if dNowait h.desc then m.completeHead k stNotReady 0 (m.headStep k) none false else m.setHead k (fun h => { h with st := .precond })

/-! ### Refusals -/

/-- A refused load: EV-RING-03 for an almanac, and EV-PART-04 for a signature or a device set (R396, R399). -/
def Dev.refuseObject (m : Dev) (p : Pid) (k : SetId) (detail : Nat) (almanac : Bool) : Dev :=
  let m1 := when almanac (fun n => n.raiseP none p (ev (.ring 3))) m
  let m2 := when (decide (detail = 0x05) || decide (detail = 0x0D)) (fun n => n.raiseP none p (ev (.part 4))) m1
  m2.reject k detail

/-! ### Installing an almanac -/

/-- The leaf of a tile before a new placement: nothing placed, nothing programmed any more. -/
def Leaf.unplaced (f : Leaf) : Leaf :=
  { f with placed := false, frozen := false, prog := none, progDesc := false, progCodes := [], progScales := [], blank := true }

/-- A partition's leaves on a die stand unplaced and their queue entries go (R463). -/
def Dev.clearLeaves (m : Dev) (p : Pid) (d : DieId) : Dev :=
  m.modDie d (fun x => { x with tiles := x.tiles.foldl (fun t e =>
    tset Tile.reset t e.1 (leafIds.foldl (fun y l =>
      if m.owner (resLeaf d e.1 l.val) = some p
      then ({ y with queue := y.queue.filter (fun q => q.leaf ≠ l) } : Tile).modLeaf l Leaf.unplaced else y) e.2)) x.tiles })

/-- The placement's leaves are marked and their whole-leaf programming begins (R170): all weights are 0, so every code is its
initial one and every scale 0x00. A retired tile with no spare is never written. -/
def Dev.placeLeaves (m : Dev) (a : Container) (d : DieId) : Dev :=
  m.modDie d (fun x => (x.placedLeaves a d.val (fun _ => true)).foldl (fun x e =>
    if (x.tile e.1).st = .retiredNone then x
    else
      let l : LeafId := Fin.ofNat 4 e.2.1
      (x.modLeaf e.1 l (fun f => { f with placed := true, frozen := e.2.2 })).startLeaf e.1 l false [] []) x)

/-- The completion point of ALMANAC_LOAD (R281, R463): the almanac replaces the previous one with its initial state; the job
secret is new, so the partition's link keys go (R394). -/
def Dev.installAlmanac (m : Dev) (p : Pid) (a : Container) (v : Nat) : Dev :=
  let m1 := m.modPart p (fun x =>
    { x with
      st := .loaded
      almanac := some a
      loading := none
      variant := v
      digital := false
      com := digestLoad a Committed.initial
      run := none
      xch := Exchange.reset
      intr := none
      unrepl := []
      stateLost := false
      served := []
      draining := none
      susp := none
      lastOutcome := 0
      exhausted := false
      digestRun := none
      pkgDigests := [] })
  let m2 := (m1.portsOf p).foldl (fun n r => n.modDie r.1 (fun x => x.modPort r.2 (fun q => { q with key := none }))) m1
  let m3 := m2.healthy.foldl (fun n d => (n.clearLeaves p d).placeLeaves a d) m2
  (m3.fixMasters p).publishIfCalm

/-! ### Weight packages (R400, R401) -/

/-- ASCII NV8WPKG1 and NV8CKPT1, little-endian. -/
def magicPackage : Dbl := 0x31474B505738564E#64
def magicCheckpoint : Dbl := 0x3154504B4338564E#64

/-- Check 1: the layout. -/
def packageOk (a : WPackage) (len : Nat) : Bool :=
  decide (a.magic = magicPackage) && decide (a.format = 1) && decide (a.rsvd = 0) && decide (a.length = len)
    && a.sections.all (fun s => decide (1 ≤ s.kind ∧ s.kind ≤ 4) && decide (s.die ≤ 7))
    && decide (((a.sections.map (fun s => (s.layer, s.kind, s.die))).eraseDups).length = a.sections.length)

/-- The values a section holds, as (output, index, word), for the outputs placed on its die in the base placement. -/
def sectionKeys (a : Container) (s : PkgSection) : List (Nat × Nat × Nat) :=
  ((placesOf a 0).filter (fun e => decide (e.layer = s.layer) && decide (e.die = s.die))).flatMap (fun e =>
    (List.range e.outCount).flatMap (fun j =>
      let o := e.outFirst + j
      if s.kind = 3 then (List.range ((e.rows + 63) / 64)).map (fun b => (o, b, 0))
      else (List.range e.rows).flatMap (fun i =>
        if s.kind = 4 then (List.range a.wprog.words).map (fun w => (o, i, w)) else [(o, i, 0)])))

/-- One section against the loaded almanac (check 4): tags, size, and TW8 validity (R61). -/
def sectionOk (a : Container) (s : PkgSection) : Bool :=
  s.tagsOk && decide (s.layer < a.layerTab.length)
    && decide (s.entries.map (fun e => (e.out, e.idx, e.word)) = sectionKeys a s)
    && (decide (s.kind ≠ 2) || s.entries.all (fun e => decide (e.val.toNat < 256)
        && tw8Valid (layerT a s.layer) (layerBinary a s.layer) (e.val.setWidth 8)))
    && (decide (s.kind ≠ 3) || s.entries.all (fun e => decide (e.val.toNat < 256)))

/-- Whether a package carries a kind for a layer. -/
def pkgHas (w : WPackage) (l kind : Nat) : Bool := w.sections.any (fun s => s.layer = l && s.kind = kind)

/-- A layer's codes need masters or scales to form its state (R401). -/
def pkgFormable (w : WPackage) : Bool := w.sections.all (fun s => decide (s.kind ≠ 2) || pkgHas w s.layer 1 || pkgHas w s.layer 3)

/-- The first failed check of R401, as its DETAIL. -/
def Dev.packageCheck (m : Dev) (p : Pid) (a : Container) (w : WPackage) (len : Nat) : Option Nat :=
  if !packageOk w len then some 0x04
  else if !m.ownerSigned w.sig then some 0x05
  else if decide ((m.part p).slot.isNone) || decide (w.setId ≠ (m.part p).setId) then some 0x0D
  else if decide (w.almanacId ≠ a.almanacId) || !w.sections.all (sectionOk a) || !pkgFormable w then some 0x04
  else none

/-- The entries of a kind. -/
def pkgOf (w : WPackage) (kind : Nat) : List WEntry := (w.sections.filter (fun s => s.kind = kind)).flatMap (fun s => s.entries)

/-- Masters, optimiser state, target codes and the scales to be programmed, as the package gives or implies them. -/
def formWeights (a : Container) (w : WPackage) (c : Committed) : Committed × Tab Byte :=
  let scales := (pkgOf w 3).foldl (fun t e => tset 0 t (bkey e.layer e.out e.idx) (e.val.setWidth 8)) c.scales
  let codes := (pkgOf w 2).foldl (fun t e => tset 0 t (wkey e.layer e.out e.idx) (ofTw8 (e.val.setWidth 8))) c.target
  let made := (pkgOf w 2).filter (fun e => !pkgHas w e.layer 1)
  let ms := made.foldl (fun t e => tset 0 t (wkey e.layer e.out e.idx)
    (rne32 ((FVal.ofInt (ofTw8 (e.val.setWidth 8))).mul (bs8Val (tget 0 scales (bkey e.layer e.out (e.idx / 64)))))))
    ((pkgOf w 1).foldl (fun t e => tset 0 t (wkey e.layer e.out e.idx) e.val) c.masters)
  let opt := (pkgOf w 4).foldl (fun t e => tset 0 t (okey e.layer e.out e.idx e.word) e.val) c.opt
  let c1 : Committed := { c with masters := ms, opt := opt, target := codes }
  -- scales by R63 for layers given masters and no scales; codes by R64 for layers given masters and no codes
  let ss := (pkgOf w 1).map (fun e => ({ layer := e.layer, out := e.out, row := e.idx, lane := 0 } : Site))
  let scales1 := (ss.filter (fun s => decide (s.row % 64 = 0) && !pkgHas w s.layer 3)).foldl (fun t s =>
    tset 0 t s.block (weightScale (layerT a s.layer) (blockMasters ms s.layer s.out (s.row / 64) (rowsOf a s.layer))).1) scales
  let codes1 := (ss.filter (fun s => !pkgHas w s.layer 2)).foldl (fun t s =>
    tset 0 t s.key (siteCode a ms (tget 0 scales1 s.block) (some (codeAt a c.prog s.layer s.out s.row)) s).1) codes
  ({ c1 with target := codes1 }, scales1)

/-- Counts of forming codes from masters, on the die of each leaf. -/
def codeTally (a : Container) (c : Committed) (scales : Tab Byte) (ss : List Site) : List (Nat × Tally) :=
  ss.map (fun s => (s.layer, (siteCode a c.masters (tget 0 scales s.block) (some (codeAt a c.prog s.layer s.out s.row)) s).2))

/-- The layers a package touches. -/
def pkgLayers (w : WPackage) : List Nat := (w.sections.map (fun s => s.layer)).eraseDups

/-- The weights on a leaf under the variant in force. -/
def Dev.sitesOf (m : Dev) (p : Pid) (a : Container) (r : DieId × Nat × LeafId) : List Site :=
  (m.die r.1).leafSites a (m.part p).variant r.1.val r.2.1 r.2.2.val

/-- Recompute epacts, each layer's exponent once, and tables for the weights of some leaves. -/
def Dev.recordLeaves (m : Dev) (p : Pid) (ls : List (DieId × Nat × LeafId)) : Dev :=
  match (m.part p).almanac with
  | some a =>
    let ss := ls.flatMap (m.sitesOf p a)
    let m1 := (m.modCom p (reEpact a ss)).refixEpacts p (m.layerDie p a) (siteLayers ss)
    ls.foldl (fun n r => n.rebuildTables p r.1 (siteBlocks (n.sitesOf p a r))) m1
  | none => m

/-- Scales that forming a package's scales saturates (R63, R72), by layer, for the weights of a leaf. -/
def scaleTally (a : Container) (w : WPackage) (ms : Tab Word) (ss : List Site) : List (Nat × Tally) :=
  (ss.filter (fun s => decide (s.row % 64 = 0) && pkgHas w s.layer 1 && !pkgHas w s.layer 3)).map (fun s =>
    (s.layer, Tally.one (weightScale (layerT a s.layer) (blockMasters ms s.layer s.out (s.row / 64) (rowsOf a s.layer))).2 false false))

/-- WEIGHT_LOAD's commit (R401). -/
def Dev.loadWeights (m : Dev) (p : Pid) (a : Container) (w : WPackage) : Dev :=
  let f := formWeights a w (m.part p).com
  let m1 := m.modPart p (fun x => { x with com := f.1, pkgDigests := x.pkgDigests ++ [w.digest] })
  let ls := m1.layerLeaves p (fun l => (pkgLayers w).contains l)
  let m2 := ls.foldl (fun n r =>
    let ss := n.sitesOf p a r
    let made := codeTally a f.1 f.2 (ss.filter (fun s => pkgHas w s.layer 1 && !pkgHas w s.layer 2))
    (scaleTally a w f.1.masters ss ++ made).foldl (fun n t => n.countTally r.1 p t.1 4 t.2) n) m1
  let m3 := ((m2.recordLeaves p ls).fixMasters p).modCom p (digestLoad a)
  ls.foldl (fun n r => n.programHeld p r.1 r.2.1 r.2.2 true f.2) m3

/-! ### LEAF_PROGRAM -/

/-- The layers a LEAF_PROGRAM names. -/
def programRange (h : Held) (l : Nat) : Bool := decide (dopnd h.desc 0 2 ≤ l) && decide (l < dopnd h.desc 0 2 + dopnd h.desc 2 2)

/-- A LEAF_PROGRAM in execution completes at its last leaf's record (R292). -/
def Dev.settleLeafProgram (m : Dev) (p : Pid) : Dev :=
  (m.setsOf p).foldl (fun n k => match (n.ring k).head with
    | some h =>
      if h.st = .executing && h.desc.opcode = 0x04#8
          && !(n.layerLeaves p (programRange h)).any (fun r => (n.leafAt r).prog.isSome && (n.leafAt r).progDesc)
      then n.completeOk k else n
    | none => n) m

/-! ### Checkpoints (R349, R350) -/

/-- The bound checkpoint buffer a descriptor names, its OFFSET inside it. -/
def Part.ckptBuf (x : Part) (h : Held) : Option Buf :=
  x.bufs.find? (fun b => b.kind = 1 && b.index = dopnd h.desc 0 1 && decide (dopnd h.desc 1 8 < b.len.toNat))

/-- Step 1 of a restore, with BASE_SET as R371 asks. -/
def imageOk (a : Container) (i : Image) : Bool :=
  decide (i.magic = magicCheckpoint) && decide (i.format = 1) && decide (i.valid = 0x5A5A#16) && i.digestOk
    && decide (i.almanacId = a.almanacId) && decide (i.baseSet = a.baseSet)

/-- A tracker's row of the image: entry `idx` of the history. -/
def putHist (t : Tab Tracker) (e : WEntry) : Tab Tracker :=
  tmod Tracker.reset t e.layer (fun tr =>
    { tr with hist := ((tr.hist ++ List.replicate (16 - tr.hist.length) 0#32).take 16).set e.idx e.val })

/-- Step 2: the image as the committed state. -/
def restoreCom (i : Image) (c : Committed) : Committed :=
  { c with
    masters := tsetAll 0 [] (i.masters.map (fun e => (wkey e.layer e.out e.idx, e.val)))
    opt := tsetAll 0 [] (i.optimiser.map (fun e => (okey e.layer e.out e.idx e.word, e.val)))
    epacts := tsetAll 0 [] (i.epacts.map (fun e => (wkey e.layer e.out e.idx, e.val)))
    target := tsetAll 0 [] (i.targets.map (fun e => (wkey e.layer e.out e.idx, ofTw8 (e.val.setWidth 8))))
    scales := tsetAll 0 [] (i.scales.map (fun e => (bkey e.layer e.out e.idx, e.val.setWidth 8)))
    accum := tsetAll 0 [] (i.accum.map (fun e => (wkey e.layer e.out e.idx, e.val)))
    trackers := i.history.foldl putHist []
    histValid := i.histValid
    stepsLeft := i.stepsLeft
    fallback := []
    fbClean := []
    cleanRun := 0
    steps := i.step }

/-- CHECKPOINT_RESTORE's commit. -/
def Dev.restoreImage (m : Dev) (p : Pid) (a : Container) (i : Image) : Dev :=
  let m1 := m.modCom p (restoreCom i)
  let ls := m1.layerLeaves p (fun _ => true)
  let m2 := ((m1.recordLeaves p ls).fixMasters p).modCom p (digestLoad a)
  let c := (m2.part p).com
  let differs (r : DieId × Nat × LeafId) : Bool :=
    ((m2.die r.1).leafSites a (m2.part p).variant r.1.val r.2.1 r.2.2.val).any (fun s =>
      decide (codeAt a c.target s.layer s.out s.row ≠ codeAt a c.prog s.layer s.out s.row))
  (ls.filter differs).foldl (fun n r => n.programHeld p r.1 r.2.1 r.2.2 false c.scales) m2

end Sys2Proof.Machine
end

