-- ==== Sys2Proof/Machine/Windows.lean ====
section
/-! DEFINITION. Intercalary windows: what a window admits (R133, R152 to R155, R161), its trains (R156, R168, R171, R173), and its close:
the record, corrections, remaps, retirements and wear (R133 to R138, R157, R163 to R165, R190 to R199). -/

namespace Sys2Proof.Machine

/-! ### Reaching a weight or a column -/

/-- The partition that owns a leaf and its almanac. -/
def Dev.leafJob (m : Dev) (d : DieId) (t : Nat) (l : LeafId) : Option (Pid × Container) :=
  match m.owner (resLeaf d t l.val) with
  | some p => (m.part p).almanac.map (fun a => (p, a))
  | none => none

/-- The run of the placement that covers a lane of a leaf in a row. -/
def Dev.runAt (m : Dev) (d : DieId) (t : Nat) (l : LeafId) (row lane : Nat) : Option (Pid × Container × PlaceEntry) :=
  match m.leafJob d t l with
  | some (p, a) => (((m.die d).leafRuns a (m.part p).variant d.val t l.val).find? (fun e =>
      decide (e.laneFirst ≤ lane ∧ lane < e.laneFirst + e.outCount ∧ row < e.rows))).map (fun e => (p, a, e))
  | none => none

/-- The weight at a lane and row of a leaf. -/
def Dev.siteAt (m : Dev) (d : DieId) (t : Nat) (l : LeafId) (row lane : Nat) : Option Site :=
  (m.runAt d t l row lane).map (fun r =>
    { layer := r.2.2.layer, out := r.2.2.outFirst + (lane - r.2.2.laneFirst), row := row, lane := lane })

/-- The layers with a weight in a row of a leaf. -/
def Dev.rowLayers (m : Dev) (d : DieId) (t : Nat) (l : LeafId) (row : Nat) : List Nat := match m.leafJob d t l with
  | some (p, a) => ((((m.die d).leafRuns a (m.part p).variant d.val t l.val).filter (fun e => decide (row < e.rows))).map
      (fun e => e.layer)).eraseDups
  | none => []

/-- The level a weight column's cell holds: the trit of its weight's programmed code, or of the code whole-leaf programming has
already written there; middle where no weight lies (R103, R104). -/
def Dev.colLevel (m : Dev) (d : DieId) (t : Nat) (l : LeafId) (row col : Nat) : Int :=
  let f := (m.die d).leaf t l
  match m.leafJob d t l with
  | some (p, a) =>
    (((m.die d).leafRuns a (m.part p).variant d.val t l.val).filterMap (fun e => match a.layerTab[e.layer]? with
      | some le =>
        let w := max (footprint le) 1
        let lane := col / w
        if e.laneFirst ≤ lane ∧ lane < e.laneFirst + e.outCount ∧ row < e.rows then
          let written := match f.prog with
            | some n => decide (n ≤ 256 ∧ row < n)
            | none => false
          let code := codeAt a (if written then f.progCodes else (m.part p).com.prog) e.layer (e.outFirst + (lane - e.laneFirst)) row
          let j := (List.range le.t).find? (fun j => decide (tritOffset le j ≤ col % w ∧ col % w < tritOffset le j + colCount le j))
          j.map (fun j => (trits le.t code).getD j 0)
        else none
      | none => none)).headD 0
  | none => 0

/-- The layer and lane whose weights a column of a leaf holds in a row. -/
def Dev.laneAt (m : Dev) (d : DieId) (t : Nat) (l : LeafId) (row col : Nat) : Option (Nat × Nat) := match m.leafJob d t l with
  | some (p, a) =>
    ((((m.die d).leafRuns a (m.part p).variant d.val t l.val).filterMap (fun e => (a.layerTab[e.layer]?).bind (fun le =>
      let lane := col / max (footprint le) 1
      if e.laneFirst ≤ lane ∧ lane < e.laneFirst + e.outCount ∧ row < e.rows then some (e.layer, lane) else none)))).head?
  | none => none

/-- An event of a tile or leaf, for the partition that owns the leaf. -/
def Dev.raiseLeaf (m : Dev) (d : DieId) (t : Nat) (l : LeafId) (c : Ev) (layer : Option Nat) : Dev :=
  m.raise (some d) { evUnit c d 1 t l.val with part := (m.owner (resLeaf d t l.val)).map (fun p => p.val), layer := layer }
def Dev.raiseTile (m : Dev) (d : DieId) (t : Nat) (c : Ev) : Dev :=
  m.raise (some d) { evUnit c d 1 t 0 with part := (m.owner (resTile d t)).map (fun p => p.val) }

/-- Add to a write counter of each layer listed, for the leaf's owner (R175). -/
def Dev.countWr (m : Dev) (d : DieId) (t : Nat) (l : LeafId) (kind : Nat) (ls : List Nat) (n : Nat) : Dev :=
  match m.owner (resLeaf d t l.val) with
  | some p => ls.foldl (fun m y => m.count d (.wr p y kind) n) m
  | none => m

/-! ### Trains (R154) -/

/-- Levels each trit of an entry's weight moves by. -/
def QEntry.diffs (e : QEntry) : List Int := List.zipWith (· - ·) (trits 5 (ofTw8 e.target)) (trits 5 (ofTw8 e.prev))
/-- The most trains one of its cells receives. -/
def QEntry.moves (e : QEntry) : Nat := (e.diffs.map Int.natAbs).foldl max 0

/-- How many of U1, U2, D1 and D2 a group has. -/
def groupTrains (es : List QEntry) : Nat :=
  let ds := es.flatMap QEntry.diffs
  (ds.any (fun x => decide (1 ≤ x))).toNat + (ds.any (fun x => decide (2 ≤ x))).toNat
    + (ds.any (fun x => decide (x ≤ -1))).toNat + (ds.any (fun x => decide (x ≤ -2))).toNat

def inGroup (g : LeafId × Nat) (e : QEntry) : Bool := decide (e.leaf = g.1) && decide (e.row = g.2)

/-- Groups of a queue in the order of their heads (R155). -/
def groupsOf (q : List QEntry) : List (LeafId × Nat) := (q.map (fun e => (e.leaf, e.row))).eraseDups

/-- A row and output lane's wear count, which saturates (R164). -/
def Leaf.addWear (f : Leaf) (row lane n : Nat) : Leaf :=
  { f with wear := tmod f.wearBase f.wear (row * 128 + lane) (fun w => BitVec.ofNat 24 (min (w.toNat + n) 0xFFFFFF)) }
/-- The leaf-wide count; at its largest value it stays there (DESIGN CHOICE, log entry 106). -/
def Leaf.addLeafWear (f : Leaf) (n : Nat) : Leaf := { f with leafWear := satAdd32 f.leafWear n }

/-! ### Spare columns (R133, R135, R138) -/

/-- The lowest-numbered spare column neither used, retired nor being programmed. -/
def Tile.freeSpare (y : Tile) : Option Nat :=
  (List.range 96).find? (fun n => decide (tget 0xFFFF#16 y.spareMap n = 0xFFFF#16) && !y.remaps.any (fun r => r.spare = n))
/-- Spare columns in use, a retired one counted too (DESIGN CHOICE, log entry 105), and those free. -/
def Tile.spareUsed (y : Tile) : Nat := (y.spareMap.filter (fun e => decide (e.2 ≠ 0xFFFF#16))).length
def Tile.spareLeft (y : Tile) : Nat := 96 - y.spareUsed

/-- Remap a weight column to the lowest free spare; with none free the tile is to be retired (R133, R135). -/
def Tile.remapCol (y : Tile) (c : Nat) : Tile :=
  match y.freeSpare with
  | some n => { y with remaps := y.remaps ++ [{ col := c, spare := n, retry := false }],
                       st := if y.st = .analog then .remapPending else y.st }
  | none => { y with retireDue := true }

/-- Retire a column: a weight column is remapped; a spare is retired, and the column it stood for, or was being programmed for, is
remapped again. -/
def Tile.failColumn (y : Tile) (col : Nat) : Tile :=
  if col < 1024 then
    if y.remaps.any (fun r => r.col = col) || y.spareMap.any (fun e => e.2.toNat = col) then y else y.remapCol col
  else
    let n := col - 1024
    let old := tget 0xFFFF#16 y.spareMap n
    let bad : Tile := { y with spareMap := tset 0xFFFF#16 y.spareMap n 0xFFFE#16 }
    if old = 0xFFFE#16 then y
    else if old ≠ 0xFFFF#16 then bad.remapCol old.toNat
    else match y.remaps.find? (fun r => r.spare = n) with
      | some r => ({ bad with remaps := y.remaps.filter (fun r => r.spare ≠ n) } : Tile).remapCol r.col
      | none => bad

/-- A record of the calibration store falls due to be written (R200). -/
def Die.recordDue (x : Die) (k : StoreKind) (t l : Nat) : Die := { x with storeDue := (x.storeDue ++ [(k, t, l)]).eraseDups }

/-- A column found bad by program-verify or calibration is retired (R133): EV-CLV-01 where it is to be remapped, and the TILE record is due. -/
def Dev.failCol (m : Dev) (d : DieId) (t col : Nat) : Dev :=
  let y := (m.die d).tile t
  let z := y.failColumn col
  let m1 := m.modDie d (fun x => (x.modTile t (fun y => y.failColumn col)).recordDue .tile t 0)
  if z.remaps.any (fun r => !y.remaps.contains r) then m1.raiseTile d t (.clv 1) else m1

/-- The leaves whose cell of a remap's spare column must still move in a row, with how many levels. -/
def Dev.remapNeeds (m : Dev) (d : DieId) (t : Nat) (r : Remap) (row : Nat) : List (LeafId × Nat) :=
  leafIds.filterMap (fun l =>
    let n := (m.colLevel d t l row r.col - tget 0 ((m.die d).leaf t l).cells (row * 1152 + 1024 + r.spare)).natAbs
    if n = 0 then none else some (l, n))

def Dev.remapRowsLeft (m : Dev) (d : DieId) (t : Nat) (r : Remap) : List Nat :=
  (List.range 256).filter (fun row => !(m.remapNeeds d t r row).isEmpty)

/-! ### Admission at window open (R155, R133) -/

/-- Reserve twice the trains at the 1.0 µs maximum and 40 ns for a change of leaf; in ns, on top of `n`. -/
def reserve (n trains : Nat) (changes : Nat) : Nat := n + 2 * 1000 * trains + 40 * changes

/-- Groups in queue order until the first that would end after 19.0 µs. -/
def admitGroups (q : List QEntry) : List (LeafId × Nat) → Nat → LeafId → List (LeafId × Nat)
  | [], _, _ => []
  | g :: gs, n, l =>
    let k := reserve n (groupTrains (q.filter (inGroup g))) (if g.1 = l then 0 else 1)
    if k ≤ 19000 then g :: admitGroups q gs k g.1 else []

/-- How many leaf changes a walk over leaves needs from `l`, and where it ends. -/
def leafChanges : LeafId → List LeafId → Nat × LeafId
  | l, [] => (0, l)
  | l, k :: ks => let r := leafChanges k ks; (r.1 + (if k = l then 0 else 1), r.2)

/-- Remap rows in ascending order, likewise. -/
def Dev.admitRows (m : Dev) (d : DieId) (t : Nat) (r : Remap) : List Nat → Nat → LeafId → List Nat
  | [], _, _ => []
  | row :: rows, n, l =>
    let ns := m.remapNeeds d t r row
    let c := leafChanges l (ns.map (fun x => x.1))
    let k := reserve n ((ns.map (fun x => x.2)).foldl (· + ·) 0) c.1
    if k ≤ 19000 then row :: m.admitRows d t r rows k c.2 else []

/-- A tile whose open window writes. -/
def Tile.writing (y : Tile) : Bool := match y.win with
  | some w => w.writes || w.reconciling
  | none => false

/-- Whether a window may open: the die's analog side works, no window is open, the tile is not retired, not out for test (R160, R365),
and its owner is not in an interruption, and no power-state entry holds windows (R422). -/
def Dev.mayOpen (m : Dev) (d : DieId) (t : Nat) : Bool :=
  let x := m.die d
  let y := x.tile t
  m.inService d && x.analog && !x.warmup && (x.awake || decide (m.power.st ≠ .vigil)) && y.win.isNone && decide (x.rot.tile ≠ some t)
    && decide (y.st ≠ .retiredSpare) && decide (y.st ≠ .retiredNone) && !m.holdsWindows
    && match m.owner (resTile d t) with
      | some p => (m.part p).intr.isNone
      | none => true

/-- Whether something of the tile wants writing: reconciliation, a remap, a queued change, a refresh, programming or a scrub. -/
def Tile.hasWork (y : Tile) : Bool :=
  y.reconcile.isSome || !y.remaps.isEmpty || !y.queue.isEmpty
    || y.leaves.any (fun e => e.2.refresh.isSome || e.2.prog.isSome || e.2.scrub)

/-- The entries of an interrupted window that its cells show at w_t (R158). -/
def foundAt (found : List (LeafId × Nat × Nat × Option Int)) (e : QEntry) : Bool :=
  found.any (fun r => decide (r.1 = e.leaf) && decide (r.2.1 = e.row) && decide (r.2.2.1 = e.lane) && decide (r.2.2.2 = some (ofTw8 e.target)))

/-- Whether a tile's window may write (R171): WR_TILES_MAX tiles of the die at once, the tiles that wait served in ascending index. -/
def Die.mayWrite (x : Die) (t : Nat) : Bool :=
  (x.tile t).hasWork && decide ((x.tiles.filter (fun e => e.2.writing)).length
    + (x.tiles.filter (fun e => e.2.waiting && e.2.hasWork && decide (e.1 < t))).length < bits (x.reg clvWrCfg) 28 16)

/-- A read phase of a tile in strobes, of its hold strobe's choice (R112); outside the range of R31 the analog limit alone. -/
def Die.phaseLen (x : Die) (cap : Nat) (strobe5 : Bool) (t : Nat) : Nat := match rateScale x.vddMv (x.tempAt t) with
  | some sc => phaseStrobes strobe5 cap sc
  | none => if strobe5 then 9 else 8

/-- A pipeline converter's diagnostic conversion runs in the next window of its tile that opens (R206). -/
def Die.diagWindow (x : Die) (t : Nat) (opens : Bool) : Die :=
  if x.diag.pending && decide (bits x.diag.tgt 21 13 ≠ 144) && decide (bits x.diag.tgt 12 0 = t) then
    { x with diag := { x.diag with inWindow := opens } } else x

/-- What a reference read finds, with the sensor nearest the tile (R194, R198). -/
def refSet (y : Tile) (t16 : Int) (r : RefRead) : RefSet :=
  let x := refTrack y t16 r
  let bad := x.unhealthy y.refBad
  { leaf := r.leaf, vals := x.values (bad.foldl (fun w n => w ||| (1#32 <<< n)) y.refBad), tcal := tempCode x.meanTemp,
    bad := bad.map (1120 + ·) }

/-- What a column's calibration finds. -/
def colSet (y : Tile) (c : ColCal) : ColSet :=
  let v := colCodes y (y.leaf c.leaf) c
  { leaf := c.leaf, col := c.col, gain := v.1, off := v.2 }

/-- Open a window (R152): due reference reads and reconciliation first, then remap rows or queued groups are admitted; queued changes
wait while a remap is pending. A scrub takes every other window (R161), but a tile's first window after a fault reconciles it (R158). A
reconciled group takes its own reservation's most, 8.04 µs (log entry 19). -/
def Dev.openWindow (m : Dev) (d : DieId) (t : Nat) (kind : WinKind) (reads : WindowReads) : Dev :=
  if !m.mayOpen d t then m
  else
    let x := m.die d
    let y := x.tile t
    let scrubbing := y.leaves.any (fun e => e.2.scrub)
    let rec_ := y.reconcile.isSome
    let scrub := scrubbing && y.scrubTurn && !rec_
    let writes := x.mayWrite t
    let refs := reads.refReads.filter (fun r => (y.leaf r.leaf).placed && (y.leaf r.leaf).runDue && refWhole r)
    let cols := reads.colCals.filter (fun c => (y.leaf c.leaf).colCalDue && calWhole c && decide (c.col < 1120))
    let strobe := if refs.isEmpty then y.hold5 else holdChoice (x.tempAt t) y.hold5
    let n0 := refs.length * (180 * x.phaseLen (m.effCap d) strobe t)
    let es := y.reconcile.getD []
    let kept := y.queue.filter (fun e => es.any (fun f => f.leaf = e.leaf && f.row = e.row && f.lane = e.lane))
    let done := kept.filter (foundAt reads.found)
    let n1 := n0 + (groupsOf es).length * 8040
    let rows := match y.remaps with
      | r :: _ => if writes && !scrub then m.admitRows d t r (m.remapRowsLeft d t r) n1 y.activeLeaf else []
      | [] => []
    let q := y.queue.filter (fun e => !done.contains e)
    let groups := if writes && !scrub && y.remaps.isEmpty then admitGroups q (groupsOf q) n1 y.activeLeaf else []
    let w : Window :=
      { kind := kind, admitted := groups, groups := groups, remapRows := rows, writes := writes, scrub := scrub, rowDone := false,
        reconciling := rec_, done := done, refReads := refs.map (refSet y (x.tempAt t)), colCals := cols.map (colSet y),
        trk := leafIds.filterMap (fun l => (y.leaf l).ready.map (fun c => (l, c))), convs := y.convNext, refs := y.refPend }
    let y1 := es.foldl (fun y e => y.modLeaf e.leaf (fun f => f.addWear e.row e.lane 4)) y
    let y2 := leafIds.foldl (fun y l => y.modLeaf l (fun f => { f with ready := none })) y1
    (m.modDie d (fun x => (((x.modTile t (fun _ =>
      { y2 with win := some w, convNext := [], refPend := 0, hold5 := strobe, waiting := y.hasWork && !writes,
                scrubTurn := if scrubbing && !rec_ then !y.scrubTurn else y.scrubTurn && scrubbing })).diagWindow t true).phases (m.effCap d) m.free strobe t
        (refs.length * refPhases)).count .clip (readClips refs cols))).drawn 1

/-! ### Trains -/

/-- A verify failure of a column: EV-CLV-06, or EV-CLV-07 with the column retired where it is the second in a row or a restore
failed (R156). -/
def Dev.verifyFail (m : Dev) (d : DieId) (t : Nat) (l : LeafId) (col : Nat) (again : Bool) (layer : Option Nat) : Dev :=
  let m1 := (m.countWr d t l 2 layer.toList 1).raiseLeaf d t l (.clv 6) layer
  if again then (m1.raiseLeaf d t l (.clv 7) layer).failCol d t col else m1

/-- The trains of an admitted group end (R154 to R156). A weight that failed is returned to its w_p levels and keeps its entry with
RETRY set; the others are done. A failed weight counts the trains of both ways, and the TRAINS counter of each layer with an entry takes all of
the group's (DESIGN CHOICE, log entry 106). -/
def Dev.trainGroup (m : Dev) (d : DieId) (t : Nat) (w : Window) (l : LeafId) (row trains : Nat) (fails : List VerifyFail) : Dev :=
  let es := ((m.die d).tile t).queue.filter (fun e => inGroup (l, row) e && !w.done.contains e)
  let failsOf (e : QEntry) := fails.filter (fun f => f.lane = e.lane)
  let after (e : QEntry) : QEntry := { e with retry := !(failsOf e).isEmpty, failCols := (failsOf e).map (fun f => f.col) }
  let layerOf (e : QEntry) := (m.siteAt d t l row e.lane).map (fun s => s.layer)
  let m1 := m.countWr d t l 0 (es.filterMap layerOf).eraseDups trains
  let m2 := m1.modDie d (fun x => x.modTile t (fun y =>
    let y1 : Tile := { y with
      activeLeaf := l
      queue := y.queue.map (fun e => if es.contains e then after e else e)
      win := some { w with groups := w.groups.filter (fun g => g ≠ (l, row)),
                           done := w.done ++ (es.filter (fun e => (failsOf e).isEmpty)).map after } }
    es.foldl (fun y e => y.modLeaf l (fun f => f.addWear row e.lane (if (failsOf e).isEmpty then e.moves else 2 * e.moves))) y1))
  es.foldl (fun n e => (failsOf e).foldl (fun n f =>
    n.verifyFail d t l f.col (f.restoreFail || (e.retry && e.failCols.contains f.col)) (layerOf e)) n) m2

/-- A remap row's trains end (R133): the spare's cells hold the retired column's levels, or the row is tried again; a second failure
retires the spare. Its trains count for the lane and layer the column serves on each leaf (log entry 106). -/
def Dev.trainRemap (m : Dev) (d : DieId) (t : Nat) (w : Window) (r : Remap) (row trains : Nat) (fails : List VerifyFail) : Dev :=
  let ns := m.remapNeeds d t r row
  let key := row * 1152 + 1024 + r.spare
  let m1 := ns.foldl (fun n x => n.countWr d t x.1 0 ((m.laneAt d t x.1 row r.col).map (fun q => q.1)).toList trains) m
  let m2 := m1.modDie d (fun x => x.modTile t (fun y =>
    ns.foldl (fun y n => y.modLeaf n.1 (fun f => match m.laneAt d t n.1 row r.col with
      | some q => f.addWear row q.2 n.2
      | none => f)) { y with activeLeaf := (ns.getLast?.map (fun n => n.1)).getD y.activeLeaf }))
  let rest := w.remapRows.filter (fun x => x ≠ row)
  if fails.isEmpty then
    m2.modDie d (fun x => x.modTile t (fun y =>
      let y1 : Tile := { y with win := some { w with remapRows := rest },
                                remaps := y.remaps.map (fun q => if q = r then { q with retry := false } else q) }
      ns.foldl (fun y n => y.modLeaf n.1 (fun f => { f with cells := tset 0 f.cells key (m.colLevel d t n.1 row r.col) })) y1))
  else
    let again := r.retry || fails.any (fun f => f.restoreFail)
    let m3 := m2.modDie d (fun x => x.modTile t (fun y =>
      { y with win := some { w with remapRows := [] },
               remaps := y.remaps.map (fun q => if q = r then { q with retry := true } else q) }))
    m3.verifyFail d t 0 (1024 + r.spare) again none

/-- A refresh's row is verified and its cells outside the band touched up (R168). -/
def Dev.trainTouch (m : Dev) (d : DieId) (t : Nat) (l : LeafId) (row trains : Nat) (lanes : List Nat) : Dev :=
  let ls := m.rowLayers d t l row
  let m1 := m.countWr d t l 0 ls trains
  let m2 := lanes.foldl (fun n k => n.countWr d t l 3 ((n.siteAt d t l row k).map (fun s => s.layer)).toList 1) m1
  m2.modDie d (fun x => (x.modTile t (fun y => { y with activeLeaf := l })).modLeaf t l (fun f =>
    let f1 := lanes.eraseDups.foldl (fun f k => f.addWear row k 1) f
    { f1 with refresh := some (row + 1), colCalDue := f.colCalDue || decide (row = 255),
              colNext := if row = 255 then [] else f.colNext }))

/-- The most trains a cell of a row receives in a whole-leaf programming: two where nothing was known to be there (log entry 22). -/
def Dev.rowMoves (m : Dev) (d : DieId) (t : Nat) (l : LeafId) (row : Nat) : Nat :=
  let f := (m.die d).leaf t l
  match m.leafJob d t l with
  | some (p, a) =>
    if f.blank then 2
    else (((((m.die d).leafSites a (m.part p).variant d.val t l.val).filter (fun s => decide (s.row = row)))).map (fun s =>
      ((List.zipWith (· - ·) (trits 5 (codeAt a f.progCodes s.layer s.out s.row)) (trits 5 (codeAt a (m.part p).com.prog s.layer s.out s.row))).map
        Int.natAbs).foldl max 0)).foldl max 0
  | none => 2

/-- A row's attempt counts for the leaf-wide count as far as it makes the row the most written (R164). -/
def Leaf.rowWear (n : Nat) (f : Leaf) : Leaf :=
  { f.addLeafWear (f.progRow + n - f.progMax) with progRow := f.progRow + n, progMax := max f.progMax (f.progRow + n) }

/-- A row of a whole-leaf programming ends (R171): verified, or tried again with its failed columns noted. -/
def Dev.trainRow (m : Dev) (d : DieId) (t : Nat) (w : Window) (l : LeafId) (row trains : Nat) (fails : List VerifyFail) : Dev :=
  let f := (m.die d).leaf t l
  let again (v : VerifyFail) : Bool := v.restoreFail || f.progFail.contains v.col
  let m1 := m.countWr d t l 0 (m.rowLayers d t l row) trains
  let left := (fails.filter (fun v => !again v)).map (fun v => v.col)
  let m2 := m1.modDie d (fun x => (x.modTile t (fun y => { y with activeLeaf := l, win := some { w with rowDone := true } })).modLeaf t l
    (fun f =>
      let g := f.rowWear (m.rowMoves d t l row)
      { g with prog := if left.isEmpty then some (row + 1) else some row, progFail := left, progRow := if left.isEmpty then 0 else g.progRow }))
  fails.foldl (fun n v => n.verifyFail d t l v.col (again v) ((n.siteAt d t l row v.lane).map (fun s => s.layer))) m2

/-- A sweep of a scrub ends (R173): every writable cell at the middle level; the leaf-wide count rises by 2, and the columns with a cell that
failed are noted. -/
def Dev.trainSweep (m : Dev) (d : DieId) (t : Nat) (l : LeafId) (fails : List VerifyFail) : Dev :=
  m.modDie d (fun x => (x.modTile t (fun y => { y with activeLeaf := l })).modLeaf t l (fun f =>
    { f.addLeafWear 2 with sweeps := f.sweeps + 1, cells := [], progFail := (fails.map (fun v => v.col)).eraseDups }))

/-- Whether a leaf's scrub needs a sweep: the first, or a second where cells failed (R173). -/
def Leaf.sweepDue (f : Leaf) (second : Bool) : Bool :=
  f.scrub && decide (f.sweeps = (if second then 1 else 0)) && (!second || !f.progFail.isEmpty)

/-- WRITE_TRAIN_COMPLETE: the train must be one the open window runs, in the order of R161. -/
def execWriteTrainComplete (d : DieId) (t : TileId) (work : TrainWork) (trains : Nat) (fails : List VerifyFail) (s : State) : Res :=
  s.go fun m =>
    let y := (m.die d).tile t.val
    match y.win with
    | none => m
    | some w =>
      let idle := w.groups.isEmpty && w.remapRows.isEmpty && y.remaps.isEmpty && w.writes && !w.scrub
      if !m.inService d then m
      else match work with
      | .group l row => if w.groups.contains (l, row) then m.trainGroup d t.val w l row trains fails else m
      | .remap row => match y.remaps with
        | r :: _ => if w.remapRows.head? = some row then m.trainRemap d t.val w r row trains fails else m
        | [] => m
      | .touchUp l row lanes =>
        if idle && (y.leaf l).refresh = some row && decide (row < 256) then m.trainTouch d t.val l row trains lanes else m
      | .programRow l row =>
        if idle && !w.rowDone && (y.leaf l).prog = some row && decide (row < 256)
            && !y.leaves.any (fun e => e.2.refresh.any (fun r => decide (r < 256)))
        then m.trainRow d t.val w l row trains fails else m
      | .scrubSweep l second =>
        if w.writes && w.scrub && (y.leaf l).sweepDue second then m.trainSweep d t.val l fails else m

/-! ### The window record (R157) -/

/-- The done entries of one leaf: w_p becomes TARGET, the entries go, epacts and tables follow. -/
def Dev.recordLeaf (m : Dev) (d : DieId) (t : Nat) (w : Window) (l : LeafId) : Dev :=
  let es := w.done.filter (fun e => e.leaf = l)
  if es.isEmpty then m
  else
    let m1 := m.modDie d (fun x => x.modTile t (fun y => { y with queue := y.queue.filter (fun e => !es.contains e), freed := true }))
    match m.leafJob d t l with
    | some (p, _) =>
      let ss := es.filterMap (fun e => (m.siteAt d t l e.row e.lane).map (fun s => (s, ofTw8 e.target)))
      (m1.modCom p (fun c => { c with prog := tsetAll 0 c.prog (ss.map (fun s => (s.1.key, s.2))) })).recordSites p d (ss.map (fun s => s.1))
    | none => m1

/-! ### Corrections taking effect (R190 to R199) -/

/-- κ after two K values (R195): their slope −ΔK / (K ΔT) in 0.001 % per °C, taken when within 50 to 300; an eighth of the way there. The
slope is relative to the earlier K, and κ is rounded to nearest with ties to even (DESIGN CHOICE, log entry 107). -/
def kappaStep (kappa : BitVec 12) (k1 k2 : BitVec 16) (t1 t2 : BitVec 12) : BitVec 12 :=
  let dt := t2.toInt - t1.toInt
  let num := (k1.toInt - k2.toInt) * 1600000 * dt.sign
  let den := (131072 + k1.toInt) * dt.natAbs
  if 50 * den ≤ num ∧ num ≤ 300 * den then BitVec.ofInt 12 (rnear (7 * kappa.toInt * den + num, (8 * den).toNat)) else kappa

/-- A leaf's K value against the last one kept: the κ that follows, and which of the two is kept for the next (log entry 20). -/
def Leaf.learn (f : Leaf) (now : Dbl) (k : BitVec 16) (tcal : BitVec 12) : Leaf :=
  match f.lastK with
  | none => { f with lastK := some (k, tcal, now) }
  | some (k1, t1, at1) =>
    if now - at1 > 3600000000000#64 then { f with lastK := some (k, tcal, now) }
    else if 32 ≤ (tcal.toInt - t1.toInt).natAbs then
      { f with lastK := some (k, tcal, now), cal := { f.cal with kappa := kappaStep f.cal.kappa k1 k t1 tcal } }
    else f

/-- A reference read's set takes effect (R194, R196); a read that gave none leaves the leaf's. -/
def Leaf.applyRead (now : Dbl) (temp : Int) (r : RefSet) (f : Leaf) : Leaf := match r.vals with
  | some v =>
    let g := f.learn now v.1 r.tcal
    { g with cal := { g.cal with k := v.1, z := v.2, tcal := r.tcal, tw := tempCode temp }, setAt := now, newAt := now, runDue := false }
  | none => { f with runDue := false }

/-- A tracking set takes effect (R192). -/
def Leaf.applyTrack (now : Dbl) (temp : Int) (c : LeafCal) (f : Leaf) : Leaf :=
  let g := f.learn now c.k c.tcal
  { g with cal := { g.cal with k := c.k, z := c.z, tcal := c.tcal, tw := tempCode temp }, setAt := now }

/-- Bits of a word at the places listed. -/
def bitsAt (w : Word) (lo n : Nat) : Nat := ((List.range n).filter (fun i => w.getLsbD (lo + i))).length

/-- Fewer than `least` healthy columns in the high, middle or low class (R135, R103). -/
def refTooFew (least : Nat) (bad : Word) : Bool := [0, 10, 20].any (fun lo => decide (10 - bitsAt bad lo 10 < least))

/-- A word with the reference columns listed (1,120 + n) set. -/
def refWord (cols : List Nat) : Word := cols.foldl (fun w c => if c < 1120 then w else w ||| (1#32 <<< (c - 1120))) 0#32

/-- The columns of a leaf that a window's calibration reads found so far; with all 1,120 the calibration is done, takes effect, and ends a
refresh (R194, R197, R199). -/
def Leaf.applyCols (now : Dbl) (temp : Int) (cs : List ColSet) (f : Leaf) : Leaf :=
  let next := tsetAll none f.colNext (cs.map (fun c => (c.col, some c)))
  let sets := next.filterMap (fun e => e.2)
  if !f.colCalDue || cs.isEmpty then f
  else if !(List.range 1120).all (fun c => next.any (fun e => decide (e.1 = c))) then { f with colNext := next }
  else
    let done := decide (f.refresh = some 256)
    { f with colG := tsetAll 0 f.colG (fillGains (sets.map (fun c => (c.col, c.gain)))), colO := tsetAll 0 f.colO (sets.map (fun c => (c.col, c.off))),
             colCalDue := false, colNext := [],
             refresh := if done then none else f.refresh, overdue := f.overdue && !done,
             lastFresh := if done then now else f.lastFresh, hottest := if done then temp else f.hottest }

/-- The corrections a window brings or waited for take effect on its tile; a frozen leaf's T_w follows the sensor at every close
(R196). -/
def Tile.applyWindow (now : Dbl) (temp : Int) (least : Nat) (w : Window) (y : Tile) : Tile :=
  let y1 := w.trk.foldl (fun y r => y.modLeaf r.1 (Leaf.applyTrack now temp r.2)) y
  let y2 := w.refReads.foldl (fun y r => y.modLeaf r.leaf (Leaf.applyRead now temp r)) y1
  let y3 := leafIds.foldl (fun y l => y.modLeaf l (fun f =>
    let g := if f.placed && f.frozen then { f with cal := { f.cal with tw := tempCode temp } } else f
    g.applyCols now temp (w.colCals.filter (fun c => c.leaf = l)))) y2
  let bad := y3.refBad ||| w.refs ||| refWord (w.refReads.flatMap (fun r => r.bad))
  { y3 with convO := tsetAll 0 y3.convO (w.convs.map (fun c => (c.1, c.2.1))),
            convG := tsetAll 0 y3.convG (w.convs.map (fun c => (c.1, c.2.2))),
            refBad := bad, retireDue := y3.retireDue || refTooFew least bad }

/-- The columns to be retired after a window's corrections (R133, R173, R188): those whose input path lies outside its bounds, where the
window brought a column converter's correction or ended a leaf's column calibration, and those that a scrub found failing. -/
def colsToFail (old new : Tile) (w : Window) : List Nat :=
  let conv := (w.convs.map (fun c => c.1)).filter (fun c => decide (c < 1120))
  let done := leafIds.filter (fun l => (old.leaf l).colCalDue && !(new.leaf l).colCalDue)
  new.failPend
    ++ conv.filter (fun c => leafIds.any (fun l => new.pathOutside (new.leaf l) c))
    ++ (List.range 1120).filter (fun c => done.any (fun l => new.pathOutside (new.leaf l) c))

/-- The records that a window's corrections make due (R197, R198, R200): COL, TRK of a frozen leaf's run or a changed κ, and TILE. -/
def recordsDue (old new : Tile) (t : Nat) (w : Window) : List (StoreKind × Nat × Nat) :=
  leafIds.flatMap (fun l =>
    let f := old.leaf l
    let g := new.leaf l
    (if f.colCalDue && !g.colCalDue then [(.col, t, l.val)] else [])
      ++ (if (g.frozen && w.refReads.any (fun r => r.leaf = l)) || decide (f.cal.kappa ≠ g.cal.kappa) then [(.trk, t, l.val)] else []))
    ++ (if old.refBad = new.refBad then [] else [(.tile, t, 0)])

/-- EV-CAL-04 for each reference column newly unhealthy in the window's reads (R198). -/
def Dev.raiseRefs (m : Dev) (d : DieId) (t : Nat) (w : Window) : Dev :=
  let bad := ((m.die d).tile t).refBad ||| w.refs
  w.refReads.foldl (fun n r => (r.bad.filter (fun c => !(bad.getLsbD (c - 1120)))).foldl (fun n _ => n.raiseLeaf d t r.leaf (.cal 4) none) n) m

/-! ### Remaps and retirement at a close (R133 to R138) -/

/-- Remaps whose every row holds its levels take effect, and EV-CLV-04 is raised once when free spares fall below SPARE_LOW. -/
def Dev.settleRemaps (m : Dev) (d : DieId) (t : Nat) : Dev :=
  let y := (m.die d).tile t
  let ready := y.remaps.filter (fun r => (m.remapRowsLeft d t r).isEmpty)
  if ready.isEmpty then m
  else
    let m1 := m.modDie d (fun x => (x.modTile t (fun y =>
      let left := y.remaps.filter (fun r => !ready.contains r)
      { y with spareMap := ready.foldl (fun u r => tset 0xFFFF#16 u r.spare (BitVec.ofNat 16 r.col)) y.spareMap
               remaps := left
               st := if left.isEmpty && y.st = .remapPending then .analog else y.st })).recordDue .tile t 0)
    let z := (m1.die d).tile t
    if !z.lowRaised && decide (z.spareLeft < bits ((m1.die d).reg clvRetCfg) 15 8)
    then (m1.raiseTile d t (.clv 4)).modDie d (fun x => x.modTile t (fun y => { y with lowRaised := true })) else m1

/-- The leaf a spare takes over: what was placed there, its own cells and corrections, to be programmed anew (R136). -/
def Leaf.inherit (old own : Leaf) : Leaf :=
  { own with placed := old.placed, frozen := old.frozen, scrub := old.scrub, sweeps := 0, prog := old.prog.map (fun _ => 0),
             progDesc := old.progDesc, progCodes := old.progCodes, progScales := old.progScales, progFail := [], blank := true, track := Track.reset, trackDone := none, colNext := [],
             runDue := old.placed, offline := false, satWarned := old.satWarned, overdue := false, refresh := none, cells := [] }

/-- A tile taken out of service: nothing of it is written or read again. -/
def Tile.retired (y : Tile) (st : TileState) (link : BitVec 13) : Tile :=
  { y with st := st, link := link, queue := [], remaps := [], reconcile := none, retireDue := false, failPend := [], waiting := false,
           leaves := y.leaves.foldl (fun u e => tset Leaf.reset u e.1 { e.2 with scrub := false, refresh := none, prog := none, progDesc := false }) y.leaves }

/-- Give a spare the owners of the tile it replaces (R381). -/
def Dev.takeOwners (m : Dev) (d : DieId) (t n : Nat) : Dev :=
  let m1 := m.setOwner (resTile d n) (m.owner (resTile d t))
  leafIds.foldl (fun m l =>
    let k := resKey (resLeaf d t l.val)
    let j := resKey (resLeaf d n l.val)
    let m2 := m.setOwner (resLeaf d n l.val) (m.owner (resLeaf d t l.val))
    { m2 with binds := { m2.binds with leafSets := tset 0 m2.binds.leafSets j (tget 0 m2.binds.leafSets k) },
              flash := { m2.flash with leafBinds := tset 0 m2.flash.leafBinds j (tget 0 m2.flash.leafBinds k),
                                       leafSets := tset 0 m2.flash.leafSets j (tget 0 m2.flash.leafSets k) } }) m1

/-- Retire a tile that is due (R135 to R137): the lowest-numbered free spare is programmed with its target codes and its column map, or its
slice stays digital. A free spare with a fault of its own is only taken out, as it serves no slice (DESIGN CHOICE, log entry 121). -/
def Dev.settleRetire (m : Dev) (d : DieId) (t : Nat) : Dev :=
  let x := m.die d
  let y := x.tile t
  if !y.retireDue then m
  else
    let m0 := m.modDie d (fun x => x.recordDue .tile t 0)
    if y.st = .spareFree then m0.modDie d (fun x => x.modTile t (fun y => y.retired .retiredSpare 0x1FFF#13))
    else match (List.range 64).find? (fun i => (x.tile (4096 + i)).st = .spareFree && !(x.tile (4096 + i)).retireDue && decide (4096 + i ≠ t)) with
    | some i =>
      let n := 4096 + i
      let m1 := m0.takeOwners d t n
      let m2 := m1.modDie d (fun x => ((x.modTile t (fun y => y.retired .retiredSpare (BitVec.ofNat 13 n))).modTile n (fun z =>
        let z1 : Tile := { z with st := .programming, link := BitVec.ofNat 13 t, spareMap := y.spareMap, lowRaised := y.lowRaised }
        leafIds.foldl (fun z l => z.modLeaf l (fun own => Leaf.inherit (y.leaf l) own)) z1)).recordDue .tile n 0)
      let m3 := leafIds.foldl (fun m l => match m.owner (resLeaf d n l.val) with
        | some p => if (y.leaf l).placed && !(y.leaf l).blank && !(y.leaf l).prog.any (fun r => decide (r ≠ 257)) && !(y.leaf l).scrub
            then m.programHeld p d n l false (m.part p).com.scales else m
        | none => m) m2
      m3.raiseTile d t (.clv 2)
    | none => (m0.modDie d (fun x => x.modTile t (fun y => y.retired .retiredNone 0x1FFF#13))).raiseTile d t (.clv 3)

/-! ### The close -/

/-- The wear band of a count (R128, R142). -/
def bandOf (n : Nat) : Nat := if 10 * n ≤ enduranceBudget then 0 else if 2 * n ≤ enduranceBudget then 1 else if n ≤ enduranceBudget then 2 else 3

/-- What the status registers show of a tile (R143, R176). -/
def Tile.shownNow (y : Tile) : TileShown :=
  { st := y.st, band := y.band, spareUsed := y.spareUsed, refBad := bitsAt y.refBad 0 32, link := y.link, occupancy := y.queue.length,
    reconcile := y.reconcile.isSome, maxWear := y.maxWear }

def Die.showTile (x : Die) (t : Nat) : Die := x.modTile t (fun y => { y with shown := y.shownNow })

/-- A tile served digitally as a whole: an analog supply is out of range (R188), a sensor of the die is at 105 °C or more (R421), or
its nearest sensor reads below 0 °C or did within 10 ms (R128). -/
def Die.wantsDigital (x : Die) (t : Nat) : Bool :=
  let c := tget 0 x.coldAt (Config.nearestSensor t % 16)
  x.mon.supplyBad || x.hot || decide (x.tempAt t < 0) || (decide (c ≠ 0) && decide (x.dcnt + 1 - c < 10000000#64))

/-- A wear band that changed is EV-CLV-11 (R165). -/
def Dev.settleBand (m : Dev) (d : DieId) (t : Nat) : Dev :=
  let y := (m.die d).tile t
  let b := bandOf y.maxWear.toNat
  if b = y.band then m
  else (m.modDie d (fun x => x.modTile t (fun y => { y with band := b }))).raiseTile d t (.clv 11)

/-- A refresh that the window's column calibration completes is recorded in module flash (R168, R197). -/
def Dev.recordRefresh (m : Dev) (d : DieId) (t : Nat) (w : Window) : Dev :=
  let x := m.die d
  let ls := leafIds.filter (fun l => decide ((x.leaf t l).refresh = some 256)
    && decide (((x.leaf t l).applyCols x.dcnt 0 (w.colCals.filter (fun c => c.leaf = l))).refresh = none))
  { m with flash := { m.flash with refreshed := ls.foldl (fun u l => tset 0 u (resKey (resLeaf d t l.val)) x.dcnt) m.flash.refreshed } }

/-- A spare with every placed leaf programmed enters service (R136). -/
def Tile.settleSpare (y : Tile) : Tile :=
  if y.st = .programming && !y.leaves.any (fun e => e.2.placed && (e.2.prog.isSome || e.2.blank)) then
    { y with st := if y.remaps.isEmpty then .analog else .remapPending }
  else y

/-- A leaf passes between analog and digital service at a window's close: back after its programming's record (R171), away while its
refresh is overdue (R134, R169). -/
def Leaf.serve (f : Leaf) : Leaf := { f with prog := if f.prog = some 257 then none else f.prog, offline := f.overdue }

/-- What a close decides of a tile's service, and shows (R134, R143, R199). -/
def Die.settleService (x : Die) (t : Nat) : Die :=
  let x1 := (x.modTile t (fun y =>
    ({ y with digital := x.wantsDigital t, failPend := [], leaves := tmapv Leaf.reset Leaf.serve y.leaves } : Tile).settleSpare)).showTile t
  if (x1.tile t).st = .retiredSpare then x1.showTile (x1.tile t).link.toNat else x1

/-- Close a window with its record: done entries, reconciliation, corrections, remaps, retirement, wear; analog or digital service is
decided, and the registers show it (R157, R160, R199). -/
def Dev.closeWindow (m : Dev) (d : DieId) (t : Nat) : Dev :=
  match ((m.die d).tile t).win with
  | none => m
  | some w =>
    let m1 := leafIds.foldl (fun n l => n.recordLeaf d t w l) m
    let m2 := when w.reconciling (fun n => (n.modDie d (fun x => x.modTile t (fun y => { y with reconcile := none }))).raiseTile d t (.clv 12)) m1
    let m3 := (m2.raiseRefs d t w).recordRefresh d t w
    let old := (m3.die d).tile t
    let m4 := m3.modDie d (fun x => (x.modTile t (fun y =>
      { Tile.applyWindow x.dcnt (x.tempAt t) (bits (x.reg clvRetCfg) 3 0) w y with win := none })).diagWindow t false)
    let new := (m4.die d).tile t
    let m5 := m4.modDie d (fun x => (recordsDue old new t w).foldl (fun x r => x.recordDue r.1 r.2.1 r.2.2) x)
    let m6 := (colsToFail old new w).eraseDups.foldl (fun n c => n.failCol d t c) m5
    (((m6.settleRemaps d t).settleRetire d t).settleBand d t).modDie d (fun x => x.settleService t)

def execAlmanacWindowOpen (d : DieId) (t : TileId) (reads : WindowReads) (s : State) : Res :=
  s.go fun m => match m.owner (resTile d t.val) with
    | some p => if (m.part p).almanac.isSome && (m.part p).run.isNone then m.openWindow d t.val .almanac reads else m
    | none => m


/-- A queue entry, refresh, calibration or reference read is due on a tile (R417). -/
def Tile.isDue (y : Tile) : Bool :=
  y.hasWork || !y.convNext.isEmpty || !y.failPend.isEmpty || y.leaves.any (fun e => (e.2.placed && (e.2.runDue || e.2.colCalDue)) || e.2.ready.isSome)

def execIdleWindowOpen (d : DieId) (t : TileId) (reads : WindowReads) (s : State) : Res :=
  s.go fun m => if 32 ≤ m.effCap d || ((m.die d).tile t.val).isDue then m.openWindow d t.val .idle reads else m

def execWindowClose (d : DieId) (t : TileId) (s : State) : Res := s.go fun m => if m.inService d then m.closeWindow d t.val else m

/-- The open windows of a partition's tiles close, no further group begun: what a commit point waits for (R159). -/
def Dev.closeWindows (m : Dev) (p : Pid) : Dev :=
  m.healthy.foldl (fun n d =>
    (((n.die d).tiles.filter (fun e => e.2.win.isSome && decide (n.owner (resTile d e.1) = some p))).map (fun e => e.1)).foldl
      (fun n t => n.closeWindow d t) n) m

/-! ### Refresh (R167 to R169) -/

/-- The refresh interval in ns for the highest temperature since the last complete refresh. -/
def refreshNs (hottest : Int) : Nat :=
  (if hottest ≤ 1200 then 720 else if hottest ≤ 1360 then 100 else if hottest ≤ 1520 then 25 else 9) * 3600000000000

/-- REFRESH_DUE: half a placed leaf's interval has elapsed, and its rows are to be verified. -/
def execRefreshDue (d : DieId) (t : TileId) (l : LeafId) (s : State) : Res :=
  s.go fun m =>
    let x := m.die d
    let f := x.leaf t.val l
    if m.inService d && f.placed && !f.blank && f.prog.isNone && !f.scrub && f.refresh.isNone
        && decide (refreshNs f.hottest ≤ 2 * (x.dcnt - f.lastFresh).toNat)
    then m.modDie d (fun x => x.modLeaf t.val l (fun f => { f with refresh := some 0 })) else m

/-- REFRESH_OVERDUE: not complete by 1.1 times the interval; the leaf is served digitally from its tile's next window until it is. -/
def execRefreshOverdue (d : DieId) (t : TileId) (l : LeafId) (s : State) : Res :=
  s.go fun m =>
    let x := m.die d
    let f := x.leaf t.val l
    if m.inService d && f.placed && !f.blank && !f.overdue && decide (11 * refreshNs f.hottest ≤ 10 * (x.dcnt - f.lastFresh).toNat)
    then (m.modDie d (fun x => x.modLeaf t.val l (fun f => { f with overdue := true }))).raiseLeaf d t.val l (.clv 10) none else m

/-! ### Whole-leaf programming's record (R171) -/

/-- The record of a leaf's programming; the leaf returns to analog service at the close of the window, or at once where that window has
closed (DEDUCED, log entry 122). -/
def Dev.leafProgrammed (m : Dev) (d : DieId) (t : Nat) (l : LeafId) : Dev :=
  let m1 := match m.owner (resLeaf d t l.val) with
    | some p => m.leafRecord p d t l
    | none => m.modDie d (fun x => x.modLeaf t l (fun f => { f with blank := false, prog := some 257, progDesc := false, progCodes := [], progScales := [] }))
  let m2 := m1.modDie d (fun x =>
    let x1 := x.modLeaf t l (fun f => { f with lastFresh := x.dcnt, hottest := x.tempAt t, overdue := false, refresh := none })
    if (x1.tile t).win.isSome then x1 else ((x1.modLeaf t l Leaf.serve).modTile t Tile.settleSpare).showTile t)
  match m2.owner (resLeaf d t l.val) with
  | some p => m2.settleLeafProgram p
  | none => m2

/-- LEAF_PROGRAM_COMPLETE: the last row has verified. -/
def execLeafProgramComplete (d : DieId) (t : TileId) (l : LeafId) (s : State) : Res :=
  s.go fun m => if m.inService d && ((m.die d).leaf t.val l).prog = some 256 then m.leafProgrammed d t.val l else m

/-! ### Counter clears (R97, R142, R175) -/

/-- A clear register acts on a die whose registers can be written. -/
def Dev.clearOn (m : Dev) (d : DieId) (blk : Nat) : Dev := if !m.dieRegs d then m else m.modDie d (fun x => x.clearBlock blk)
/-- Clear the counter a selection register names, where its almanac has that layer. -/
def Dev.clearLayerSel (m : Dev) (d : DieId) (sel : RegDef) (kinds : Nat) (key : Pid → Nat → Nat → CntKey) : Dev :=
  let w := (m.die d).reg sel
  let p : Pid := Fin.ofNat 16 (bits w 31 28)
  let l := bits w 27 16
  let k := bits w 1 0
  if !m.dieRegs d || decide (kinds ≤ k) || ((m.part p).layer l).isNone then m else m.modDie d (fun x => x.clearOne (key p l k))

def execWrClearAll (d : DieId) (s : State) : Res := s.go fun m => m.clearOn d 2
def execWrClearSel (d : DieId) (s : State) : Res := s.go fun m => m.clearLayerSel d clvWrSel 4 (fun p l k => .wr p l k)
def execAniClearAll (d : DieId) (s : State) : Res := s.go fun m => m.clearOn d 1
def execAniClearSel (d : DieId) (s : State) : Res := s.go fun m => m.clearLayerSel d clvAniSel 3 (fun p l k => .ani p l k)

end Sys2Proof.Machine
end

