-- ==== Sys2Proof/Machine/Store.lean ====
section
/-! DEFINITION. The calibration store in module flash (R200 to R203): a record's bytes, its check, what start-up finds of it, and when it is
written. The layouts that the spec leaves open are the DIE payload's and COUNT of a record of several kinds of entry (log entry 123). -/

namespace Sys2Proof.Machine

/-! ### Where a record lies -/

def storeCode : StoreKind → Nat
  | .die => 1
  | .cnv => 2
  | .col => 3
  | .trk => 4
  | .tile => 5
  | .wear => 6

def byLeaf (k : StoreKind) : Bool := k == .col || k == .trk

/-- A record's place in the store: type, die, tile, leaf; a record not tied to a tile or leaf has 0 there. -/
def storeKey (d : DieId) (k : StoreKind) (t : Nat) (l : Nat) : Nat :=
  ((storeCode k * 8 + d.val) * 8192 + (if k = .die then 0 else t)) * 4 + (if byLeaf k then l else 0)

/-- The key of a copy of it. -/
def copyKey (d : DieId) (k : StoreKind) (t l : Nat) (second : Bool) : Nat := 2 * storeKey d k t l + second.toNat

/-! ### Bytes (R201) -/

/-- STATE of CLV_TILE_STATUS (R142). -/
def tileCode : TileState → Nat
  | .spareFree => 0
  | .analog => 1
  | .remapPending => 2
  | .retiredSpare => 3
  | .programming => 4
  | .retiredNone => 5


/-- Payload entries and bytes of a type. -/
def entriesIn : StoreKind → Nat
  | .die => 20
  | .cnv => 1296
  | .col => 1120
  | .trk => 1
  | .tile => 97
  | .wear => 4
def payloadLen : StoreKind → Nat
  | .die => 80
  | .cnv => 5184
  | .col => 4480
  | .trk => 16
  | .tile => 200
  | .wear => 32

/-- A signed field of `w` bits as the number that holds it. -/
def fieldOf (w : Nat) (v : Int) : Nat := (BitVec.ofInt w v).toNat

/-- The payload's entries as they lie, multi-byte entries little-endian. -/
def payloadBytes' : StorePayload → List Byte
  | .die trim ratio ts o g => ((fieldOf 32 trim :: ratio :: (List.range 16).map (fun i => fieldOf 32 (ts.getD i 0))) ++ [o.toNat, g.toNat]).flatMap (leNat · 4)
  | .cnv o g => (List.range 1296).flatMap (fun i => leNat ((tget 0#16 g i).toNat * 65536 + (tget 0#12 o i).toNat) 4)
  | .col o g => (List.range 1120).flatMap (fun i => leNat ((tget 0#16 g i).toNat * 65536 + (tget 0#12 o i).toNat) 4)
  | .trk c => leNat (c.k.toNat * 2 ^ 112 + c.z.toNat * 2 ^ 100 + c.kappa.toNat * 2 ^ 88 + c.tcal.toNat * 2 ^ 76) 16
  | .tile st link spare bad =>
    (List.range 96).flatMap (fun i => leNat (tget 0xFFFF#16 spare i).toNat 2)
      ++ leNat ((~~~ bad).toNat * 2 ^ 32 + tileCode st * 2 ^ 24 + link.toNat * 2 ^ 11) 8
  | .wear ls => (List.range 4).flatMap (fun i => leNat ((ls.getD i (0, 0)).1 * 2 ^ 32 + (ls.getD i (0, 0)).2) 8)

/-- The header up to CHECK; IDTAG's first byte is the digest's byte 0, the highest of the value held. -/
def headBytes (idtag : Dbl) (d : DieId) (k : StoreKind) (t l : Nat) (r : StoreRec) : List Byte :=
  [BitVec.ofNat 8 (storeCode k), 0x01#8, BitVec.ofNat 8 d.val, if byLeaf k then BitVec.ofNat 8 l else 0xFF#8]
    ++ leNat (if k = .die then 0xFFFF else t) 2 ++ leNat (entriesIn k) 2 ++ leBytes r.seq 8 ++ leNat (fieldOf 16 r.temp) 2
    ++ leNat (r.frozen.toNat + 2 * r.second.toNat) 2 ++ idtagBytes idtag

/-- A record as written. -/
def recordBytes (idtag : Dbl) (d : DieId) (k : StoreKind) (t l : Nat) (r : StoreRec) : List Byte :=
  let h := headBytes idtag d k t l r
  let p := payloadBytes' r.payload
  h ++ leBytes (crc32c (h ++ p)) 4 ++ p

/-! ### Reading a record (R203) -/

def leAt (bs : List Byte) (off n : Nat) : Nat := ofLe ((bs.drop off).take n)

def tileOfCode : Nat → Option TileState
  | 0 => some .spareFree
  | 1 => some .analog
  | 2 => some .remapPending
  | 3 => some .retiredSpare
  | 4 => some .programming
  | 5 => some .retiredNone
  | _ => none

/-- Pairs of O and G codes by converter or column; `none` where a reserved bit is set. -/
def readPairs (bs : List Byte) (n : Nat) : Option (Tab (BitVec 12) × Tab (BitVec 16)) :=
  let es := (List.range n).map (fun i => (i, leAt bs (4 * i) 4))
  if es.any (fun e => decide (e.2 / 4096 % 16 ≠ 0)) then none
  else some (tsetAll 0 [] (es.map (fun e => (e.1, BitVec.ofNat 12 e.2))), tsetAll 0 [] (es.map (fun e => (e.1, BitVec.ofNat 16 (e.2 / 65536)))))

/-- A payload, where every field lies in its range. -/
def readPayload (k : StoreKind) (bs : List Byte) : Option StorePayload := match k with
  | .die => some (.die (BitVec.ofNat 32 (leAt bs 0 4)).toInt (leAt bs 4 4) ((List.range 16).map (fun i => (BitVec.ofNat 32 (leAt bs (8 + 4 * i) 4)).toInt))
      (BitVec.ofNat 12 (leAt bs 72 4)) (BitVec.ofNat 16 (leAt bs 76 4)))
  | .cnv => (readPairs bs 1296).map (fun r => .cnv r.1 r.2)
  | .col => (readPairs bs 1120).map (fun r => .col r.1 r.2)
  | .trk =>
    let v := leAt bs 0 16
    if v % 2 ^ 76 ≠ 0 then none
    else some (.trk { k := BitVec.ofNat 16 (v / 2 ^ 112), z := BitVec.ofNat 12 (v / 2 ^ 100), kappa := BitVec.ofNat 12 (v / 2 ^ 88),
                      tcal := BitVec.ofNat 12 (v / 2 ^ 76), tw := 0 })
  | .tile =>
    let ms := (List.range 96).map (fun i => (i, leAt bs (2 * i) 2))
    let v := leAt bs 192 8
    let link := v / 2 ^ 11 % 2 ^ 13
    if ms.any (fun e => decide (1024 ≤ e.2 ∧ e.2 < 0xFFFE)) || decide (v % 2 ^ 11 ≠ 0) || decide (4160 ≤ link ∧ link ≠ 0x1FFF) then none
    else (tileOfCode (v / 2 ^ 24 % 256)).map (fun st => .tile st (BitVec.ofNat 13 link)
      (tsetAll 0xFFFF#16 [] (ms.map (fun e => (e.1, BitVec.ofNat 16 e.2)))) (~~~ BitVec.ofNat 32 (v / 2 ^ 32)))
  | .wear => some (.wear ((List.range 4).map (fun i => (leAt bs (8 * i + 4) 4, leAt bs (8 * i) 4))))

/-- The record that a copy's bytes hold: none where CHECK fails, IDTAG is not this module's, TYPE or FORMAT is unknown, or a field is outside
its range or names another place. -/
def readRecord (idtag : Dbl) (d : DieId) (k : StoreKind) (t l : Nat) (bs : List Byte) : Option StoreRec :=
  let p := bs.drop 32
  let flags := leAt bs 18 2
  if decide (bs.length ≠ 32 + payloadLen k) || decide (leAt bs 28 4 ≠ (crc32c (bs.take 28 ++ p)).toNat)
      || decide (leAt bs 0 1 ≠ storeCode k) || decide (leAt bs 1 1 ≠ 1) || decide (leAt bs 2 1 ≠ d.val)
      || decide (leAt bs 3 1 ≠ if byLeaf k then l else 0xFF) || decide (leAt bs 4 2 ≠ if k = .die then 0xFFFF else t)
      || decide (leAt bs 6 2 ≠ entriesIn k) || decide (4 ≤ flags) || decide ((bs.drop 20).take 8 ≠ idtagBytes idtag) then none
  else (readPayload k p).map (fun v =>
    { seq := BitVec.ofNat 64 (leAt bs 8 8), frozen := decide (flags % 2 = 1), second := decide (2 ≤ flags),
      temp := (BitVec.ofNat 16 (leAt bs 16 2)).toInt, payload := v })

/-- A copy's bytes as the flash returns them. -/
def flipped (errs : List FlashError) (k : StoreKind) (t l : Nat) (second : Bool) (bs : List Byte) : List Byte :=
  (errs.filter (fun e => decide (e.kind = k) && (k == .die || decide (e.tile.val = t)) && (!byLeaf k || decide (e.leaf.val = l)) && e.second == second)).foldl
    (fun bs e => bs.modify e.offset (· ^^^ e.flip)) bs

/-- What each copy of a record reads as, where the store has one. -/
def Dev.readCopy (m : Dev) (errs : List FlashError) (d : DieId) (k : StoreKind) (t l : Nat) (second : Bool) : Option (Option StoreRec) :=
  match tget [] m.flash.store (copyKey d k t l second) with
  | [] => none
  | bs => some (readRecord m.sec.idtag d k t l (flipped errs k t l second bs))

/-- The valid copy with the highest SEQ. -/
def Dev.readStore (m : Dev) (errs : List FlashError) (d : DieId) (k : StoreKind) (t l : Nat) : Option StoreRec :=
  match (m.readCopy errs d k t l false).getD none, (m.readCopy errs d k t l true).getD none with
  | some a, some b => if a.seq < b.seq then some b else some a
  | some a, none => some a
  | none, b => b

/-! ### Writing (R164, R200) -/

def Leaf.topWear (f : Leaf) : Nat := (f.wear.map (fun e => e.2.toNat)).foldl max f.wearBase.toNat

/-- What a record holds now. -/
def Die.storePayload (x : Die) (k : StoreKind) (t : Nat) (l : LeafId) : StorePayload :=
  let y := x.tile t
  let f := y.leaf l
  match k with
  | .die => .die x.vrefTrim x.bandRatio ((List.range 16).map (tget 0 x.mon.trims)) x.mon.o x.mon.g
  | .cnv => .cnv y.convO y.convG
  | .col => .col f.colO f.colG
  | .trk => .trk { f.cal with tw := 0 }
  | .tile => .tile y.st y.link y.spareMap y.refBad
  | .wear => .wear (leafIds.map (fun l => ((y.leaf l).topWear, (y.leaf l).leafWear.toNat)))

/-- Put one copy of a record into the store under the die's next SEQ. -/
def Dev.storeCopy (m : Dev) (d : DieId) (k : StoreKind) (t : Nat) (l : LeafId) (second : Bool) : Dev :=
  let x := m.die d
  let n := x.storeSeq + 1
  let r : StoreRec := { seq := n, frozen := byLeaf k && (x.leaf t l).frozen, second := second, temp := if k = .die then x.sensorAt 0 else x.tempAt t,
                        payload := x.storePayload k t l }
  { m.modDie d (fun x => { x with storeSeq := n }) with
    flash := { m.flash with store := tset [] m.flash.store (copyKey d k t l.val second) (recordBytes m.sec.idtag d k t l.val r),
                            storeSeq := tset 0 m.flash.storeSeq d.val n } }

/-- Erase one copy. -/
def Dev.eraseCopy (m : Dev) (d : DieId) (k : StoreKind) (t : Nat) (l : LeafId) (second : Bool) : Dev :=
  { m with flash := { m.flash with store := tdel m.flash.store (copyKey d k t l.val second) } }

/-- Write one record: beside the copy it replaces, which goes once the new one is read back; a TILE record keeps two copies. -/
def Dev.storeRecord (m : Dev) (d : DieId) (k : StoreKind) (t : Nat) (l : LeafId) : Dev :=
  let m1 := m.modDie d (fun x => { x with storeDue := x.storeDue.filter (fun e => decide (storeKey d e.1 e.2.1 e.2.2 ≠ storeKey d k t l.val)),
                                          tiles := if k = .cnv then tmod Tile.reset x.tiles t (fun y => { y with cnvAt := x.dcnt + 1 }) else x.tiles })
  if k = .tile then (m1.storeCopy d k t l false).storeCopy d k t l true
  else
    let second := decide (tget [] m.flash.store (copyKey d k t l.val false) ≠ [])
    (m1.storeCopy d k t l second).eraseCopy d k t l !second

/-- A converter's correction has moved by a quarter of its limit (R188, R133): 4 codes or 1.25 % for a pipeline converter, half a code or 5 %
for a column's own. -/
def movedQuarter (k : Nat) (o1 o2 : BitVec 12) (g1 g2 : BitVec 16) : Bool :=
  let o := (o1.toInt - o2.toInt).natAbs
  let g := (g1.toInt - g2.toInt).natAbs
  if k < 1152 then decide (32 ≤ o) || decide (131072 ≤ 20 * g) else decide (256 ≤ o) || decide (131072 ≤ 80 * g)

/-- Whether a record has its trigger of R200: it is due, a converter has moved since the stored record and the last is a minute old, or MAX_WEAR
has risen by 1,024 trains. -/
def Dev.recordTriggered (m : Dev) (d : DieId) (k : StoreKind) (t : Nat) (l : LeafId) : Bool :=
  let x := m.die d
  let y := x.tile t
  x.storeDue.any (fun e => decide (storeKey d e.1 e.2.1 e.2.2 = storeKey d k t l.val))
    || (match k with
      | .cnv =>
        let old : Tab (BitVec 12) × Tab (BitVec 16) := match (m.readStore [] d .cnv t 0).map (fun r => r.payload) with
          | some (StorePayload.cnv o g) => (o, g)
          | _ => ([], [])
        (decide (y.cnvAt = 0) || decide (60000000000 ≤ (x.dcnt + 1 - y.cnvAt).toNat))
          && (List.range 1296).any (fun i => movedQuarter i (tget 0 y.convO i) (tget 0 old.1 i) (tget 0 y.convG i) (tget 0 old.2 i))
      | .wear =>
        let old : Nat := match (m.readStore [] d .wear t 0).map (fun r => r.payload) with
          | some (StorePayload.wear ls) => (ls.map (fun w => min (w.1 + w.2) 0xFFFFFF)).foldl max 0
          | _ => 0
        decide (old + 1024 ≤ y.maxWear.toNat)
      | _ => false)

/-- STORE_RECORD_WRITE: a record with its trigger is written and read back; one that fails read-back twice raises EV-CAL-06, the older one stays,
and it is written again at its next trigger. -/
def execStoreRecordWrite (d : DieId) (k : StoreKind) (t : TileId) (l : LeafId) (failures : Nat) (s : State) : Res :=
  s.go fun m =>
    if !m.inService d || !m.recordTriggered d k t.val l then m
    else if 2 ≤ failures then
      (m.modDie d (fun x => { x with storeDue := x.storeDue.filter (fun e => decide (storeKey d e.1 e.2.1 e.2.2 ≠ storeKey d k t.val l.val)) })).raise
        (some d) (if k = .die then evDie (.cal 6) d else evUnit (.cal 6) d 1 t.val l.val)
    else m.storeRecord d k t.val l

end Sys2Proof.Machine
end

