-- ==== Sys2Proof/Machine/Calibration.lean ====
section
/-! DEFINITION. Converters, reference and calibration between windows (R177 to R206). -/

namespace Sys2Proof.Machine

/-! ### Monitor (R185, R186, R188, R189) -/

/-- Channels of a round in order: 0 to 7, then the temperature sensors 16 to 31. -/
def monChannel (i : Nat) : Nat := if i < 8 then i else i + 8

/-- Store a round's readings, REFV's in CAL_REFV too (R205). -/
def Die.takeReadings (x : Die) (rs : List Int) : Die :=
  { x with mon := { x.mon with readings := tsetAll 0 x.mon.readings (rs.zipIdx.map (fun r => (monChannel r.2, r.1))),
                               refv := BitVec.ofInt 17 (10 * rs.headD 0) } }

/-- Sensors that read below 0 °C are noted with the counter (R128). -/
def Die.noteCold (x : Die) : Die :=
  { x with coldAt := tsetAll 0 x.coldAt (((List.range 16).filter (fun i => decide (x.sensorAt i < 0))).map (fun i => (i, x.dcnt + 1))) }

/-- Temperature triggers on a tile: a frozen leaf's run falls due beyond FROZEN_DT (R196), and the highest temperature since each
leaf's last refresh is kept (R167). -/
def Tile.feel (temp : Int) (dt : Nat) (y : Tile) : Tile :=
  y.leaves.foldl (fun y e => if e.2.placed then y.modLeaf (Fin.ofNat 4 e.1) (fun f =>
    { f with hottest := max f.hottest temp,
             runDue := f.runDue || (f.frozen && decide (16 * dt < (temp - f.cal.tcal.toInt).natAbs)) }) else y) y

def Die.feel (x : Die) : Die :=
  (x.tiles.map (fun e => e.1)).foldl (fun x t => x.modTile t (Tile.feel (x.tempAt t) (bits (x.reg calCfg) 4 0))) x

/-- A sensor at 105 °C or more: the core at 0.65 V, the thermal cap at 16/64, EV-PWR-04 (R421). -/
def Dev.overtemp (m : Dev) (d : DieId) : Dev :=
  let x := m.die d
  if x.sensors.any (fun t => decide (1680 ≤ t)) && !x.hot then
    (m.modDie d (fun x => { x with hot := true, thermCap := 16, vddMv := 650 })).raise (some d) (evDie (.pwr 4) d)
  else m

/-- What the temperatures trigger: of a round, or of a tile's diodes while the monitor converter is failed (R189, R196). -/
def Dev.feelTemps (m : Dev) (d : DieId) : Dev := (m.modDie d (fun x => x.noteCold.feel)).overtemp d

/-- A round of readings and what it triggers. -/
def Dev.takeRound (m : Dev) (d : DieId) (rs : List Int) : Dev := (m.modDie d (fun x => x.takeReadings rs)).feelTemps d

def execMonitorRound (d : DieId) (rs : List Int) (s : State) : Res :=
  s.go fun m => if m.inService d && (m.die d).analog && !(m.die d).mon.fail then m.takeRound d rs else m

/-- |a·y − b·x| at most 0.5 % of b·x: two readings agree in the ratio y : x of the last trim. -/
def agreeIn (a x b y : Nat) : Bool := decide (200 * ((a * y : Int) - b * x).natAbs ≤ b * x)

/-- What a comparison finds (R186). -/
def refFinding (ratio refv band vref : Nat) : Nat :=
  let rb := agreeIn band ratio refv 1000000
  let rv := agreeIn vref 100000 refv 125000
  let bv := agreeIn vref 100000000000 band (125000 * ratio)
  if rb && rv && bv then 0
  else if bv && !rb && !rv then 1
  else if rv && !rb && !bv then 2
  else if !rb && !rv && !bv then 4
  else 3

/-- The state of the monitor after a comparison: holdover begins when REFV alone differs and ends after 10 agreeing checks in a row;
with no two agreeing the converter is failed. -/
def Monitor.compare (f refv : Nat) (x : Monitor) : Monitor :=
  { x with
    refv := BitVec.ofNat 17 refv
    refvOk := decide (f = 0)
    agreeRun := if f = 0 then x.agreeRun + 1 else 0
    holdover := decide (f = 1) || (x.holdover && !(decide (f = 0) && decide (10 ≤ x.agreeRun + 1)))
    fail := x.fail || decide (f = 4)
    finding := f }

/-- A comparison; an event marks each new finding (log entry 23). -/
def Dev.compareRefs (m : Dev) (d : DieId) (refv band vref : Nat) : Dev :=
  let x := m.die d
  let f := refFinding x.bandRatio refv band vref
  let m1 := m.modDie d (fun x => { x with mon := x.mon.compare f refv })
  if f = x.mon.finding then m1
  else if f = 1 then m1.raise (some d) (evDie (.cal 1) d)
  else if f = 2 || f = 4 then m1.raise (some d) (evDie (.cnv 4) d)
  else m1

def execReferenceComparison (d : DieId) (refv band vref : Nat) (s : State) : Res :=
  s.go fun m => if m.inService d && (m.die d).analog && !(m.die d).mon.fail then m.compareRefs d refv band vref else m

/-- The larger deviation of AVDD_RD and AVDD_CNV from nominal, per mille, is above `n` (channels 4 and 5, in 100 µV). -/
def Die.supplyOff (x : Die) (n : Nat) : Bool :=
  decide (n * 6000 < 1000 * (tget 0 x.mon.readings 4 - 6000).natAbs) || decide (n * 4500 < 1000 * (tget 0 x.mon.readings 5 - 4500).natAbs)

/-- ANALOG_SUPPLY_FAULT: more than 3 % off for 1 ms; the tiles go digital at their next windows (R188). -/
def execAnalogSupplyFault (d : DieId) (s : State) : Res :=
  s.go fun m =>
    let x := m.die d
    if m.inService d && x.analog && !x.mon.fail && !x.mon.supplyBad && x.supplyOff 30 then
      (m.modDie d (fun x => { x with mon := { x.mon with supplyBad := true } })).raise (some d) (evDie (.cal 3) d)
    else m

/-- ANALOG_SUPPLY_RECOVERED: within ±2 % for 10 ms; the monitor converter's supply checks stop while it is failed (R189). -/
def execAnalogSupplyRecovered (d : DieId) (s : State) : Res :=
  s.go fun m =>
    if m.inService d && !(m.die d).mon.fail && !((m.die d).supplyOff 20) then m.modDie d (fun x => { x with mon := { x.mon with supplyBad := false } }) else m

/-! ### Converters (R187, R188) -/

/-- Whether a converter's internal channels can be read now (R187): a column converter's, or a reference group's, only in an intercalary
window. -/
def Tile.rotates (y : Tile) (conv : Nat) : Bool :=
  decide (y.st ≠ .retiredSpare) && decide (y.st ≠ .retiredNone) && ((decide (1152 ≤ conv) && decide (conv < 1292)) || y.win.isSome)

/-- CONVERTER_ROTATION_COMPLETE: `conv` is a column converter 0 to 1,151, or 1,152 + n for pipeline converter n. O_k and G_k follow from 256
samples each of ZERO, PFS and NFS. A pipeline converter's rotation is judged: its limits, its supply channels (in 10 µV) against the monitor,
and its diode (in 1/16 °C). -/
def execConverterRotationComplete (d : DieId) (t : TileId) (conv : Nat) (zero pfs nfs : List Int) (supRd supCnv diode : Int)
    (s : State) : Res :=
  s.go fun m =>
    let x := m.die d
    let y := x.tile t.val
    if !(m.inService d && x.analog && y.rotates conv && [zero, pfs, nfs].all (fun cs => decide (cs.length = 256))) then m
    else
      let fine := decide (1152 ≤ conv)
      let c := convCodes fine zero pfs nfs
      let clips := clippedIn fine zero + clippedIn fine pfs + clippedIn fine nfs
      let m0 := m.modDie d (fun x => (x.modTile t.val (fun y => { y with convNext := y.convNext ++ [(conv, c)] })).count .clip clips)
      if !fine then m0
      else
        let r4 := tget 0 x.mon.readings 4
        let r5 := tget 0 x.mon.readings 5
        let bad1 := convOutside c
        let bad2 := !x.mon.fail && ((decide (900 < (supRd - 30000).natAbs) && decide ((r4 - 6000).natAbs ≤ 60))
          || (decide (675 < (supCnv - 22500).natAbs) && decide ((r5 - 4500).natAbs ≤ 45)))
        let bad3 := !x.mon.fail && decide (80 < (diode - x.tempAt t.val).natAbs)
        let e (c : Ev) : Event := { evUnit c d 7 t.val 0 with part := (m.owner (resTile d t.val)).map (fun p => p.val) }
        let m1 := m0.modDie d (fun x => x.modTile t.val (fun y =>
          { y with diodes := tset 0 y.diodes (conv - 1152) diode, retireDue := y.retireDue || bad1 || bad2 }))
        let m2 := when bad1 (fun n => n.raise (some d) (e (.cnv 1))) m1
        let m3 := when bad2 (fun n => n.raise (some d) (e (.cnv 2))) m2
        let m4 := when bad3 (fun n => n.raise (some d) (e (.cnv 3))) m3
        when x.mon.fail (fun n => n.feelTemps d) m4

/-! ### Tracking (R192 to R194, R198) -/

/-- Reference columns of a tile found unhealthy so far. -/
def Tile.refsFound (y : Tile) : Word := y.refBad ||| y.refPend ||| (match y.win with
  | some w => w.refs
  | none => 0#32)

/-- TRACKING_INTERVAL_END: 4,096 phases of a leaf were gathered. Reference health is judged, and a live leaf's K and z begin to be computed
from the columns that are healthy; frozen leaves' values change only at a run (R196). -/
def execTrackingIntervalEnd (d : DieId) (t : TileId) (l : LeafId) (s : State) : Res :=
  s.go fun m =>
    let y := (m.die d).tile t.val
    match (y.leaf l).trackDone with
    | some x =>
      if m.inService d && (y.leaf l).placed then
        let new := x.unhealthy y.refsFound
        let bad := y.refsFound ||| refWord (new.map (1120 + ·))
        let m1 := m.modDie d (fun z => (z.modTile t.val (fun y => { y with refPend := y.refPend ||| refWord (new.map (1120 + ·)) })).modLeaf t.val l (fun f =>
          { f with trackDone := none, computing := if f.frozen then none else
              (x.values bad).map (fun v => { f.cal with k := v.1, z := v.2, tcal := tempCode x.meanTemp }) }))
        new.foldl (fun n _ => n.raiseLeaf d t.val l (.cal 4) none) m1
      else m
    | none => m

/-- The last accepted set of a leaf: waiting, taken by the open window, or in effect. -/
def Tile.lastAccepted (y : Tile) (l : LeafId) : LeafCal :=
  ((y.leaf l).ready.or (y.win.bind (fun w => (w.trk.find? (fun r => r.1 = l)).map (fun r => r.2)))).getD (y.leaf l).cal

/-- A new K is rejected (R193): it differs from the last accepted by more than 1 % while the sensor, read as the mean over each interval, has
moved by less than 2 °C (DEDUCED, log entry 120). -/
def rejects (old new : LeafCal) : Bool :=
  decide (131072 + old.k.toInt < 100 * (new.k.toInt - old.k.toInt).natAbs) && decide ((new.tcal.toInt - old.tcal.toInt).natAbs < 32)

/-- TRACKING_VALUE_READY: accepted, or rejected; the third rejection in a row retires the tile (R193). -/
def execTrackingValueReady (d : DieId) (t : TileId) (l : LeafId) (s : State) : Res :=
  s.go fun m =>
    let y := (m.die d).tile t.val
    let f := y.leaf l
    match f.computing with
    | some c =>
      if !m.inService d then m
      else if rejects (y.lastAccepted l) c then
        (m.modDie d (fun x => (x.modTile t.val (fun y => { y with retireDue := y.retireDue || decide (2 ≤ f.rejects) })).modLeaf t.val l (fun f =>
          { f with computing := none, rejects := f.rejects + 1 }))).raiseLeaf d t.val l (.cal 5) none
      else m.modDie d (fun x => x.modLeaf t.val l (fun f =>
        { f with computing := none, rejects := 0, newAt := x.dcnt, runDue := false,
                 ready := some { f.cal with k := c.k, z := c.z, tcal := c.tcal } }))
    | none => m

/-- TRACKING_AGE_EXPIRED: a live leaf's newest value is older than TRK_MAX_AGE. -/
def execTrackingAgeExpired (d : DieId) (t : TileId) (l : LeafId) (s : State) : Res :=
  s.go fun m =>
    let x := m.die d
    let f := x.leaf t.val l
    if m.inService d && f.placed && !f.frozen && decide (bits (x.reg calCfg) 25 16 * 1000000 < (x.dcnt - f.newAt).toNat)
    then m.modDie d (fun x => x.modLeaf t.val l (fun f => { f with runDue := true })) else m

/-! ### Diagnostic conversions (R206) and clears -/

/-- A field written with a value outside its range keeps what it holds. -/
def field (old new : Word) (hi lo : Nat) (ok : Nat → Bool) : Word :=
  let mask : Word := BitVec.ofNat 32 ((2 ^ (hi + 1 - lo) - 1) * 2 ^ lo)
  if ok (bits new hi lo) then (old &&& ~~~ mask) ||| (new &&& mask) else old

def anyVal (_ : Nat) : Bool := true

/-- Whether the channel of a control word is one of the target's converter. -/
def diagChannelOk (tgt ctrl : Word) : Bool :=
  let c := bits ctrl 15 11
  if bits tgt 21 13 = 144 then decide (c < 8) || decide (16 ≤ c) else decide (c < 14)

/-- The RW fields of CNV_DIAG_CTRL. -/
def diagFields (old v : Word) : Word :=
  field (field (field old v 15 11 anyVal) v 10 7 (fun n => decide (n ≤ 8))) v 6 3 (fun n => decide (n ≤ 8))

/-- CNV_DIAG_GO: a write of CNV_DIAG_CTRL; GO while DONE reads 0 is ignored, and an invalid channel completes at once with 0. -/
def execCnvDiagGo (d : DieId) (v : Word) (s : State) : Res :=
  s.go fun m => if !m.dieRegs d then m else m.modDie d (fun x =>
    let x1 := x.setReg cnvDiagCtrl (diagFields (x.reg cnvDiagCtrl) v)
    let tgt := x1.reg cnvDiagTgt
    let ctrl := x1.reg cnvDiagCtrl
    if !v.getLsbD 31 || x.diag.pending then x1
    else if diagChannelOk tgt ctrl then { x1 with diag := { x.diag with pending := true, inWindow := false, tgt := tgt, ctrl := ctrl } }
    else { x1 with diag := { x.diag with data := 0 } })

/-- Codes that the target's converter can give (R177, R185): 10 bits of a pipeline converter, 14 of the monitor's. -/
def diagCodes (pipe : Bool) (codes : List Int) : Bool :=
  codes.all (fun c => if pipe then decide (-512 ≤ c ∧ c ≤ 511) else decide (-8192 ≤ c ∧ c ≤ 8191))

/-- CNV_DIAG_DONE: the averager's output over the samples requested, raw, with 8 fraction bits (R181). A pipeline converter's runs in the
next window of its tile after the request, and its clipped samples count (R180). -/
def execCnvDiagDone (d : DieId) (codes : List Int) (s : State) : Res :=
  s.go fun m =>
    let x := m.die d
    let pipe := decide (bits x.diag.tgt 21 13 ≠ 144)
    if m.inService d && x.diag.pending && decide (codes.length = 2 ^ bits x.diag.ctrl 10 7) && diagCodes pipe codes
        && (!pipe || x.diag.inWindow) then
      let v : Word := BitVec.ofInt 32 (averaged (bits x.diag.ctrl 6 3) codes)
      m.modDie d (fun x => Die.count { x with diag := { x.diag with pending := false, inWindow := false, data := v } } .clip
        (if pipe then clippedIn true codes else 0))
    else m

def execCnvClipClear (d : DieId) (s : State) : Res := s.go fun m => m.clearOn d 8

end Sys2Proof.Machine
end

