-- ==== Sys2Proof/Machine/Counters.lean ====
section
/-! DEFINITION. Counter clears of the WUN_ and MCE_ blocks, FORCE_WARMUP and MCE_SMP_CFG (R97, R98, R237, R270, R271). -/

namespace Sys2Proof.Machine

/-- Clear one counter where the die's registers can be written. -/
def Dev.clearKey (m : Dev) (d : DieId) (ok : Bool) (k : CntKey) : Dev := if !m.dieRegs d || !ok then m else m.modDie d (fun x => x.clearOne k)

def execOvfClearAll (d : DieId) (s : State) : Res := s.go fun m => m.clearOn d 0
def execOvfClearSel (d : DieId) (s : State) : Res :=
  s.go fun m =>
    let w := (m.die d).reg wunOvfSel
    let p : Pid := Fin.ofNat 16 (bits w 31 28)
    let l := bits w 27 16
    let c := bits w 10 8
    let k := bits w 1 0
    m.clearKey d (((m.part p).layer l).isSome && decide (c < 6) && decide (k < 3)) (.ovf p l c k)

/-- The partition WUN_PART_SEL selects on a die. -/
def Die.wunPart (x : Die) : Pid := Fin.ofNat 16 (bits (x.reg wunPartSel) 3 0)

/-- FORCE_WARMUP (R97, R98): history is discarded at the partition's next step boundary, on every healthy die. -/
def execForceWarmup (d : DieId) (s : State) : Res :=
  s.go fun m => if !m.dieRegs d || !(m.part (m.die d).wunPart).inBeing then m
    else m.modPart (m.die d).wunPart (fun x => { x with forceWarm := true })

def execMceClearAll (d : DieId) (s : State) : Res := s.go fun m => m.clearOn d 3
def execMceClearSel (d : DieId) (s : State) : Res :=
  s.go fun m =>
    let k := bits ((m.die d).reg mceCntSel) 1 0
    m.clearKey d (decide (k < 3)) (.mce k)

def execStepCntClearAll (d : DieId) (s : State) : Res := s.go fun m => m.clearOn d 4
def execStepCntClearSel (d : DieId) (s : State) : Res :=
  s.go fun m =>
    let k := bits ((m.die d).reg wunStepCntSel) 2 0
    m.clearKey d (decide (k < 7)) (.stepc (m.die d).wunPart k)

/-- The partition MCE_SMP_SEL selects on a die. -/
def Die.smpPart (x : Die) : Pid := Fin.ofNat 16 (bits (x.reg mceSmpSel) 31 28)

/-- The RW fields of MCE_SMP_CFG. -/
def smpFields (old v : Word) : Word := field (field old v 13 8 (fun n => decide (4 ≤ n ∧ n ≤ 32))) v 3 0 (fun n => decide (n ≤ 12))

/-- SMP_CFG_WRITE (R271): in force at the partition's next step start, pending until then. -/
def execSmpCfgWrite (d : DieId) (v : Word) (s : State) : Res :=
  s.go fun m => if !m.dieRegs d then m
    else m.modPart (m.die d).smpPart (fun x => { x with smpWritten := smpFields x.smpWritten v, smpPending := true })

def execSmpClearAll (d : DieId) (s : State) : Res := s.go fun m => m.clearOn d 5
def execSmpClearSel (d : DieId) (s : State) : Res := s.go fun m => m.clearLayerSel d mceSmpSel 3 (fun p l k => .smp p l k)

end Sys2Proof.Machine
end

