-- ==== Sys2Proof/Machine/Sources.lean ====
section
/-! DEFINITION. Reading what producers wrote: pieces of stage SRAM (R220), rows of values for W-unit programs and BI conversions (R79,
R89), and the stash plan (R247, R249). A source that is not written yet answers `none`, and its consumer waits. -/

namespace Sys2Proof.Machine

/-! ### Pieces of stage SRAM -/

/-- A producer writes a piece of stage SRAM whole; what it overlaps is no piece any more. -/
def Die.put (x : Die) (p : Pid) (addr : Nat) (fmt : PieceFmt) (k : Int) (bs : List Byte) : Die :=
  if decide (addr + bs.length ≤ Config.sramBytes) && !bs.isEmpty then
    { x with
      sram := mwriteBytes x.sram addr bs
      pieces := tins addr { len := bs.length, fmt := fmt, k := k, owner := p }
        (x.pieces.filter (fun e => decide (e.1 + e.2.len ≤ addr) || decide (addr + bs.length ≤ e.1))) }
  else x

def Die.putWords (x : Die) (p : Pid) (addr : Nat) (ws : List Word) : Die := x.put p addr .f32 0 (ws.flatMap (fun w => leBytes w 4))
def Die.putCodes (x : Die) (p : Pid) (addr : Nat) (fmt : PieceFmt) (k : Int) (cs : List Byte) : Die := x.put p addr fmt k cs

/-- What partition `p`'s producers wrote whole at the `n` bytes from `a` on. -/
def Die.pieceAt (x : Die) (p : Pid) (a n : Nat) : Option Piece :=
  (x.pieces.find? (fun e => decide (e.1 ≤ a) && decide (a + n ≤ e.1 + e.2.len) && decide (e.2.owner = p))).map (fun e => e.2)

/-- The bytes from `a` on. -/
def Die.bytesAt (x : Die) (a n : Nat) : List Byte := (List.range n).map (fun i => mread x.sram (a + i))

/-- A little-endian number of bytes. -/
def leValue (bs : List Byte) : Nat := bs.zipIdx.foldl (fun s b => s + b.1.toNat * 256 ^ b.2) 0

/-- Every answer, or none. -/
def allSome {α : Type} : List (Option α) → Option (List α)
  | [] => some []
  | none :: _ => none
  | some v :: t => (allSome t).map (fun vs => v :: vs)

/-! ### Rows of values -/

/-- A row as read: binary32 values, or codes with their tensor exponent. -/
inductive Row where
  | f32 (v : List Word)
  | nf8 (k : Int) (v : List Byte)
  | ng8 (k : Int) (v : List Byte)
  deriving DecidableEq, Repr

/-- The exact values (R79), and the same in binary32. -/
def Row.values : Row → List FVal
  | .f32 v => v.map Sys2Proof.Machine.f32
  | .nf8 k v => v.map (fun c => (nf8Val c).scale k)
  | .ng8 k v => v.map (fun c => (ng8Val c).scale k)
def Row.words : Row → List Word
  | .f32 v => v
  | .nf8 k v => v.map (fun c => rne32 ((nf8Val c).scale k))
  | .ng8 k v => v.map (fun c => rne32 ((ng8Val c).scale k))

/-- A row of fewer than `n` elements, the rest zero: a layer's last block may be short (R80). -/
def Row.pad (n : Nat) : Row → Row
  | .f32 v => .f32 (v ++ List.replicate (n - v.length) 0)
  | .nf8 k v => .nf8 k (v ++ List.replicate (n - v.length) 0)
  | .ng8 k v => .ng8 k (v ++ List.replicate (n - v.length) 0)

/-- Element `q` of a row in stage SRAM, `size` bytes each (R208). -/
def elemAddr (addr pitch size q : Nat) : Nat := addr + q / 8 * pitch + q % 8 * size

/-- A row of binary32 values in stage SRAM. -/
def Die.rowWords (x : Die) (p : Pid) (addr pitch n : Nat) : Option (List Word) :=
  allSome ((List.range n).map (fun q =>
    let e := elemAddr addr pitch 4 q
    match x.pieceAt p e 4 with
    | some c => if c.fmt = .f32 then some (BitVec.ofNat 32 (leValue (x.bytesAt e 4))) else none
    | none => none))

/-- A row of NF8 or NG8 codes in stage SRAM, with the exponent their tensor was stored with. -/
def Die.rowCodes (x : Die) (p : Pid) (addr pitch n : Nat) : Option Row :=
  match x.pieceAt p addr 1 with
  | some c =>
    let v := allSome ((List.range n).map (fun q =>
      let e := elemAddr addr pitch 1 q
      match x.pieceAt p e 1 with
      | some g => if g.fmt = c.fmt ∧ g.k = c.k then some (mread x.sram e) else none
      | none => none))
    match c.fmt with
    | .nf8 => v.map (Row.nf8 c.k)
    | .ng8 => v.map (Row.ng8 c.k)
    | _ => none
  | none => none

/-- The block of a running step. -/
def StepRun.block (r : StepRun) (l row b : Nat) : Option BiBlock :=
  (r.blocks.find? (fun e => e.1 = brkey l row b)).map (fun e => e.2)

/-- An element of a layer's stashed tile input (R89): the code R73 wrote, times its block's scale. -/
def StepRun.tileInput (r : StepRun) (l row i : Nat) : Option FVal :=
  (r.block l row (i / 64)).map (fun b => (FVal.ofInt (b.codes.getD (i % 64) 0)).mul (bs8Val b.scale))

/-- Part of a layer's output row as it is passed on and stashed: its NF8 codes, or binary32 without an ACT entry (R461). -/
def StepRun.outputRow (a : Container) (r : StepRun) (l row col n : Nat) : Option Row :=
  (allSome ((List.range n).map (fun q => tget none r.outs (wkey l row (col + q))))).map (fun ws =>
    match tensorOf a l 0 with
    | some e => let k := tget 0 r.scale e.1; .nf8 k (ws.map (fun w => (toNF8 k (f32 w)).1))
    | none => .f32 ws)

/-- The `n` values that a source gives on die `d`. -/
def Dev.readSrc (m : Dev) (p : Pid) (d : DieId) (a : Container) (r : StepRun) (n : Nat) : Src → Option Row
  | .words addr pitch => ((m.die d).rowWords p addr pitch n).map Row.f32
  | .codes addr pitch => (m.die d).rowCodes p addr pitch n
  | .input first => if first + n ≤ r.input.length then some (.f32 ((r.input.drop first).take n)) else none
  | .output l row col => r.outputRow a l row col n
  | .tileInput l row col => (allSome ((List.range n).map (fun q => r.tileInput l row (col + q)))).map (fun vs => .f32 (vs.map rne32))
  | .consts v => if n ≤ v.length then some (.f32 (v.take n)) else none

/-! ### The stash's plan and prefetch (R247, R249) -/

/-- Bytes of a stashed tensor entry in a micro-batch: BYTES_PER_TOKEN × TOKENS; `none` where the plan does not stash it. -/
def stashNeed (a : Container) (tokens i : Nat) : Option Nat :=
  (a.stash.tensors.find? (fun t => decide (t.tensor = i))).map (fun t => t.bytesPerToken * tokens)

/-- A layer's tier-3 share of the step's stash. -/
def tier3Share (a : Container) (r : StepRun) (l : Nat) : Nat :=
  ((r.stashed.filter (fun e => e.2 = 3 && (match a.tensorTab[e.1]? with
    | some t => decide (t.layer = l)
    | none => false))).map (fun e => (stashNeed a r.tokens e.1).getD 0)).foldl (· + ·) 0

/-- The layer that the backward pass has reached: the last trained layer whose gradient is not yet accumulated. -/
def backwardAt (a : Container) (r : StepRun) : Nat :=
  (((List.range a.layerTab.length).filter (fun l => trained a l && !r.accDone.contains l)).getLast?).getD 0

/-- Whether a backward consumer of the layer's stash must wait: part of it lies in tier 3 and is not yet prefetched. -/
def stashWaits (a : Container) (r : StepRun) (l : Nat) : Bool :=
  decide (4 ≤ r.phase) && decide (tget 0 r.prefetched l < tier3Share a r l)

/-- The layer whose stash a source reads. -/
def srcLayer : Src → Option Nat
  | .output l _ _ => some l
  | .tileInput l _ _ => some l
  | _ => none

end Sys2Proof.Machine
end

