-- ==== Sys2Proof/Machine/Forward.lean ====
section
/-! DEFINITION. The forward product on the tiles: a block row's conversion and the settling of its outliers (R73, R119 to R124),
a tile pass (R106 to R116), and a layer's outputs (R87, R89). -/

namespace Sys2Proof.Machine

/-! ### Magnitudes and stash -/

/-- Take values into a tensor's largest finite magnitude of the step (R90). -/
def addAmax (i : Nat) (vs : List Word) (r : StepRun) : StepRun :=
  { r with amax := tmod 0#32 r.amax i (fun w => amaxOf (w :: vs)) }

/-- In a probe pass a value above the format's largest finite value under `k` enters the amax at that value (R93). -/
def probeCap (f : Nat) (k : Int) (w : Word) : Word :=
  let cap := (FVal.ofInt f).scale k
  if (f32 w).isFinite && cap.lt (f32 w).abs then rne32 cap else w

/-- Take a tensor entry's converted values into its amax; `cap` is the format's largest value and the exponent, where there is one. -/
def Dev.addAmax (m : Dev) (p : Pid) (i : Nat) (cap : Option (Nat × Int)) (vs : List Word) : Dev :=
  m.modRun p (fun r => Sys2Proof.Machine.addAmax i (match cap with
    | some c => if r.probing then vs.map (probeCap c.1 c.2) else vs
    | none => vs) r)

/-- The tier that takes a tensor whole on a die, tried from tier 1 on for each tensor (R247; DESIGN CHOICE, log entry 101); `none` where no
planned tier has room (R248). -/
def stashTier (a : Container) (v d bytes : Nat) (r : StepRun) : Option Nat :=
  if tget 0 r.stash1 d + bytes ≤ a.stash.tier1 then some 1
  else if tget 0 r.stash2 d + bytes ≤ tier2Cap a v d then some 2
  else if r.stash3 + bytes ≤ a.stash.tier3 then some 3
  else none

/-- Allocate tensor entry `i` in its tier. -/
def StepRun.allot (d i bytes tier : Nat) (r : StepRun) : StepRun :=
  { r with
    stashed := tset 0 r.stashed i tier
    stash1 := if tier = 1 then tmod 0 r.stash1 d (· + bytes) else r.stash1
    stash2 := if tier = 2 then tmod 0 r.stash2 d (· + bytes) else r.stash2
    stash3 := if tier = 3 then r.stash3 + bytes else r.stash3 }

/-- The first write of a planned tensor entry allocates its bytes for the micro-batch (R247); a FORWARD stashes nothing (R292), and a
tensor without an entry in the plan takes none. Exhaustion aborts the step (R248). -/
def Dev.stash (m : Dev) (p : Pid) (d : DieId) (i : Nat) : Dev :=
  match (m.part p).run, (m.part p).almanac with
  | some r, some a =>
    match stashNeed a r.tokens i with
    | some bytes =>
      if r.isForward || decide (tget 0 r.stashed i ≠ 0) then m
      else match stashTier a (m.part p).variant d.val bytes r with
        | some t => m.modRun p (StepRun.allot d.val i bytes t)
        | none => (m.raiseP (some d) p (ev (.wun 3))).abortStep p .stash
    | none => m
  | _, _ => m

/-- The same for the layer's entry of a class, where it has one. -/
def Dev.stashClass (m : Dev) (p : Pid) (d : DieId) (a : Container) (l cls : Nat) : Dev :=
  match tensorOf a l cls with
  | some e => m.stash p d e.1
  | none => m

/-! ### BLOCK_ROW_CONVERSION (R73, R120) -/

/-- The tracker scale S_t of a layer's input (R91): BS8_up(P / M_n); `none` where each block takes its own magnitude. -/
def trackerScale (a : Container) (r : StepRun) (l n : Nat) : Option Byte :=
  match tensorOf a l 1 with
  | some e =>
    let pp := tget (0#32, 0) r.pred e.1
    if pp = (0#32, 0) then none else some (predScale pp n).1
  | none => none

/-- The largest `k` outliers, a lower row first among equals, in row order. -/
def largestOutliers (k : Nat) (os : List (Nat × FVal)) : List (Nat × FVal) :=
  let rank (o : Nat × FVal) : Nat :=
    (os.filter (fun q => decide (q.2.abs.cmp o.2.abs > 0) || (decide (q.2.abs.cmp o.2.abs = 0) && decide (q.1 < o.1)))).length
  os.filter (fun o => decide (rank o < k))

/-- Codes with the given rows written to ±M_n by sign (R120). -/
def saturateRows (n : Nat) (os : List (Nat × FVal)) (codes : List Int) : List Int :=
  os.foldl (fun cs o => cs.set o.1 (if o.2.sign then -(biMax n : Int) else biMax n)) codes

/-- The tiles of a layer in placement order across the module, each once, as (die, tile placed) (R120, R251). -/
def layerTiles (a : Container) (v l : Nat) : List (Nat × Nat) :=
  (((placesOf a v).filter (fun e => decide (e.layer = l) && !e.digital)).map (fun e => (e.die, e.tile))).eraseDups

/-- The physical tiles that consume a layer's blocks by analog reads now, in placement order. -/
def Dev.consumers (m : Dev) (p : Pid) (a : Container) (l : Nat) : List (DieId × Nat) :=
  let v := (m.part p).variant
  (layerTiles a v l).filterMap (fun e =>
    let d : DieId := Fin.ofNat 8 e.1
    let t := (m.die d).phys e.2
    if m.inService d && leafIds.any (fun f => decide (((m.die d).leafRuns a v d.val t f.val).any (fun r => r.layer = l)) && (m.die d).analogOk t f)
    then some (d, t) else none)

def tileKey (d : DieId) (t : Nat) : Nat := d.val * 8192 + t

/-- Promotion units of a layer in a micro-batch, and its capacity (R119): thousandths rounded up. -/
def promoteCap (a : Container) (v l tokens permille : Nat) : Nat :=
  (permille * (tokens * blocksOf a l * (layerTiles a v l).length) + 999) / 1000

/-- What settling a block row decides. -/
structure Settled where
  slots    : List (Nat × FVal)
  lost     : List (Nat × FVal)
  promoted : List (DieId × Nat)
  kept     : Nat
  satTiles : Nat
  deriving DecidableEq, Repr

/-- The procedure of R120: `room` is the promotion capacity left. -/
def settleRow (slots room : Nat) (tiles : List (DieId × Nat)) (os : List (Nat × FVal)) : Settled :=
  if os.length ≤ slots then { slots := os, lost := [], promoted := [], kept := os.length, satTiles := 0 }
  else
    let big := largestOutliers slots os
    let rest := tiles.length - min room tiles.length
    { slots := big, lost := os.filter (fun o => !big.any (fun b => b.1 = o.1)), promoted := tiles.take room,
      kept := big.length * rest, satTiles := rest }

/-- The block row's record, with the counts of its conversions (R73, R461). NF8 source values pass to the Anise path unchanged; a BI1
outlier's v − x_s·S need be no NF8 value, and is rounded to NF8 under the source's k, which counts nothing (DESIGN CHOICE, log entry
103). -/
def makeBlock (n slots room : Nat) (st : Option Byte) (tiles : List (DieId × Nat)) (src : Row) :
    BiBlock × BiConv × Settled × Tally × Bool :=
  let vs := src.values
  let cv := biConvert n st vs
  let se := if tiles.isEmpty then { slots := [], lost := [], promoted := [], kept := 0, satTiles := 0 } else settleRow slots room tiles cv.outliers
  let ko : Int × Bool := match src with
    | .nf8 k _ => (k, false)
    | _ => expFor maxNF8 (amaxVals vs)
  let nf := vs.map (fun v => toNF8 ko.1 v)
  let sl := se.slots.map (fun o => (o.1, toNF8 ko.1 o.2))
  let used : List Tally := match src with
    | .nf8 _ _ => []
    | _ => if se.promoted.isEmpty then sl.map (fun s => s.2.2) else nf.map (fun c => c.2)
  ({ width := n, bytes := biPack n cv.codes cv.scale, kOut := ko.1,
     outliers := cv.outliers.map (fun o => (o.1, (toNF8 ko.1 o.2).1)), slots := sl.map (fun s => (s.1, s.2.1)),
     srcNf8 := nf.map (fun c => c.1), promoted := se.promoted.map (fun t => tileKey t.1 t.2),
     tileCodes := saturateRows n se.lost cv.codes }, cv, se, used.foldl Tally.add Tally.none, ko.2)

/-- Settle a block row in the running step: counts, the saturation's event, and the abort policy (R122, R123, R462). -/
def Dev.settleBlock (m : Dev) (p : Pid) (d : DieId) (l : Nat) (abort : Bool) (se : Settled) : Dev :=
  let m1 := m.modDie d (fun x => (x.count (.ani p l 0) se.kept).count (.ani p l 2) (se.lost.length * se.satTiles))
  let m2 := se.promoted.foldl (fun n t => n.count t.1 (.ani p l 1) 1) m1
  let m3 := m2.modRun p (fun r => { r with promoUsed := tmod 0 r.promoUsed l (· + se.promoted.length) })
  if se.lost.isEmpty || decide (se.satTiles = 0) then m3
  else
    let first := match (m3.part p).run with
      | some r => !r.satEvent
      | none => false
    let aborting := match (m3.part p).run with
      | some r => abort && !r.isForward
      | none => false
    -- the event's ACTION is the one taken, DEGRADE or ABORT (R378)
    let saturated := if aborting then { ev (.clv 5) with layer := some l, action := 5 } else { ev (.clv 5) with layer := some l }
    let m4 := (when first (fun n => n.raiseP (some d) p saturated) m3).modRun p
      (fun r => { r with satEvent := true, saturated := true })
    match (m4.part p).run with
    | some r => if abort && !r.isForward then m4.abortStep p .anise else m4
    | none => m4

/-- No block. -/
def BiBlock.empty : BiBlock :=
  { width := 0, bytes := [], kOut := 0, outliers := [], slots := [], srcNf8 := [], promoted := [], tileCodes := [] }

/-- Whether a block row is the next of its layer in the order of R120: ascending vector, then ascending block. -/
def StepRun.nextBlock (a : Container) (r : StepRun) (l row b : Nat) : Bool :=
  (r.block l row b).isNone && (if b = 0 then decide (row = 0) || (r.block l (row - 1) (blocksOf a l - 1)).isSome
    else (r.block l row (b - 1)).isSome)

/-- Rows that a layer computes in a micro-batch: its gather's CAPACITY where one feeds it (R286), else one for each token (DEDUCED, log
entry 115). -/
def rowsIn (a : Container) (tokens l : Nat) : Nat := match a.gathers.find? (fun g => g.layer = l) with
  | some g => g.capacity
  | none => tokens

/-- BLOCK_ROW_CONVERSION: a block row of a layer's input, on the die that converts it, in the order of R120; a source not yet written is
waited for (R220). The converted row is stashed as it is (R89). -/
def execBlockRowConversion (p : Pid) (d : DieId) (l row b : Nat) (src : Src) (s : State) : Res :=
  s.go fun m =>
    let x := m.part p
    match x.run, x.almanac, x.layer l with
    | some r, some a, some e =>
      match m.readSrc p d a r (min 64 (rowsOf a l - 64 * b)) src with
      | some v =>
        if x.issues && m.inService d && m.hasOn p d && decide (b < blocksOf a l) && decide (row < rowsIn a r.tokens l)
            && r.nextBlock a l row b then
          let n := widthOf a l b
          let digital := x.digital || r.fallback.contains l
          let tiles := if digital then [] else m.consumers p a l
          let room := promoteCap a x.variant l (rowsIn a r.tokens l) e.promotePermille - tget 0 r.promoUsed l
          let k := makeBlock n e.aniseSlots room (trackerScale a r l n) tiles (v.pad 64)
          let m1 := (m.countTally d p l 1 (k.2.1.tally.add (k.2.2.2.1.add (Tally.one k.2.2.2.2 false false)))).modRun p
            (fun r => { StepRun.reach 2 r with blocks := tset BiBlock.empty r.blocks (brkey l row b) k.1 })
          let m2 := match tensorOf a l 1 with
            | some t => (m1.addAmax p t.1 none v.words).stash p d t.1
            | none => m1
          m2.settleBlock p d l (aniseAbort e) k.2.2.1
        else m
      | none => m
    | _, _, _ => m

/-! ### Which path serves a run (R121, R134) -/

/-- Where an output of a layer lies under the variant running. -/
def placeOf (a : Container) (v l o : Nat) : Option PlaceEntry :=
  (placesOf a v).find? (fun e => decide (e.layer = l) && decide (e.outFirst ≤ o ∧ o < e.outFirst + e.outCount))

/-- The path of one block run: the analog run stands, the digital path computes it, or neither is settled yet. -/
inductive Service where
  | analog (w : Word)
  | digital
  | waits
  deriving DecidableEq, Repr

/-- How a run is served: digitally in the all-digital form, in fallback, where the variant places it so, where its block was promoted for its
tile or the digital path has already taken it; by the analog run where a pass brought it; else digitally once its leaf is out of analog
service. -/
def Dev.service (m : Dev) (p : Pid) (a : Container) (r : StepRun) (l row o b : Nat) : Service :=
  let x := m.part p
  match r.block l row b, placeOf a x.variant l o with
  | some bl, some e =>
    let d : DieId := Fin.ofNat 8 e.die
    let t := (m.die d).phys e.tile
    if x.digital || r.fallback.contains l || e.digital || bl.promoted.contains (tileKey d t) || tget false r.digRuns (runkey l row o b)
    then .digital
    else match tget none r.runs (runkey l row o b) with
      | some w => .analog w
      | none => if m.inService d && (m.die d).analogOk t (Fin.ofNat 4 e.leaf) then .waits else .digital
  | _, _ => .waits

/-! ### TILE_PASS (R110 to R116) -/

/-- One output's analog run of a row group, with whether it clamped and whether it holds a clipped sample; a promoted block's is discarded
(R121). -/
def passRun (x : Part) (r : StepRun) (y : Tile) (f : Leaf) (e : LayerEntry) (key row : Nat) (ss : List ColSample)
    (l o lane g : Nat) : Option (Word × Bool × Bool) :=
  match r.block l row g with
  | some bl =>
    if bl.promoted.contains key then none
    else
      let c := clampRun (runRegister y f e bl.width bl.tileCodes ss g lane)
      some (forwardRun c.1 bl.scale (tget 0 x.com.scales (bkey l o g)), c.2, runClipped y e bl.width ss g lane)
  | none => none

/-- Outputs of the layer on the leaf with their lanes. -/
def leafOuts (l : Nat) (runs : List PlaceEntry) : List (Nat × Nat) :=
  (runs.filter (fun pe => pe.layer = l)).flatMap (fun pe => (List.range pe.outCount).map (fun j => (pe.outFirst + j, pe.laneFirst + j)))

/-- The row groups of a mask. -/
def maskGroups (groups : BitVec 4) : List Nat := (List.range 4).filter (fun g => groups.getLsbD g)

/-- A run that a pass forms: its output and row group, its promoted value, and whether it clamped or holds a clipped sample. -/
structure PassRun where
  out     : Nat
  group   : Nat
  val     : Word
  clamped : Bool
  clipped : Bool
  deriving DecidableEq, Repr

/-- The runs of a pass: for each output of the layer on the leaf and each row group of the mask. -/
def passRuns (x : Part) (r : StepRun) (y : Tile) (f : Leaf) (e : LayerEntry) (key row : Nat) (groups : BitVec 4)
    (ss : List ColSample) (l : Nat) (runs : List PlaceEntry) : List PassRun :=
  (leafOuts l runs).flatMap (fun o => (maskGroups groups).filterMap (fun g =>
    (passRun x r y f e key row ss l o.1 o.2 g).map (fun v => { out := o.1, group := g, val := v.1, clamped := v.2.1, clipped := v.2.2 })))

/-- The reference columns' samples of every phase of a pass (R103, R110): row groups ascending, planes from the most significant down, their
repeats in a row; each phase with its n_s. -/
def refPhasesOf (r : StepRun) (e : LayerEntry) (row : Nat) (groups : BitVec 4) (ss : List ColSample) (l : Nat) : List (Int × List (Nat × Int)) :=
  (maskGroups groups).flatMap (fun g => match r.block l row g with
    | some bl => (List.range (planes bl.width)).reverse.flatMap (fun k =>
        (List.range (2 ^ repLog e bl.width k)).map (fun i =>
          (netRows bl.width k bl.tileCodes, (List.range 32).map (fun n => (n, 256 * (samplesOf ss g k (1120 + n) true).getD i 0)))))
    | none => [])

/-- A phase's reference samples go to the leaf's tracking interval, which ends with its 4,096th phase (R192). -/
def Leaf.gather (y : Tile) (t16 : Int) (f : Leaf) (ph : Int × List (Nat × Int)) : Leaf :=
  let x := f.track.add y t16 ph.1 ph.2
  if x.phases = 4096 then { f with track := Track.reset, trackDone := some x } else { f with track := x }

/-- Whether a pass brought every reference sample of a block's phases. -/
def refsWhole (e : LayerEntry) (n : Nat) (ss : List ColSample) (group : Nat) : Bool :=
  (List.range (planes n)).all (fun k => (List.range 32).all (fun c =>
    decide ((samplesOf ss group k (1120 + c) true).length = 2 ^ repLog e n k)))

/-- Whether a pass has what it needs: the blocks of its row groups converted, and every sample of every read (R55, R103, R108). -/
def passWhole (a : Container) (r : StepRun) (y : Tile) (e : LayerEntry) (row : Nat) (groups : BitVec 4) (ss : List ColSample) (l : Nat)
    (runs : List PlaceEntry) : Bool :=
  (maskGroups groups).all (fun g => decide (blocksOf a l ≤ g) || (match r.block l row g with
    | some bl => refsWhole e bl.width ss g && (leafOuts l runs).all (fun o => readWhole y e bl.width ss g o.2)
    | none => false))

/-- Whether a tile is sampled for a layer in a step (R251). -/
def sampledTile (a : Container) (x : Part) (r : StepRun) (phys : Nat → Nat → Nat) (d t l : Nat) : Bool :=
  match ((layerTiles a x.variant l).zipIdx.find? (fun e => decide (e.1.1 = d) && decide (phys d e.1.2 = t))) with
  | some e => decide ((e.2 + r.number.toNat) % 2 ^ (x.smpForce.toNat % 16) = 0)
  | none => false

/-- What the comparison of a run will need, at the start of its pass (R252). -/
def sampleRun (a : Container) (x : Part) (die : Die) (d t : Nat) (f : Leaf) (l : Nat) (v : PassRun) : Sampled :=
  let t16 := die.tempAt t
  { die := d, tile := t, t16 := t16, dt16 := (t16 - f.cal.tcal.toInt).natAbs, band := (die.tile t).band, maxWear := (die.tile t).maxWear.toNat,
    frozen := f.frozen, codes := programmedCodes a x.com l v.out v.group, q := tget 0 x.com.scales (bkey l v.out v.group) }

/-- The staged results of a pass: the runs, which of them hold clipped samples (R180), and for a sampled tile what their comparisons
need. A probe pass is not sampled (log entry 109). -/
def stagePass (l row : Nat) (vs : List PassRun) (sample : Option (PassRun → Sampled)) (r : StepRun) : StepRun :=
  let key (v : PassRun) : Nat := runkey l row v.out v.group
  { StepRun.reach 2 r with
    runs := tsetAll none r.runs (vs.map (fun v => (key v, some v.val)))
    clippedRuns := (r.clippedRuns ++ (vs.filter (fun v => v.clipped)).map key).eraseDups
    sampled := match sample with
      | some f => if r.probing then r.sampled else tsetAll none r.sampled (vs.map (fun v => (key v, some (f v))))
      | none => r.sampled }

/-- TILE_PASS: a leaf read for one input vector. A tile served digitally is not read, and a layer in fallback or the all-digital
form reads only its sampled tiles (R254). -/
def execTilePass (p : Pid) (d : DieId) (t : TileId) (l : LeafId) (layer row : Nat) (groups : BitVec 4) (ss : List ColSample)
    (s : State) : Res :=
  s.go fun m =>
    let x := m.part p
    let die := m.die d
    match x.run, x.almanac, x.layer layer with
    | some r, some a, some e =>
      let runs := die.leafRuns a x.variant d.val t.val l.val
      let phys (n q : Nat) : Nat := (m.die (Fin.ofNat 8 n)).phys q
      let digital := x.digital || r.fallback.contains layer
      let sampled := sampledTile a x r phys d.val t.val layer
      if x.issues && m.inService d && die.analogOk t.val l && m.owner (resLeaf d t.val l.val) = some p
          && m.owner (resTile d t.val) = some p && (die.rot.tile ≠ some t.val)
          && runs.any (fun e => e.layer = layer) && (die.tile t.val).win.isNone && (!digital || sampled)
          && passWhole a r (die.tile t.val) e row groups ss layer runs then
        let y := die.tile t.val
        let f := y.leaf l
        let vs := passRuns x r y f e (tileKey d t.val) row groups ss layer runs
        let clips := (ss.map (fun c => clippedIn c.fine c.codes)).foldl (· + ·) 0
        let clamps := (vs.filter (fun v => v.clamped)).length
        let strobe := holdChoice (die.tempAt t.val) y.hold5
        (m.modDie d (fun x => (((x.modTile t.val (fun y =>
            ({ y with activeLeaf := l, passLeaf := l, hold5 := strobe } : Tile).modLeaf l (fun f =>
              (refPhasesOf r e row groups ss layer).foldl (Leaf.gather y (die.tempAt t.val)) f))).phases (m.effCap d) m.free strobe t.val
          ((maskGroups groups).foldl (fun n g => n + phasesOf a e layer g) 0)).count .clip clips).count (.ovf p layer 5 0) clamps)).drawn 1
          |>.modRun p (stagePass layer row vs (if sampled then some (sampleRun a x die d.val t.val f layer) else none))
      else m
    | _, _, _ => m

/-! ### A layer's outputs (R87, R89) -/

/-- A of R87 where every run is settled: the wide sum of the block runs in ascending block, a digital run in the place of an analog one
where the digital path serves it, with the counts of the conversions. -/
def Dev.analogSum (m : Dev) (p : Pid) (a : Container) (r : StepRun) (l row o : Nat) : Option (Word × Tally) :=
  let c := (m.part p).com
  (allSome ((List.range (blocksOf a l)).map (fun b => match m.service p a r l row o b with
    | .analog w => some (w, Tally.none)
    | .digital => (r.block l row b).map (fun bl => digitalRun a c bl l o b)
    | .waits => none))).map (fun vs => (wideSum (vs.map (fun v => v.1)), (vs.map (fun v => v.2)).foldl Tally.add Tally.none))

/-- One output of a forward tile: its row, output, value y = RNE(A + E), and the counts of its digital runs' conversions. -/
structure FwdOut where
  row   : Nat
  out   : Nat
  val   : Word
  tally : Tally
  deriving DecidableEq, Repr

/-- 64 outputs of a forward product whose digital terms E the cube has summed, once every run of A is settled. Rows and outputs beyond
the layer carry nothing. -/
def Dev.forwardTile (m : Dev) (p : Pid) (a : Container) (r : StepRun) (l row0 o0 : Nat) (es : List Word) : Option (List FwdOut) :=
  allSome (((List.range 64).filter (fun q => decide (o0 + q % 8 < outsOf a l) && decide (row0 + q / 8 < rowsIn a r.tokens l))).map (fun q =>
    (m.analogSum p a r l (row0 + q / 8) (o0 + q % 8)).map (fun v =>
      { row := row0 + q / 8, out := o0 + q % 8, val := add32 v.1 (es.getD q 0#32), tally := v.2 })))

/-- Whether every output of a layer is formed, for every row. -/
def layerDone (a : Container) (r : StepRun) (l : Nat) : Bool :=
  (List.range (rowsIn a r.tokens l)).all (fun row => (List.range (outsOf a l)).all (fun o => (tget none r.outs (wkey l row o)).isSome))

end Sys2Proof.Machine
end

