-- ==== Sys2Proof/Machine/Units.lean ====
section
/-! DEFINITION. Faults of a cube or W-unit: rerun, retirement, takeover (R234, R386). -/

namespace Sys2Proof.Machine

/-- Numbers after `n` in ascending order with wrap-around, below `k`, `n` itself left out. -/
def cyclic (n k : Nat) : List Nat := (List.range (k - 1)).map (fun i => (n + 1 + i) % k)

/-- The first cube that `ok` takes after cube `c` (R234): of its group, else of the next group of the same partition (R386). The second
answer says whether it lies in another group. -/
def Dev.cubeAfter (m : Dev) (d : DieId) (c : Nat) (ok : Cube → Bool) : Option (Nat × Bool) :=
  let x := m.die d
  let g := c / 16
  match ((cyclic (c % 16) 16).map (fun i => 16 * g + i)).find? (fun n => ok (x.cube n)) with
  | some n => some (n, false)
  | none =>
    let gs := (cyclic g 64).filter (fun h => decide (m.owner (resGroup d h) = m.owner (resGroup d g)))
    ((gs.flatMap (fun h => (List.range 16).map (fun i => 16 * h + i))).find? (fun n => ok (x.cube n))).map (fun n => (n, true))

/-- The takeover of a cube: the next in service. -/
def Dev.cubeTakeover (m : Dev) (d : DieId) (c : Nat) : Option (Nat × Bool) := m.cubeAfter d c (fun u => decide (u.st = .inService))

/-- The takeover of a W-unit: the next in service of the die bound to the same partition. -/
def Dev.wunitTakeover (m : Dev) (d : DieId) (u : Nat) : Option Nat :=
  (cyclic u 64).find? (fun n => decide (((m.die d).wunit n).st = .inService)
    && decide (m.owner (resWunit d n) = m.owner (resWunit d u)))

/-- Owner of a cube or W-unit. -/
def Dev.unitOwner (m : Dev) (d : DieId) (isCube : Bool) (n : Nat) : Option Pid :=
  if isCube then m.owner (resGroup d (n / 16)) else m.owner (resWunit d n)

/-- An event of a cube (KIND 2) or W-unit (KIND 3), for its owner. -/
def Dev.raiseUnit (m : Dev) (d : DieId) (isCube : Bool) (n : Nat) (c : Ev) : Dev :=
  m.raise (some d) { evUnit c d (if isCube then 2 else 3) n 0 with part := (m.unitOwner d isCube n).map (fun p => p.val) }

/-- Retire a unit: its work passes to its takeover, the retirement is recorded in module flash, and with no unit in service
the owner's job stops (R234, R386). -/
def Dev.retireUnit (m : Dev) (d : DieId) (isCube : Bool) (n : Nat) : Dev :=
  let stop (k : Dev) : Dev := match m.unitOwner d isCube n with
    | some p => k.endJob p
    | none => k
  if isCube then
    let taker := m.cubeTakeover d n
    let m1 := m.modDie d (fun x => x.modCube n (fun c => { c with st := .retired }))
    let m2 := { m1 with flash := { m1.flash with cubesRet := tset false m1.flash.cubesRet (d.val * 1024 + n) true } }
    let m3 := m2.raiseUnit d true n (.mce 2)
    match taker with
    | some (_, other) => if other then m3.raiseUnit d true n (.mce 3) else m3
    | none => stop (m3.raiseUnit d true n (.mce 3))
  else
    let taker := m.wunitTakeover d n
    let m1 := m.modDie d (fun x => x.modWunit n (fun u => { u with st := .retired }))
    let m2 := { m1 with flash := { m1.flash with wunitsRet := tset false m1.flash.wunitsRet (d.val * 64 + n) true } }
    let m3 := m2.raiseUnit d false n (.wun 2)
    if taker.isSome then m3 else stop m3

/-- A count of reruns that saturates at 0xFF. -/
def rerunUp (b : Byte) : Byte := if b = 0xFF#8 then b else b + 1

/-- The operation of a cube from its start (R234): its accumulators start again, beside the partial that ACC_KEEP brought, and the sequencer
loads its operand halves again. -/
def Cube.again (c : Cube) : Cube :=
  { c with a0 := { c.a0 with full := false }, a1 := { c.a1 with full := false }, b0 := { c.b0 with full := false },
           b1 := { c.b1 with full := false }, acc := List.replicate 64 ((c.op.map (fun d => initAcc d.kind)).getD 0), runsDone := 0, faults := c.faults + 1, reruns := rerunUp c.reruns }

/-- Whether a unit is retired. -/
def Dev.unitRetired (m : Dev) (d : DieId) (isCube : Bool) (n : Nat) : Bool :=
  if isCube then decide (((m.die d).cube n).st = .retired) else decide (((m.die d).wunit n).st = .retired)

/-- A fault in a cube or W-unit (R234): the operation runs again on the same unit, and the second fault within a step retires the unit. A
retired unit has no work to fault. -/
def Dev.unitFault (m : Dev) (d : DieId) (isCube parity : Bool) (n : Nat) : Dev :=
  if m.unitRetired d isCube n then m
  else
    let before := if isCube then ((m.die d).cube n).faults else ((m.die d).wunit n).faults
    let m1 := if isCube
      then m.modDie d (fun x => ((x.modCube n Cube.again).count (.mce 0) 1).count (.mce 1) parity.toNat)
      else m.modDie d (fun x => x.modWunit n (fun u => { u with faults := u.faults + 1, reruns := rerunUp u.reruns }))
    let m2 := m1.raiseUnit d isCube n (if isCube then .mce 1 else .wun 1)
    if before = 0 then m2 else m2.retireUnit d isCube n

/-- A cube with nothing of an owner's, or of a test's, in it (R235, R365, R387). -/
def Cube.zeroed (u : Cube) : Cube := { Cube.reset with st := u.st, reruns := u.reruns, faults := u.faults, visits := u.visits }

/-- Whether an operation is in progress on the cube: issued, and its result half not yet released (R208). -/
def Cube.busy (c : Cube) : Bool := c.op.isSome || c.res0.owner.isSome || c.res1.owner.isSome

/-- The state a cube shows and its work follows; it changes at operation boundaries (R234, R237). -/
def Cube.shown (c : Cube) : UnitState := if c.busy then .inService else c.st

/-- The unit that carries a unit's work now: itself, or its takeover while it is retired. -/
def Dev.cubeFor (m : Dev) (d : DieId) (n : Nat) : Nat :=
  if ((m.die d).cube n).shown = .retired then ((m.cubeAfter d n (fun u => decide (u.shown = .inService))).map (fun t => t.1)).getD n else n
def Dev.wunitFor (m : Dev) (d : DieId) (n : Nat) : Nat :=
  if ((m.die d).wunit n).st = .retired then (m.wunitTakeover d n).getD n else n

end Sys2Proof.Machine
end

