-- ==== Sys2Proof/Machine/Mace.lean ====
section
/-! DEFINITION. The Mace cubes (R207 to R219, R234, R235): issuing an operation, loading its operand halves, and its result; gathers
(R286) and the stash's prefetch (R249). -/

namespace Sys2Proof.Machine

/-! ### Operand sources -/

/-- What a load brings: the half's contents, the runs that the digital path now serves (R134), and the counts of its conversions by
layer, all in class WGT (R89, R461). -/
structure Loaded where
  half  : Half
  dig   : List Nat
  tally : List (Nat × Tally)
  deriving DecidableEq, Repr

/-- A half loaded whole. -/
def loadedHalf (fmt : CubeFmt) (elems : List (BitVec 16)) (exps : List Int) (scales : List Byte) : Loaded :=
  { half := { full := true, fmt := fmt, elems := elems, exps := exps, scales := scales, skip := [] }, dig := [], tally := [] }

/-- Place `q` of a half's 512 elements for tiles that lie side by side along the reduction: its row or column, and its reduction index;
and for tiles that lie one below the other. -/
def placeRow (q : Nat) : Nat × Nat := (q % 64 / 8, 8 * (q / 64) + q % 8)
def placeCol (q : Nat) : Nat × Nat := (q % 8, 8 * (q / 64) + q % 64 / 8)

/-- 512 elements by their row or column and reduction index. -/
def elems512 (place : Nat → Nat × Nat) (f : Nat → Nat → BitVec 16) : List (BitVec 16) :=
  (List.range 512).map (fun q => f (place q).1 (place q).2)

/-- Eight 8×8 tiles as their producer wrote them (R208): 8-bit codes, or binary16. -/
def Die.loadTiles (x : Die) (p : Pid) (addr : Nat) : Option Loaded :=
  match x.pieceAt p addr 1 with
  | some c =>
    let size : Nat := if c.fmt = .bin16 then 2 else 1
    let fmt : Option CubeFmt := match c.fmt with
      | .nf8 => some .nf8
      | .ng8 => some .ng8
      | .bin16 => some .bin16
      | _ => none
    match fmt, allSome ((List.range 512).map (fun q =>
        match x.pieceAt p (addr + size * q) size with
        | some g => if g.fmt = c.fmt ∧ g.k = c.k then some (BitVec.ofNat 16 (leValue (x.bytesAt (addr + size * q) size))) else none
        | none => none)) with
    | some f, some es => some (loadedHalf f es (List.replicate 8 c.k) [])
    | _, _ => none
  | none => none

/-- The converted blocks of eight vectors from `row0` on; vectors beyond the layer's rows have none. -/
def blocksAt (a : Container) (r : StepRun) (l row0 b : Nat) : Option (List (Option BiBlock)) :=
  allSome ((List.range 8).map (fun i => if row0 + i < rowsIn a r.tokens l then (r.block l (row0 + i) b).map some else some none))

/-- Of eight vectors by eight outputs, the run keys that the digital path serves, and their places 8i + j; `none` while one waits (DESIGN
CHOICE, log entry 108). -/
def Dev.servedDigitally (m : Dev) (p : Pid) (a : Container) (r : StepRun) (l row0 o0 b : Nat) : Option (List (Nat × Nat)) :=
  (allSome ((List.range 64).map (fun q =>
    if row0 + q / 8 < rowsIn a r.tokens l ∧ o0 + q % 8 < outsOf a l then
      match m.service p a r l (row0 + q / 8) (o0 + q % 8) b with
      | .analog _ => some none
      | .digital => some (some (runkey l (row0 + q / 8) (o0 + q % 8) b, q))
      | .waits => none
    else some none))).map (fun l => l.filterMap id)

/-- A block of BI input: `codes` and the block scale of each vector. -/
def biHalf (bs : List (Option BiBlock)) (codes : BiBlock → List Int) : Loaded :=
  let at' (i : Nat) : Option BiBlock := (bs[i]?).join
  loadedHalf .biBlock (elems512 placeRow (fun i x => match at' i with
    | some bl => signMag ((codes bl).getD x 0)
    | none => 0)) (List.replicate 8 0) ((List.range 8).map (fun i => match at' i with
    | some bl => bl.scale
    | none => 0))

/-- The outlier slots of eight vectors' blocks (R119): NF8 under each block's own exponent. -/
def aniseHalf (bs : List (Option BiBlock)) : Loaded :=
  let at' (i : Nat) : Option BiBlock := (bs[i]?).join
  loadedHalf .nf8 (elems512 placeRow (fun i x => match at' i with
    | some bl => match bl.slots.find? (fun s => s.1 = x) with
      | some s => s.2.setWidth 16
      | none => 0
    | none => 0)) ((List.range 8).map (fun i => match at' i with
    | some bl => bl.kOut
    | none => 0)) []

/-- A half of NG8 codes made from weights: the codes with their counts, one exponent, and the counts of the conversions. -/
def weightHalf (l : Nat) (k : Int) (cs : List (Byte × Tally)) : Loaded :=
  { loadedHalf .ng8 (cs.map (fun c => c.1.setWidth 16)) (List.replicate 8 k) [] with
    tally := [(l, (cs.map (fun c => c.2)).foldl Tally.add Tally.none)] }

/-- Nothing there: a code of zero. -/
def noCode : Byte × Tally := (0, Tally.none)

/-- A layer's master in NG8 (R461). -/
def masterCode (a : Container) (c : Committed) (l o i : Nat) : Byte × Tally :=
  if o < outsOf a l ∧ i < rowsOf a l then toNG8 (tget 0 c.kMaster l) false none (f32 (tget 0 c.masters (wkey l o i))) else noCode

/-- An epact in NG8 where its block's committed table holds its row (R118); every other entry counts as zero. -/
def epactCode (c : Committed) (l o i : Nat) : Byte × Tally :=
  if (tget [] c.tables (bkey l o (i / 64))).any (fun e => e.1 = i) then toNG8 (tget 0 c.kEpact l) false none (f32 (tget 0 c.epacts (wkey l o i)))
  else noCode

/-- The contents of an operand half from its source, for partition `p` on die `d`; `none` where the source is not there yet (R220). -/
def Dev.readOpnd (m : Dev) (p : Pid) (d : DieId) (a : Container) (r : StepRun) : OpndSrc → Option Loaded
  | .tiles addr => (m.die d).loadTiles p addr
  | .blockInput l row0 o0 b => match blocksAt a r l row0 b, m.servedDigitally p a r l row0 o0 b with
    | some bs, some ds =>
      let h := biHalf bs (fun bl => bl.codes)
      some { h with half := { h.half with skip := ds.map (fun e => e.2) }, dig := ds.map (fun e => e.1) }
    | _, _ => none
  | .anise l row0 o0 b => match blocksAt a r l row0 b, m.servedDigitally p a r l row0 o0 b with
    | some bs, some ds =>
      let h := aniseHalf bs
      some { h with half := { h.half with skip := ds.map (fun e => e.2) }, dig := ds.map (fun e => e.1) }
    | _, _ => none
  | .tileRead l row0 b => (blocksAt a r l row0 b).map (fun bs => biHalf bs (fun bl => bl.tileCodes))
  | .epacts l o0 b =>
    let c := (m.part p).com
    some (weightHalf l (tget 0 c.kEpact l) ((List.range 512).map (fun q => epactCode c l (o0 + (placeRow q).1) (64 * b + (placeRow q).2))))
  | .masters l o0 b =>
    let c := (m.part p).com
    some (weightHalf l (tget 0 c.kMaster l) ((List.range 512).map (fun q => masterCode a c l (o0 + (placeRow q).1) (64 * b + (placeRow q).2))))
  | .mastersT l o0 i0 =>
    let c := (m.part p).com
    some (weightHalf l (tget 0 c.kMaster l) ((List.range 512).map (fun q => masterCode a c l (o0 + (placeCol q).2) (i0 + (placeCol q).1))))
  | .progCodes l o0 b =>
    let c := (m.part p).com
    some (loadedHalf .tw8 (elems512 placeRow (fun j x => (tw8 (if 64 * b + x < rowsOf a l ∧ o0 + j < outsOf a l then codeAt a c.prog l (o0 + j) (64 * b + x) else 0)).setWidth 16))
      (List.replicate 8 0) ((List.range 8).map (fun j => tget 0 c.scales (bkey l (o0 + j) b))))
  | .stashInput l row0 c0 =>
    (allSome ((List.range 64).map (fun x => if row0 + x < rowsIn a r.tokens l then (r.block l (row0 + x) (c0 / 64)).map some else some none))).map (fun bs =>
      let at' (i : Nat) : Option BiBlock := (bs[i]?).join
      loadedHalf .biScaled (elems512 placeCol (fun i x => match at' x with
        | some bl => signMag (bl.codes.getD ((c0 + i) % 64) 0)
        | none => 0)) (List.replicate 8 0) ((List.range 64).map (fun x => match at' x with
        | some bl => bl.scale
        | none => 0)))
  | .stashOutput l row0 c0 => match tensorOf a l 0 with
    | some e =>
      let k := tget 0 r.scale e.1
      (allSome ((List.range 512).map (fun q =>
        if row0 + (placeCol q).2 < rowsIn a r.tokens l ∧ c0 + (placeCol q).1 < outsOf a l then
          (tget none r.outs (wkey l (row0 + (placeCol q).2) (c0 + (placeCol q).1))).map (fun w => (toNF8 k (f32 w)).1.setWidth 16)
        else some 0#16))).map (fun es => loadedHalf .nf8 es (List.replicate 8 k) [])
    | none => none

/-- The layer whose stash an operand reads in the backward pass. -/
def opndLayer : OpndSrc → Option Nat
  | .stashInput l _ _ => some l
  | .stashOutput l _ _ => some l
  | _ => none

/-- A backward consumer has to wait for a layer's tier-3 stash (R249): EV-WUN-05 once in the step, and PREFETCH_LATE once for each layer
waited for (DESIGN CHOICE, log entry 102). -/
def Dev.lateStash (m : Dev) (p : Pid) (l : Nat) : Dev :=
  match (m.part p).run with
  | some r =>
    if r.late.contains l then m
    else ((when r.late.isEmpty (fun n => n.raiseP n.map.primary p { ev (.wun 5) with layer := some l }) m).countDecision (.stepc p 5) 1).modRun p
      (fun r => { r with late := r.late ++ [l] })
  | none => m

/-! ### Operations -/

/-- The buffer halves of run `n`. -/
def Cube.halfA (c : Cube) (n : Nat) : Half := if n % 2 = 0 then c.a0 else c.a1
def Cube.halfB (c : Cube) (n : Nat) : Half := if n % 2 = 0 then c.b0 else c.b1

/-- Consume one run when both its halves are full: its products pass the run registers and enter the accumulators (R82, R84). -/
def Cube.oneRun (c : Cube) : Cube :=
  match c.op with
  | some d =>
    let n := c.runsDone
    let a := c.halfA n
    let b := c.halfB n
    let len := if n + 1 = d.runs then d.lastLen else 64
    if n < d.runs && a.full && b.full then
      let c1 : Cube := { c with runRegs := regRun d a b len c.runRegs, acc := accRun d a b len c.acc, runsDone := n + 1 }
      if n % 2 = 0 then { c1 with a0 := a.spent, b0 := b.spent } else { c1 with a1 := a.spent, b1 := b.spent }
    else c
  | none => c

/-- An output tile in its layout (R208). -/
def laidOut (outT : Bool) (t : List Word) : List Word := if outT then transpose8 t else t

/-- The finished segment in its result half, with the partial that ACC_KEEP put before it, held for the partition until released. -/
def Cube.settle (c : Cube) : Cube :=
  match c.op with
  | some d =>
    if c.runsDone = d.runs then
      let r : ResHalf := { kind := some d.kind, backward := d.backward, vals := laidOut d.outT c.acc, part := c.part.map (laidOut d.outT),
                           owner := some d.owner }
      let c1 : Cube := { c with op := none, part := [], runsDone := 0 }
      if d.resHalf = 0 then { c1 with res0 := r } else { c1 with res1 := r }
    else c
  | none => c

/-- Go on while operands are there: at most both halves' runs. -/
def Cube.advance (c : Cube) : Cube := c.oneRun.oneRun.settle

/-- A result half. -/
def Cube.kept (c : Cube) (h : Fin 2) : ResHalf := if h = 0 then c.res0 else c.res1

/-- Begin an operation whose result half is released. One whose ACC_KEEP names a half that no earlier operation of its kind and pass wrote
does not start. A kept half enters as the preceding segment's partial (R214); under OUT_T the half is taken as it was stored and transposed
back (DESIGN CHOICE, log entry 100). -/
def Cube.begin (c : Cube) (d : CubeDesc) : Option Cube :=
  let start (p : List (List Word)) : Cube :=
    { c with op := some d, acc := List.replicate 64 (initAcc d.kind), part := p, runsDone := 0 }
  if (c.kept d.resHalf).owner.isSome then none
  else match d.accKeep with
    | none => some (start [])
    | some h =>
      let k := c.kept h
      if k.kind.any (sameKind d.kind) && k.backward == d.backward
      then some (start [laidOut d.outT (joinSegments d.kind (k.part ++ [k.vals]))]) else none

/-- CUBE_OPERATION: the sequencer issues an operation to a cube of its partition's group. A retired cube's work runs on its
takeover and is counted (R234). -/
def execCubeOperation (d : DieId) (c : CubeId) (op : CubeDesc) (s : State) : Res :=
  s.go fun m =>
    let x := m.die d
    let n := m.cubeFor d c.val
    let u := x.cube n
    if m.inService d && (m.part op.owner).issues && m.owner (resGroup d (n / 16)) = some op.owner && u.st = .inService
        && u.op.isNone then
      match u.begin op with
      | some v => m.modDie d (fun x => (x.modCube n (fun _ => v)).count (.mce 2) (if n = c.val then 0 else 1))
      | none => m
    else m

/-- Put a loaded half in its place. -/
def Cube.load (sideB : Bool) (half : Fin 2) (h : Half) (u : Cube) : Cube :=
  if sideB then (if half = 0 then { u with b0 := h } else { u with b1 := h })
  else (if half = 0 then { u with a0 := h } else { u with a1 := h })

/-- A half as it stands. -/
def Cube.opnd (u : Cube) (sideB : Bool) (half : Fin 2) : Half :=
  if sideB then (if half = 0 then u.b0 else u.b1) else (if half = 0 then u.a0 else u.a1)

/-- Mark block runs as served by the digital path (R134), from a forward product's digital terms. -/
def StepRun.serveDigitally (ks : List Nat) (r : StepRun) : StepRun := { r with digRuns := tsetAll false r.digRuns (ks.map (fun k => (k, true))) }

/-- OPERAND_HALF_FULL: the sequencer has loaded the free half of an operand buffer for the operation in progress, and marks it full
(R219). A source that is not written yet is waited for (R220), and the half stays as it is (DESIGN CHOICE, log entry 118). -/
def execOperandHalfFull (d : DieId) (c : CubeId) (sideB : Bool) (half : Fin 2) (src : OpndSrc) (s : State) : Res :=
  s.go fun m =>
    let n := m.cubeFor d c.val
    let u := (m.die d).cube n
    match u.op with
    | none => m
    | some op =>
      let p := op.owner
      match (m.part p).run, (m.part p).almanac with
      | some r, some a =>
        let late := (opndLayer src).filter (stashWaits a r)
        if !m.inService d || (m.part p).st ≠ .running || (u.opnd sideB half).full then m
        else match late with
          | some l => m.lateStash p l
          | none => match m.readOpnd p d a r src with
            | some h =>
              let v := (u.load sideB half h.half).advance
              let ran := decide (v.runsDone ≠ u.runsDone) || v.op.isNone
              let m1 := (m.modDie d (fun x => { x.modCube n (fun _ => v) with
                stepM := if ran then x.stepM.add x.ms 1 (freePs m.free) else x.stepM })).drawn 1
              (h.tally.foldl (fun n t => n.countTally d p t.1 4 t.2) m1).modRun p (StepRun.serveDigitally h.dig)
            | none => m
      | _, _ => m

/-! ### Results (R87, R89, R213) -/

/-- Convert values to NF8 under exponent `k`. -/
def nf8Row (k : Int) (vs : List Word) : List (Byte × Tally) := vs.map (fun v => toNF8 k (f32 v))

/-- Convert one value to NG8 under tensor entry `e`: its INF_ON_OVF and SR bits (R77, R78); the drawn value's BLOCK places the element in
its tensor (R231). -/
def ng8At (a : Container) (step : Dbl) (e : Nat × TensorEntry) (k : Int) (place : Nat) (v : Word) : Byte × Tally :=
  let r := if e.2.flags.getLsbD 0 then
      some (generator (jobKey a) step e.2.layer 1 e.2.site (Config.tensorBlock e.2.layer e.1 (place / 64)) (place % 64)) else none
  toNG8 k (e.2.flags.getLsbD 1) r (f32 v)

def tallies (rs : List (Byte × Tally)) : Tally := (rs.map (fun r => r.2)).foldl Tally.add Tally.none

/-- Store values as NF8 under an ACT entry's exponent, `keep` the ones that are elements of the tensor; they are stashed as they are
(R77, R89). -/
def Dev.putNF8 (m : Dev) (p : Pid) (d : DieId) (r : StepRun) (e : Nat × TensorEntry) (addr : Nat) (keep : Nat → Bool) (vs : List Word) : Dev :=
  let k := tget 0 r.scale e.1
  let rs := nf8Row k vs
  let m1 := (m.countTally d p e.2.layer 0 (tallies ((rs.zipIdx.filter (fun c => keep c.2)).map (fun c => c.1)))).modDie d (fun x =>
    x.putCodes p addr .nf8 k (rs.map (fun c => c.1)))
  (m1.addAmax p e.1 (some (maxNF8, k)) ((vs.zipIdx.filter (fun c => keep c.2)).map (fun c => c.1))).stash p d e.1

/-- Store a layer's values as NF8 under its ACT entry, or in binary32 where it carries none (R461). -/
def Dev.putAct (m : Dev) (p : Pid) (d : DieId) (a : Container) (r : StepRun) (l addr : Nat) (keep : Nat → Bool) (vs : List Word) : Dev :=
  match tensorOf a l 0 with
  | some e => m.putNF8 p d r e addr keep vs
  | none => m.modDie d (fun x => x.putWords p addr vs)

/-- The GRD entry of a number. -/
def grdEntry (a : Container) (i : Nat) : Option (Nat × TensorEntry) := match a.tensorTab[i]? with
  | some e => if e.cls = 2 then some (i, e) else none
  | none => none

/-- Store values as NG8 under a GRD entry's exponent, each at its place in the tensor. -/
def Dev.putGrad (m : Dev) (p : Pid) (d : DieId) (a : Container) (r : StepRun) (e : Nat × TensorEntry) (addr : Nat) (vs : List (Nat × Word)) : Dev :=
  let k := tget 0 r.scale e.1
  let rs := vs.map (fun v => ng8At a r.number e k v.1 v.2)
  ((m.countTally d p e.2.layer 2 (tallies rs)).modDie d (fun x => x.putCodes p addr .ng8 k (rs.map (fun c => c.1)))).addAmax p e.1
    (some (maxNG8, k)) (vs.map (fun v => v.2))

/-- A forward tile's outputs: y by R87, kept, stored and passed on as the layer's output is. -/
def Dev.putForward (m : Dev) (p : Pid) (d : DieId) (a : Container) (r : StepRun) (l row o addr : Nat) (ys : List FwdOut) : Dev :=
  let at' (q : Nat) : Option FwdOut := ys.find? (fun y => y.row = row + q / 8 && y.out = o + q % 8)
  let vs := (List.range 64).map (fun q => match at' q with
    | some y => y.val
    | none => 0)
  let m1 := m.countTally d p l 4 ((ys.map (fun y => y.tally)).foldl Tally.add Tally.none)
  let m2 := m1.modRun p (fun r => { StepRun.reach 2 r with outs := tsetAll none r.outs (ys.map (fun y => (wkey l y.row y.out, some y.val))) })
  m2.putAct p d a r l addr (fun q => (at' q).isSome) vs

/-- A tile of a weight gradient Xᵀ·G: row i is an input, column j an output (R212). -/
def putWeightGrad (a : Container) (l out0 in0 : Nat) (vs : List Word) (r : StepRun) : StepRun :=
  { StepRun.reach 4 r with
    grads := tsetAll none r.grads ((vs.zipIdx.filter (fun v => decide (out0 + v.2 % 8 < outsOf a l) && decide (in0 + v.2 / 8 < rowsOf a l))).map
      (fun v => (wkey l (out0 + v.2 % 8) (in0 + v.2 / 8), some v.1))) }

/-- What a completed product becomes; `none` while a forward tile's analog part is not settled. -/
def Dev.useProduct (m : Dev) (p : Pid) (d : DieId) (a : Container) (r : StepRun) (vs : List Word) (use : CubeUse) : Option Dev :=
  match use with
  | .sram addr => some (m.modDie d (fun x => x.putWords p addr vs))
  | .toNF8 l addr => some (m.putAct p d a r l addr (fun _ => true) vs)
  | .toNG8 ent row0 col0 cols addr => match grdEntry a ent with
    | some e => some ((m.putGrad p d a r e addr (vs.zipIdx.map (fun v => ((row0 + v.2 / 8) * cols + col0 + v.2 % 8, v.1)))).modRun p (StepRun.reach 4))
    | none => some (m.modDie d (fun x => x.putWords p addr vs))
  | .forwardOut l row o addr => (m.forwardTile p a r l row o vs).map (fun ys => m.putForward p d a r l row o addr ys)
  | .weightGrad l out0 in0 => some (m.modRun p (putWeightGrad a l out0 in0 vs))

/-- The cube whose result half a schedule's reference names: the cube itself while it holds it, else the one that took its work over. -/
def Dev.resCube (m : Dev) (f : ResRef) : Nat :=
  if (((m.die f.die).cube f.cube.val).kept f.half).owner.isSome then f.cube.val else m.cubeFor f.die f.cube.val

def Dev.resHalf (m : Dev) (f : ResRef) : ResHalf := ((m.die f.die).cube (m.resCube f)).kept f.half

/-- Release a result half of cube `f.2`: its operation ends (R208). What it holds stays for ACC_KEEP. -/
def Dev.releaseHalf (m : Dev) (f : ResRef × Nat) : Dev :=
  m.modDie f.1.die (fun x => x.modCube f.2 (fun c =>
    if f.1.half = 0 then { c with res0 := { c.res0 with owner := none } } else { c with res1 := { c.res1 with owner := none } }))

/-- CUBE_OPERATION_COMPLETE: the segments' sums, from the result halves of the cubes that reduced them, in ascending segment with `out`
the last, are joined by the tree of R213; the product goes where the schedule says, and the halves are released. -/
def execCubeOperationComplete (out : ResRef) (segs : List ResRef) (use : CubeUse) (s : State) : Res :=
  s.go fun m =>
    let own := m.resHalf out
    match own.kind, own.owner with
    | some k, some p =>
      match (m.part p).run, (m.part p).almanac with
      | some r, some a =>
        let hs := segs.map m.resHalf ++ [own]
        let ok := hs.all (fun h => h.kind.any (sameKind k) && decide (h.owner = some p) && (h.backward == own.backward))
        if m.inService out.die && segs.all (fun f => m.inService f.die) && decide ((m.part p).st = .running) && ok then
          match m.useProduct p out.die a r (joinSegments k (hs.flatMap (fun h => h.part ++ [h.vals]))) use with
          | some m1 => ((segs ++ [out]).map (fun f => (f, m.resCube f))).foldl Dev.releaseHalf m1
          | none => m
        else m
      | _, _ => m
    | _, _ => m

/-- Whether a cube works for a partition, and whether any of a partition's cube operations is in progress. -/
def Cube.busyFor (c : Cube) (p : Pid) : Bool :=
  c.op.any (fun o => decide (o.owner = p)) || decide (c.res0.owner = some p) || decide (c.res1.owner = some p)
def Dev.opsRun (m : Dev) (p : Pid) : Bool := m.healthy.any (fun d => (m.die d).cubes.any (fun e => e.2.busyFor p))

/-- UNIT_PARITY_ERROR (R234): a parity error in a unit's buffers, found when it reads its operands. -/
def execUnitParityError (d : DieId) (isCube : Bool) (n : Nat) (s : State) : Res :=
  s.go fun m => if m.inService d && decide (n < (if isCube then 1024 else 64)) then m.unitFault d isCube true n else m

/-! ### Gathers (R286) -/

/-- An index table's entries; `none` while it is not written. -/
def Dev.tableOf (m : Dev) (p : Pid) (d : DieId) (r : StepRun) : TableSrc → Option (List Nat)
  | .step first count => if first + count ≤ r.index.length then some (((r.index.drop first).take count).map (fun w => w.toNat)) else none
  | .sram addr count => allSome ((List.range count).map (fun i =>
      ((m.die d).pieceAt p (addr + 4 * i) 4).map (fun _ => leValue ((m.die d).bytesAt (addr + 4 * i) 4))))

/-- The CAPACITY rows that a gather moves, in the table's order, the rest zero rows, with the format and exponent of their source; `none`
while a row is not written. -/
def Die.gatherRows (x : Die) (p : Pid) (g : GatherEntry) (t : List Nat) (src : Nat) : Option (PieceFmt × Int × List Byte) :=
  let rows := t.take g.capacity
  (allSome (rows.map (fun i => x.pieceAt p (src + i * g.rowBytes) g.rowBytes))).map (fun cs =>
    let first := cs.head?
    let same := cs.all (fun c => decide (some c.fmt = first.map (fun f => f.fmt)) && decide (some c.k = first.map (fun f => f.k)))
    (if same then (first.map (fun f => f.fmt)).getD .bytes else .bytes, if same then (first.map (fun f => f.k)).getD 0 else 0,
     rows.flatMap (fun i => x.bytesAt (src + i * g.rowBytes) g.rowBytes) ++ List.replicate ((g.capacity - rows.length) * g.rowBytes) 0))

/-- Index entries beyond CAPACITY are not moved: each counts in GATHER_DROPPED, and EV-RING-01 is raised once in the step. -/
def Dev.dropGathered (m : Dev) (p : Pid) (r : StepRun) (layer lost : Nat) : Dev :=
  if lost = 0 then m
  else (when (!r.dropRaised) (fun n => n.raiseP n.map.primary p { ev (.ring 1) with layer := some layer }) m).modRun p (fun r =>
    { r with dropped := r.dropped + lost, dropRaised := true })

/-- GATHER (R286): the rows that the index table names move, CAPACITY of them whatever it holds, once in a step. -/
def execGather (p : Pid) (d : DieId) (gid : Nat) (table : TableSrc) (src dst : Nat) (s : State) : Res :=
  s.go fun m => match (m.part p).run, (m.part p).almanac with
    | some r, some a =>
      match a.gathers.find? (fun g => g.gatherId = gid), m.tableOf p d r table with
      | some g, some t =>
        match (m.die d).gatherRows p g t src with
        | some v =>
          if m.inService d && (m.part p).issues && !r.gathered.contains gid then
            ((m.modDie d (fun x => x.put p dst v.1 v.2.1 v.2.2)).modRun p (fun r => { r with gathered := r.gathered ++ [gid] })).dropGathered p r
              g.layer (t.length - g.capacity)
          else m
        | none => m
      | _, _ => m
    | _, _ => m

/-! ### Prefetch (R249) -/

/-- The prefetch area: the regions of kind 4 under the variant in force. -/
def prefetchArea (a : Container) (v : Nat) : Nat :=
  (((List.range 8).flatMap (fun d => (regionsIn a v d).filter (fun r => r.kind = 4))).map (fun r => r.size * stackUnit)).foldl (· + ·) 0

/-- What the prefetch may bring of a layer now: layers are served in the order in which the backward pass needs them, from PREFETCH_LEAD
layers ahead, as far as the area has room beside the layers not yet consumed. -/
def prefetchNow (a : Container) (v : Nat) (r : StepRun) (l : Nat) : Nat :=
  let at' := backwardAt a r
  let before := (List.range a.layerTab.length).filter (fun k => decide (l < k) && decide (k ≤ at'))
  let held := (((List.range a.layerTab.length).filter (fun k => decide (k ≤ at'))).map (fun k => tget 0 r.prefetched k)).foldl (· + ·) 0
  if decide (l ≤ at') && decide (at' ≤ l + a.job.prefetchLead) && before.all (fun k => decide (tier3Share a r k ≤ tget 0 r.prefetched k))
  then min (tier3Share a r l - tget 0 r.prefetched l) (prefetchArea a v - held) else 0

/-- STASH_PREFETCH (R249): the tier-3 stash of a layer enters the prefetch area, as much of it as fits. -/
def execStashPrefetch (p : Pid) (l : Nat) (s : State) : Res :=
  s.go fun m => match (m.part p).run, (m.part p).almanac with
    | some r, some a =>
      if !(m.part p).issues || r.isForward || r.probing then m
      else m.modRun p (fun r => { r with prefetched := tmod 0 r.prefetched l (· + prefetchNow a (m.part p).variant r l) })
    | _, _ => m

end Sys2Proof.Machine
end

