-- ==== Sys2Proof/Machine/XchgOps.lean ====
section
/-! DEFINITION. The gradient exchange (R260, R317, R318, R323 to R328): contributions, chunks, frames sent and delivered, the
closing ring. -/

namespace Sys2Proof.Machine

/-! ### What this device owes and holds -/

/-- The ring entry of an index under the form in force. -/
def ringOf (a : Container) (v ring : Nat) : Option RingEntry := match ringOrderOf a v with
  | some r => r.rings.find? (fun g => g.ring = ring)
  | none => none

def closingRing (a : Container) (v : Nat) : Option RingEntry := match ringOrderOf a v with
  | some r => r.rings.find? (fun g => g.closing)
  | none => none

/-- MIRROR entries of a ring that apply in a step in a role under a form (R275, R324): 0 predecessor, 1 mirror, 2 successor, 3 primary. -/
def mirrorsOf (a : Container) (v : Nat) (step : Dbl) (ring role : Nat) : List MirrorEntry :=
  a.mirrors.filter (fun e => serves e.variant v && e.ring = ring && e.role = role && decide (step.toNat % e.period = e.phase))

/-- The keys of a chunk's elements, from element `off` of the chunk on. -/
def chunkKeys (a : Container) (v bucket n chunk off count : Nat) : List Nat :=
  let es := bucketElems a v bucket
  let lo := chunkLo es.length n chunk
  let hi := chunkLo es.length n (chunk + 1)
  ((((es.drop lo).take (hi - lo)).drop off).take count).map (fun e => wkey e.1 e.2.1 e.2.2)

def chunkLen (a : Container) (v bucket n chunk : Nat) : Nat :=
  let e := (bucketElems a v bucket).length
  chunkLo e n (chunk + 1) - chunkLo e n chunk

/-- The most elements one frame carries (R315). -/
def frameElems : Nat := 3950

/-- The offsets of a chunk's frames. -/
def frameOffsets (len : Nat) : List Nat := (List.range ((len + frameElems - 1) / frameElems)).map (· * frameElems)

/-! ### Contributions (R89, R260, R461) -/

/-- Convert one bucket's elements of the accumulation buffer to NG8 under their own exponent; with the counts by layer and output, the
exponent's clamp first. -/
def contribute (a : Container) (v bucket : Nat) (r : StepRun) : StepRun × List ((Nat × Nat) × Tally) :=
  let es := bucketElems a v bucket
  let ks := es.map (fun e => wkey e.1 e.2.1 e.2.2)
  let k := expFor maxNG8 (f32 (amaxOf (ks.map (fun i => tget 0 r.accum i))))
  let one (e : Nat × Nat × Nat) : (Nat × Nat) × Byte × Tally :=
    let fl := (tensorOf a e.1 2).map (fun t => (t.2.flags, t.2.site))
    let rnd := match fl with
      | some f => if f.1.getLsbD 0 then
          some (generator (jobKey a) r.number e.1 1 f.2 (Config.blockNumber e.1 e.2.1 (e.2.2 / 64)) (e.2.2 % 64)) else none
      | none => none
    ((e.1, e.2.1), toNG8 k.1 (fl.any (fun f => f.1.getLsbD 1)) rnd (f32 (tget 0 r.accum (wkey e.1 e.2.1 e.2.2))))
  let cs := es.map one
  ({ r with contrib := tsetAll 0 r.contrib (ks.zip (cs.map (fun c => c.2.1))), kBucket := tset 0 r.kBucket bucket k.1 },
   (if k.2 then [((es.head?.map (fun e => (e.1, e.2.1))).getD (0, 0), Tally.one true false false)] else []) ++ cs.map (fun c => (c.1, c.2.2)))

/-- The die that converts a weight's gradient: the one that holds the weight (R260, R462). -/
def Dev.weightDie (m : Dev) (p : Pid) (a : Container) (l o : Nat) : Option DieId :=
  ((placeOf a (m.part p).variant l o).map (fun e => (Fin.ofNat 8 e.die : DieId))).filter m.inService |>.or m.clockDie

/-- This device's contribution to an element, widened (R318). -/
def contribution (r : StepRun) (bucket k : Nat) : Word := rne32 ((ng8Val (tget 0 r.contrib k)).scale (tget 0 r.kBucket bucket))

/-! ### Sending -/

/-- A data frame of the step. -/
def dataFrame (a : Container) (x : Part) (p : Pid) (kind ring bucket chunk off : Nat) (es : List Word) : Frame :=
  { stepFrame a x p kind ring bucket chunk with offset := off, elems := es }

/-- Send a frame of the step once: on the ring's outgoing port, and on PORT too where this device is a mirrored primary's
predecessor (R324). A device that has been expelled sends nothing (R371). -/
def Dev.sendOnce (m : Dev) (p : Pid) (a : Container) (g : RingEntry) (f : Frame) : Dev :=
  let x := m.part p
  if x.xch.expelled || sentFrame x.xch.record f.kind f.ring f.bucket f.chunk f.offset then m
  else
    let m1 := m.sendRing p g f
    if f.kind = 1 || f.kind = 2 || f.kind = 5 then
      (mirrorsOf a x.form f.step f.ring 0).foldl (fun n e => if m.usable e.port then n.sendOn e.port.die e.port.port f else n) m1
    else m1

/-- A poisoned frame in the place of one this device cannot form (R318): sent so that its own detection settles the step. -/
def poisoned (cause : Nat) (f : Frame) : Frame := { f with poison := true, cause := cause }

/-- Whether this device adds nothing at its own position in the step: it is a mirror on the ring (R324). -/
def standsAside (a : Container) (v : Nat) (step : Dbl) (ring : Nat) : Bool := !(mirrorsOf a v step ring 1).isEmpty

/-- The first partials of a bucket's chunk that starts at this position (R318). -/
def Dev.sendFirst (m : Dev) (p : Pid) (a : Container) (g : RingEntry) (bucket : Nat) : Dev :=
  match (m.part p).run with
  | some r =>
    let v := (m.part p).form
    (frameOffsets (chunkLen a v bucket g.n g.pos)).foldl (fun n off =>
      let ks := chunkKeys a v bucket g.n g.pos off frameElems
      let es := ks.map (fun k => if standsAside a v r.number g.ring then 0#32 else contribution r bucket k)
      n.sendOnce p a g (dataFrame a (n.part p) p 1 g.ring bucket g.pos off es)) m
  | none => m

/-- On the mirror path, the first partials of the primary's own chunk (R324), marked MIRROR. -/
def Dev.sendMirrorFirst (m : Dev) (p : Pid) (a : Container) (g : RingEntry) (bucket : Nat) : Dev :=
  match (m.part p).run with
  | some r =>
    let v := (m.part p).form
    (mirrorsOf a v r.number g.ring 1).foldl (fun n e =>
      let c := Config.ringPosition g.ring e.primary % g.n
      (frameOffsets (chunkLen a v bucket g.n c)).foldl (fun n off =>
        let es := (chunkKeys a v bucket g.n c off frameElems).map (contribution r bucket)
        if m.usable e.port then
          n.sendOn e.port.die e.port.port { dataFrame a (n.part p) p 1 g.ring bucket c off es with mirror := true }
        else n) n) m
  | none => m

/-! ### Delivering -/

def finiteAll (es : List Word) : Bool := es.all (fun w => (f32 w).isFinite)

/-- An uncovered non-finite value (R326): EV-CDM-07; with SKIP_PERMITTED the whole job skips the step (R263), without it the
uncovered contribution is a fault. -/
def Dev.uncovered (m : Dev) (det : Option DieId) (p : Pid) (a : Container) : Dev :=
  let skip := a.job.policy.getLsbD 0
  let m1 := m.raiseP det p { ev (.cdm 7) with action := if skip then 5 else 6 }
  if skip then (m1.raiseP det p (ev (.wun 6))).abortStep p .skip else m1.interrupt det p (m1.plainIntr 6)

/-- Put finals into the step and the exchange record (R331). -/
def Dev.putFinals (m : Dev) (p : Pid) (es : List (Nat × Word)) : Dev :=
  (m.modRun p (fun r => { r with finals := tsetAll 0 r.finals es })).modPart p (fun x =>
    { x with xch := { x.xch with record := { x.xch.record with finals := tsetAll 0 x.xch.record.finals es } } })

/-- A frame's place in the step: kind, ring, bucket and chunk as one number, and its offset. -/
def slotId (kind ring bucket chunk off : Nat) : Nat × Nat := (((kind * 256 + ring) * 4294967296 + bucket) * 65536 + chunk, off)
def slotKey (f : Frame) : Nat × Nat := slotId f.kind f.ring f.bucket f.chunk f.offset

/-- Mark a frame's slot as delivered. -/
def Dev.markSlot (m : Dev) (p : Pid) (f : Frame) : Dev := m.modRun p (fun r => { r with chunksDone := (r.chunksDone ++ [slotKey f]).eraseDups })
def StepRun.delivered (r : StepRun) (f : Frame) : Bool := r.chunksDone.contains (slotKey f)

/-- Deliver a selected REDUCE frame (R318): add the contribution and send the partial on, or form the finals here. -/
def Dev.deliverReduce (m : Dev) (p : Pid) (d : DieId) (a : Container) (g : RingEntry) (f : Frame) : Dev :=
  match (m.part p).run with
  | some r =>
    let v := (m.part p).form
    let ks := chunkKeys a v f.bucket g.n f.chunk f.offset f.elems.length
    let out := (ks.zip f.elems).map (fun e =>
      (e.1, if standsAside a v r.number g.ring then e.2 else add32 e.2 (contribution r f.bucket e.1)))
    let es := out.map (fun e => e.2)
    let m1 := m.markSlot p f
    if sendsReduce g f.chunk then m1.sendOnce p a g (dataFrame a (m1.part p) p 1 g.ring f.bucket f.chunk f.offset es)
    else if !finiteAll es then m1.uncovered (some d) p a
    else
      let m2 := m1.putFinals p out
      if sendsGather g f.chunk then m2.sendOnce p a g (dataFrame a (m2.part p) p 2 g.ring f.bucket f.chunk f.offset es) else m2
  | none => m

/-- Deliver a selected GATHER frame: the finals are taken unchanged and copied on. -/
def Dev.deliverGather (m : Dev) (p : Pid) (a : Container) (g : RingEntry) (f : Frame) : Dev :=
  let ks := chunkKeys a (m.part p).form f.bucket g.n f.chunk f.offset f.elems.length
  let m1 := (m.markSlot p f).putFinals p (ks.zip f.elems)
  if sendsGather g f.chunk then m1.sendOnce p a g (dataFrame a (m1.part p) p 2 g.ring f.bucket f.chunk f.offset f.elems) else m1

def Dev.deliverData (m : Dev) (p : Pid) (d : DieId) (a : Container) (g : RingEntry) (f : Frame) : Dev :=
  if f.kind = 1 then m.deliverReduce p d a g f else m.deliverGather p a g f

/-! ### The closing ring (R327, R328) -/

/-- This device's maxima for the JOB_AMAX tensors, in tensor-entry order. -/
def ownMaxima (a : Container) (r : StepRun) : List Word :=
  (a.tensorTab.zipIdx.filter (fun e => e.1.flags.getLsbD 2)).map (fun e => tget 0 r.amax e.2)

/-- The slot entries with this device's totals written in. On a step that is not an exchange step they stay +0. -/
def fillSlots (a : Container) (v : Nat) (r : StepRun) (old : List (Dbl × Dbl)) : List (Dbl × Dbl) :=
  match ringOrderOf a v with
  | some o =>
    (List.range o.slots.length).map (fun i =>
      let e := old.getD i (0, 0)
      match o.slots.find? (fun s => s.slot = i) with
      | some s =>
        if r.exchange then
          (if s.contributor = a.job.deviceIndex then r.shard.getD 0 else e.1, if s.mirror = a.job.deviceIndex then r.shard.getD 0 else e.2)
        else e
      | none => e)
  | none => old

def mergeMaxima (mine theirs : List Word) : List Word :=
  mine.zipIdx.map (fun e => let o := theirs.getD e.2 0#32; if (f32 e.1).lt (f32 o) then o else e.1)

/-- The job total of R327: PRIMARY where finite, else MIRROR where finite, else uncovered (`none`); and whether a mirror was taken. -/
def jobTotal (ss : List (Dbl × Dbl)) : Option (Dbl × Bool) :=
  ss.foldl (fun t s => match t with
    | none => none
    | some u =>
      if (f64 s.1).isFinite then some (add64 u.1 s.1, u.2)
      else if (f64 s.2).isFinite then some (add64 u.1 s.2, true) else none) (some (0#64, false))

/-- The closing result reaches this device: norm total, clip factor, maxima (R262, R328). -/
def Dev.closed (m : Dev) (p : Pid) (a : Container) (total : Dbl) (maxima : List Word) : Dev :=
  (m.modRun p (fun r =>
    let r1 := { StepRun.reach 5 r with closeDone := true, slots := [(total, 0)], maxima := maxima }
    if r.exchange then { r1 with norm := some total, clip := some (clipFactor a.job.clipNorm total) } else r1)).modPart p (fun x =>
    { x with xch := { x.xch with prev := XchgRecord.none, record := { x.xch.record with close := some ([(total, 0)], maxima) } } })

/-- A closing frame of the step. -/
def closeFrame (a : Container) (x : Part) (p : Pid) (kind : Nat) (g : RingEntry) (ss : List (Dbl × Dbl)) (mx : List Word) : Frame :=
  { stepFrame a x p kind g.ring 0 0 with slots := ss, maxima := mx }

/-- Send this device's CLOSE_REDUCE on, or form the job total at the final position. -/
def Dev.closeReduce (m : Dev) (p : Pid) (det : Option DieId) (a : Container) (g : RingEntry) (ss : List (Dbl × Dbl)) (mx : List Word) : Dev :=
  match (m.part p).run with
  | some r =>
    let ss1 := fillSlots a (m.part p).form r ss
    let mx1 := mergeMaxima (ownMaxima a r) mx
    if sendsReduce g 0 then m.sendOnce p a g (closeFrame a (m.part p) p 3 g ss1 mx1)
    else match jobTotal ss1 with
      | none => m.uncovered det p a
      | some t =>
        let m1 := when t.2 (fun n => n.raiseP det p (ev (.cdm 6))) (m.closed p a t.1 mx1)
        if sendsGather g 0 then m1.sendOnce p a g (closeFrame a (m1.part p) p 4 g [(t.1, 0)] mx1) else m1
  | none => m

/-- A CLOSE_REDUCE frame taken at or after the exchange-complete point. -/
def Dev.deliverCloseReduce (m : Dev) (p : Pid) (d : DieId) (a : Container) (g : RingEntry) (f : Frame) : Dev :=
  (m.markSlot p f).closeReduce p (some d) a g f.slots f.maxima

/-- A CLOSE_GATHER frame (R327). -/
def Dev.deliverCloseGather (m : Dev) (p : Pid) (a : Container) (g : RingEntry) (f : Frame) : Dev :=
  let total := (f.slots.headD (0, 0)).1
  let m1 := (m.markSlot p f).closed p a total f.maxima
  if sendsGather g 0 then m1.sendOnce p a g (closeFrame a (m1.part p) p 4 g [(total, 0)] f.maxima) else m1

/-! ### The exchange-complete point -/

/-- Every final of a chunk is held: formed here from REDUCE frames at the final position, else taken from GATHER frames. -/
def chunkHeld (a : Container) (v : Nat) (r : StepRun) (g : RingEntry) (b c : Nat) : Bool :=
  (frameOffsets (chunkLen a v b g.n c)).all (fun off => r.chunksDone.contains (slotId (if sendsReduce g c then 2 else 1) g.ring b c off))

/-- Every final of the exchange is held here. -/
def finalsHeld (a : Container) (v : Nat) (r : StepRun) : Bool := match ringOrderOf a v with
  | some o => o.rings.all (fun g => (bucketsOf o g).all (fun b => (List.range g.n).all (chunkHeld a v r g b.bucket)))
  | none => true

/-- Every frame of a slot owed has been sent. -/
def slotSent (a : Container) (v : Nat) (x : XchgRecord) (s : RingEntry × Nat × Nat × Nat) : Bool :=
  (frameOffsets (chunkLen a v s.2.2.1 s.1.n s.2.2.2)).all (fun off => sentFrame x s.2.1 s.1.ring s.2.2.1 s.2.2.2 off)

/-- Every final held, and every frame owed but the closing ones sent (R327). -/
def exchangeDone (a : Container) (v : Nat) (x : Exchange) (r : StepRun) : Bool :=
  !r.exchange || (finalsHeld a v r && (owedSlots a v r.exchange).all (fun s => s.2.1 = 3 || s.2.1 = 4 || slotSent a v x.record s))

end Sys2Proof.Machine
end

