-- ==== Sys2Proof/Machine/WunitOps.lean ====
section
/-! DEFINITION. W-unit programs: the lane functions (R221), row reductions and rows (R222 to R226), drop-out (R230), gradient
accumulation (R260), the norm and the clip factor (R261, R262), and the optimiser program (R95). -/

namespace Sys2Proof.Machine

/-- A comparison's answer as a word. -/
def boolWord (b : Bool) : Word := if b then 1#32 else 0#32

/-- One lane function; `select` takes `b` where `a` is not zero, else `c`. -/
def laneFn (f : WFn) (a b c : Word) : Word :=
  match f with
  | .add => add32 a b
  | .sub => sub32 a b
  | .mul => mul32 a b
  | .fma => fma32 a b c
  | .min => min32 a b
  | .max => max32 a b
  | .abs => if f32 a = .nan then nan32 else a &&& 0x7FFFFFFF#32
  | .neg => if f32 a = .nan then nan32 else a ^^^ 0x80000000#32
  | .select => if a = 0#32 then c else b
  | .lt => boolWord ((f32 a).lt (f32 b))
  | .eq => boolWord (f32 a ≠ .nan && f32 b ≠ .nan && decide ((f32 a).cmp (f32 b) = 0))
  | .div => div32 a b
  | .sqrt => sqrt32 a
  | .recip => div32 0x3F800000#32 a
  | .rsqrt => rsqrt32 a
  | .exp => exp32 a
  | .log => log32 a
  | .exp2 => exp2_32 a
  | .log2 => log2_32 a
  | .toF16 => (rne16 (f32 a)).setWidth 32
  | .ofF16 => rne32 (f16 (a.setWidth 16))
  | .ofCount => rne32 (FVal.ofInt a.toNat)
  | _ => 0#32

/-- Whether a function takes binary64 values, and whether it gives one: each lies in two registers, the low word first. -/
def wideIn : WFn → Bool
  | .add64 => true
  | .sub64 => true
  | .mul64 => true
  | .fma64 => true
  | .toF32 => true
  | _ => false
def wideOut : WFn → Bool
  | .add64 => true
  | .sub64 => true
  | .mul64 => true
  | .fma64 => true
  | .toF64 => true
  | _ => false

/-- One binary64 lane function. -/
def laneFn64 (f : WFn) (a b c : Dbl) : Dbl :=
  match f with
  | .add64 => add64 a b
  | .sub64 => sub64 a b
  | .mul64 => mul64 a b
  | .fma64 => fma64 a b c
  | _ => 0#64

/-- The binary64 value of two registers from `i` on. -/
def regPair (r : Tab Word) (i : Nat) : Dbl := tget 0#32 r (i + 1) ++ tget 0#32 r i

def setPair (r : Tab Word) (i : Nat) (v : Dbl) : Tab Word := tset 0#32 (tset 0#32 r i (v.setWidth 32)) (i + 1) ((v >>> 32).setWidth 32)

/-- One operation over program registers. -/
def runInstr (r : Tab Word) (i : WInstr) : Tab Word :=
  let w (n : Nat) : Word := tget 0#32 r n
  match i.fn with
  | .toF64 => setPair r i.dst (widen (w i.a))
  | .toF32 => tset 0 r i.dst (narrow (regPair r i.a))
  | f =>
    if wideIn f then setPair r i.dst (laneFn64 f (regPair r i.a) (regPair r i.b) (regPair r i.c))
    else tset 0 r i.dst (laneFn f (w i.a) (w i.b) (w i.c))

/-- Run a program's operations in their written order over its registers (R222). -/
def runCode (code : List WInstr) (regs : Tab Word) : Tab Word := code.foldl runInstr regs

/-- Registers loaded from a list, the first in register 0. -/
def loadRegs (vs : List Word) : Tab Word := tsetAll 0 [] (vs.zipIdx.map (fun v => (v.2, v.1)))

/-! ### Rows -/

/-- A row reduction (R222): lane i mod 64 combines its elements in ascending index, the lanes join by the tree of R213. -/
def rowReduce (f : Word → Word → Word) (xs : List Word) : Word :=
  let lane (j : Nat) : Option Word := match (xs.zipIdx.filter (fun x => x.2 % 64 = j)).map (fun x => x.1) with
    | [] => none
    | y :: ys => some (ys.foldl f y)
  joinTree f 0#32 ((List.range 64).filterMap lane)

def rowSum (xs : List Word) : Word := rowReduce add32 xs
def rowMax (xs : List Word) : Word := rowReduce max32 xs
def rowMin (xs : List Word) : Word := rowReduce min32 xs

/-- A count as binary32. -/
def natWord (n : Nat) : Word := rne32 (FVal.ofInt n)

/-- A row less its mean, for the mean-variance form; the row itself for RMS (R224). -/
def centred (meanVar : Bool) (x : List Word) : List Word :=
  if meanVar then let mu := div32 (rowSum x) (natWord x.length); x.map (fun v => sub32 v mu) else x

/-- r of R224, of a row or its centred form. -/
def rmsScale (x : List Word) (eps : Word) : Word := rsqrt32 (add32 (div32 (rowSum (x.map (fun v => mul32 v v))) (natWord x.length)) eps)

/-- The forward row of a normalisation (R224); the mean-variance form has its mean pass first. -/
def normForward (e : NormEntry) (x g : List Word) : List Word :=
  let d := centred e.meanVar x
  let r := rmsScale d e.eps
  (d.zip g).map (fun v => mul32 (mul32 v.2 v.1) r)

/-- dx and the terms added to dg (R224). In the mean-variance form u loses its mean too, as the gradient through the row's mean asks
(DESIGN CHOICE, log entry 112). -/
def normBackward (e : NormEntry) (x g dy : List Word) : List Word × List Word :=
  let d := centred e.meanVar x
  let r := rmsScale d e.eps
  let u := (g.zip dy).map (fun v => mul32 v.1 v.2)
  let c := rowSum ((u.zip d).map (fun v => mul32 v.1 v.2))
  let q := div32 (mul32 (mul32 c r) r) (natWord x.length)
  (((centred e.meanVar u).zip d).map (fun v => mul32 r (sub32 v.1 (mul32 v.2 q))), (dy.zip d).map (fun v => mul32 (mul32 v.1 v.2) r))

/-- The masked elements of a row under one of the almanac's mask patterns (R225). -/
def maskOf (a : Container) (pattern row n : Nat) : List Bool :=
  (List.range n).map (fun i => a.softMasks.any (fun s => s.pattern = pattern && s.row = row && decide (s.first ≤ i ∧ i < s.first + s.count)))

/-- A row with its masked elements at −∞ (R225). -/
def maskRow (z : List Word) (masked : List Bool) : List Word :=
  z.zipIdx.map (fun v => if masked.getD v.2 false then negInf32 else v.1)

/-- Whether every element is masked. -/
def allMasked (z : List Word) (masked : List Bool) : Bool := z.zipIdx.all (fun v => masked.getD v.2 false)

/-- m, e and s of R225. -/
def softParts (z : List Word) : Word × List Word × Word :=
  let m := rowMax z
  let e := z.map (fun v => exp32 (sub32 v m))
  (m, e, rowSum e)

def softForward (z : List Word) (masked : List Bool) : List Word :=
  if allMasked z masked then z.map (fun _ => 0#32)
  else let p := softParts (maskRow z masked); p.2.1.map (fun e => div32 e p.2.2)

def softBackward (z : List Word) (masked : List Bool) (dp : List Word) : List Word :=
  if allMasked z masked then z.map (fun _ => 0#32)
  else
    let p := softForward z masked
    let c := rowSum ((dp.zip p).map (fun v => mul32 v.1 v.2))
    (p.zip dp).map (fun v => mul32 v.1 (sub32 v.2 c))

/-- The loss row (R226): its term and its gradient. -/
def lossParts (lscale : Word) (z : List Word) (tgt : Nat) : Dbl × List Word :=
  let p := softParts z
  let lse := add32 p.1 (log32 p.2.2)
  let d := p.2.1.map (fun e => div32 e p.2.2)
  let d1 := d.set tgt (sub32 (d.getD tgt 0#32) 0x3F800000#32)
  (widen (sub32 lse (z.getD tgt 0#32)), d1.map (fun v => mul32 v lscale))

/-- The loss total of R226 over the rows' terms: chunks of 64 rows from +0 in ascending row, joined by the tree. -/
def lossTotal (ts : List Dbl) : Dbl :=
  joinTree add64 0 ((List.range ((ts.length + 63) / 64)).map (fun c => ((ts.drop (64 * c)).take 64).foldl add64 0#64))

/-- Drop-out of a row's elements under a site's entry (R230), the row's element 0 at element `first` of its tensor. -/
def dropoutRow (a : Container) (step : Dbl) (e : Nat × TensorEntry) (first : Nat) (x : List Word) : List Word :=
  if e.2.drop16 = 0 then x
  else
    let sc := div32 0x47800000#32 (natWord (65536 - e.2.drop16))
    x.zipIdx.map (fun v =>
      let q := first + v.2
      if generator (jobKey a) step e.2.layer 0 e.2.site (Config.tensorBlock e.2.layer e.1 (q / 64)) (q % 64) < e.2.drop16 then 0#32 else mul32 v.1 sc)

/-! ### Accumulation, norm and clip -/

/-- acc = RNE(acc + g) for every weight of a layer that has a weight-gradient product (R260), once every element of it is formed. -/
def accumulateLayer (a : Container) (l : Nat) (r : StepRun) : StepRun :=
  if r.accDone.contains l || !trained a l || !(weightsOf a l).all (fun w => (tget none r.grads (wkey l w.1 w.2)).isSome) then r
  else
    { StepRun.reach 5 r with
      accDone := r.accDone ++ [l]
      accum := (weightsOf a l).foldl (fun t w =>
        let k := wkey l w.1 w.2
        tset 0 t k (add32 (tget 0 t k) ((tget none r.grads k).getD 0))) r.accum }

/-- A weight's reduced gradient: what the rings delivered, or, in a job of one device, the accumulation buffer itself. -/
def reducedGrad (a : Container) (r : StepRun) (k : Nat) : Word := if a.job.devices = 1 then tget 0 r.accum k else tget 0 r.finals k

/-- The shard's norm total (R261): chunks of 64 elements of the gradient sequence, squares in binary64, elements whose TRAIN bit
is 0 left out. -/
def shardNorm (a : Container) (r : StepRun) : Dbl :=
  let es := gradSeq a
  let sq (e : Nat × Nat × Nat) : Option Dbl :=
    if trainBit a e.1 e.2.1 (e.2.2 / 64) then
      let g := widen (reducedGrad a r (wkey e.1 e.2.1 e.2.2))
      some (mul64 g g)
    else none
  joinTree add64 0 ((List.range ((es.length + 63) / 64)).map (fun c =>
    ((((es.drop (64 * c)).take 64).filterMap sq)).foldl add64 0#64))

/-! ### The optimiser program (R95) -/

/-- One weight's update. -/
structure Updated where
  master : Word
  opt    : List Word
  tally  : Tally
  deriving DecidableEq, Repr

/-- The layer's UPD flags. -/
def updFlags (a : Container) (l : Nat) : Byte × Nat := match tensorOf a l 3 with
  | some e => (e.2.flags, e.2.site)
  | none => (0, 0)

/-- Steps 1 to 3 of R95 for one weight: `g` the reduced gradient, `c` the clip factor. A master that the program writes back is
not applied twice: only the update register moves the master. -/
def updateWeight (a : Container) (step : Dbl) (l o i : Nat) (u : Int) (c g m : Word) (ow : List Word) : Updated :=
  let w := a.wprog
  let regs := runCode w.code (loadRegs ([mul32 g c, m] ++ ow ++ w.consts))
  let delta := tget 0 regs w.update
  let fl := updFlags a l
  let r := if fl.1.getLsbD 0 then
      some (generator (jobKey a) step l 1 fl.2 (Config.blockNumber l o (i / 64)) (i % 64))
    else none
  let code := toNG8 0 (fl.1.getLsbD 1) r ((f32 delta).scale u)
  let d := (ng8Val code.1).scale (-u)
  { master := rne32 ((f32 m).add d)
    opt := (List.range w.words).map (fun j => if w.back.contains (j + 2) then tget 0 regs (j + 2) else ow.getD j 0#32)
    tally := code.2 }

/-- The update of one weight in a running exchange step, on the working halves. A weight whose TRAIN bit is 0 stays (R232). -/
def Dev.updateOne (m : Dev) (p : Pid) (d : DieId) (l o i : Nat) : Dev :=
  match (m.part p).run, (m.part p).almanac, (m.part p).layer l with
  | some r, some a, some e =>
    let k := wkey l o i
    match r.clip with
    | some c =>
      if !r.exchange || r.probing || !(m.part p).xch.complete || !trainBit a l o (i / 64) || tget false r.updated k then m
      else
        let ow := (List.range a.wprog.words).map (fun j => tget 0 r.opt (okey l o i j))
        let v := updateWeight a r.number l o i e.u c (reducedGrad a r k) (tget 0 r.masters k) ow
        (m.countTally d p l 3 v.tally).modRun p (fun r =>
          { StepRun.reach 6 r with
            masters := tset 0 r.masters k v.master
            opt := v.opt.zipIdx.foldl (fun t w => tset 0 t (okey l o i w.2) w.1) r.opt
            updated := tset false r.updated k true })
    | none => m
  | _, _, _ => m

/-- Every trained layer's gradient is accumulated. -/
def allAccumulated (a : Container) (r : StepRun) : Bool := ((List.range a.layerTab.length).filter (trained a)).all (fun l => r.accDone.contains l)

/-- The norm pass of an exchange step, once the reduced gradient is held: this device's total; a job of one device has its clip factor at
once (R239, R261, R262). -/
def Dev.normTotal (m : Dev) (p : Pid) : Dev :=
  match (m.part p).run, (m.part p).almanac with
  | some r, some a =>
    if r.exchange && !r.probing && allAccumulated a r && (decide (a.job.devices = 1) || finalsHeld a (m.part p).form r) then
      let t := shardNorm a r
      m.modRun p (fun r =>
        let r1 := { StepRun.reach 5 r with shard := some t }
        if a.job.devices = 1 then { r1 with norm := some t, clip := some (clipFactor a.job.clipNorm t) } else r1)
    else m
  | _, _ => m

/-! ### One operation -/

/-- The sources an operation reads. -/
def opSrcs : WOp → List Src
  | .lanes _ _ x y z _ => [x, y, z]
  | .program _ _ xs _ => xs
  | .rowSum _ x _ => [x]
  | .rowMax _ x _ => [x]
  | .rowMin _ x _ => [x]
  | .normForward _ _ x g _ => [x, g]
  | .normBackward _ _ x g dy _ _ => [x, g, dy]
  | .softmaxForward _ _ _ z _ => [z]
  | .softmaxBackward _ _ _ z dp _ => [z, dp]
  | .dropout _ _ _ x _ => [x]
  | .toNF8 _ _ x _ => [x]
  | .toNG8 _ _ _ _ x _ => [x]
  | .toBin16 _ x _ => [x]
  | _ => []

/-- A row in binary32, as a W-unit's program reads it (R79). -/
def Dev.readRow (m : Dev) (p : Pid) (d : DieId) (a : Container) (r : StepRun) (n : Nat) (s : Src) : Option (List Word) :=
  (m.readSrc p d a r n s).map Row.words

/-- One lane function over the elements of three rows; a binary64 element is two words of a row. -/
def lanesRow (f : WFn) (n : Nat) (x y z : List Word) : List Word :=
  let w : Nat := if wideIn f then 2 else 1
  let part (l : List Word) (i : Nat) : List Word := ((l.drop (w * i)).take w) ++ List.replicate (2 - w) 0
  (List.range n).flatMap (fun i =>
    let regs := runInstr (loadRegs (part x i ++ part y i ++ part z i)) { fn := f, dst := 6, a := 0, b := 2, c := 4 }
    if wideOut f then [tget 0 regs 6, tget 0 regs 7] else [tget 0 regs 6])

/-- A program over rows: for each element its inputs and the program's constants in its registers; each register it writes back gives a row. -/
def programRow (w : WProg) (n : Nat) (xs : List (List Word)) : List Word :=
  let runs := (List.range n).map (fun i => runCode w.code (loadRegs (xs.map (fun x => x.getD i 0) ++ w.consts)))
  w.back.flatMap (fun j => runs.map (fun regs => tget 0 regs j))

/-- Store a row as NG8 gradient (R77, R461): under its GRD entry, or, of a layer without one, by the data of the row, which is the tensor. -/
def Dev.gradRow (m : Dev) (p : Pid) (d : DieId) (a : Container) (r : StepRun) (l ent first addr : Nat) (x : List Word) : Dev :=
  match grdEntry a ent with
  | some e => m.putGrad p d a r e addr (x.zipIdx.map (fun v => (first + v.2, v.1)))
  | none =>
    let k := expFor maxNG8 (f32 (amaxOf x))
    let rs := x.map (fun v => toNG8 k.1 false none (f32 v))
    (m.countTally d p l 2 ((tallies rs).add (Tally.one k.2 false false))).modDie d (fun x => x.putCodes p addr .ng8 k.1 (rs.map (fun c => c.1)))

/-- What an operation of a W-unit does for a running step or FORWARD of its partition; `none` where a source is not written (R220). -/
def Dev.runWOp (m : Dev) (p : Pid) (d : DieId) (a : Container) (r : StepRun) (op : WOp) : Option Dev :=
  let put (addr : Nat) (ws : List Word) : Dev := m.modDie d (fun x => x.putWords p addr ws)
  let row (n : Nat) (s : Src) : Option (List Word) := m.readRow p d a r n s
  match op with
  | .lanes f n x y z addr =>
    let w : Nat := if wideIn f then 2 * n else n
    match row w x, row w y, row w z with
    | some x, some y, some z => some (put addr (lanesRow f n x y z))
    | _, _, _ => none
  | .program i n xs addr => match a.programs[i]?, allSome (xs.map (row n)) with
    | some w, some xs => some (put addr (programRow w n xs))
    | _, _ => none
  | .rowSum n x addr => (row n x).map (fun x => put addr [rowSum x])
  | .rowMax n x addr => (row n x).map (fun x => put addr [rowMax x])
  | .rowMin n x addr => (row n x).map (fun x => put addr [rowMin x])
  | .normForward i n x g addr => match a.norms[i]?, row n x, row n g with
    | some e, some x, some g => some (put addr (normForward e x g))
    | _, _, _ => none
  | .normBackward i n x g dy base addr => match a.norms[i]?, row n x, row n g, row n dy with
    | some e, some x, some g, some dy =>
      let v := normBackward e x g dy
      some ((put addr v.1).modRun p (fun r => { StepRun.reach 4 r with
        dg := v.2.zipIdx.foldl (fun t w => tset 0 t (base + w.2) (add32 (tget 0 t (base + w.2)) w.1)) r.dg }))
    | _, _, _, _ => none
  | .softmaxForward n pat i z addr => (row n z).map (fun z => put addr (softForward z (maskOf a pat i n)))
  | .softmaxBackward n pat i z dp addr => match row n z, row n dp with
    | some z, some dp => some (put addr (softBackward z (maskOf a pat i n) dp))
    | _, _ => none
  | .lossRow i ent addr =>
    let l := a.layerTab.length - 1
    match r.outputRow a l i 0 (outsOf a l), r.index[ent]? with
    | some z, some t =>
      let v := lossParts a.job.lscale z.words t.toNat
      some ((put addr v.2).modRun p (fun r => { StepRun.reach 3 r with lossTerms := tset none r.lossTerms i (some v.1) }))
    | _, _ => none
  | .generate l stream site block word addr =>
    some (m.modDie d (fun x => x.put p addr .bytes 0 (bytes16 (aes128 (jobKey a) (counterBlock r.number l stream site block word)))))
  | .dropout ent first n x addr => match a.tensorTab[ent]?, row n x with
    | some e, some x => some (put addr (if e.cls = 0 then dropoutRow a r.number (ent, e) first x else x))
    | _, _ => none
  | .toNF8 ent n x addr => match a.tensorTab[ent]?, row n x with
    | some e, some x => some (if e.cls = 0 then m.putNF8 p d r (ent, e) addr (fun _ => true) x else put addr x)
    | _, _ => none
  | .toNG8 l ent first n x addr => (row n x).map (fun x => m.gradRow p d a r l ent first addr x)
  | .toBin16 n x addr => (row n x).map (fun x => m.modDie d (fun y => y.put p addr .bin16 0 (x.flatMap (fun v => leBytes (rne16 (f32 v)) 2))))
  | .accumulate l => some (if r.isForward then m else (m.modRun p (accumulateLayer a l)).endProbe p)
  | .normTotal => some (if r.isForward then m else m.normTotal p)
  | .update l o i => some (if r.isForward then m else m.updateOne p d l o i)

/-- W_UNIT_OPERATION: an operation on a W-unit of its partition; a retired unit's work runs on its takeover (R234). -/
def execWUnitOperation (d : DieId) (u : WUnitId) (p : Pid) (op : WOp) (s : State) : Res :=
  s.go fun m => match (m.part p).run, (m.part p).almanac with
    | some r, some a =>
      let n := m.wunitFor d u.val
      if m.inService d && (m.part p).issues && m.owner (resWunit d n) = some p && ((m.die d).wunit n).st = .inService then
        match ((opSrcs op).filterMap srcLayer).find? (stashWaits a r) with
        | some l => m.lateStash p l
        | none => match m.runWOp p d a r op with
          | some m1 => (m1.modDie d (fun x => { x with opM := x.opM.add x.ms 1 (freePs m1.free) })).drawn 1
          | none => m
      else m
    | _, _ => m

end Sys2Proof.Machine
end

