-- ==== Sys2Proof/Machine/FrameOps.lean ====
section
/-! DEFINITION. Receiving frames: authentication (R319), older and later steps, attempts and marks (R329, R330), and which copy of
a frame is taken (R323 to R326). -/

namespace Sys2Proof.Machine

/-- The sender port of a frame, as one number. -/
def senderKey (f : Frame) : Nat := f.sender * 32 + f.senderPort % 32

/-- Whether a port takes frames of a partition: in service, alive, and bound to it. -/
def Dev.takes (m : Dev) (d : DieId) (q : PortId) (p : Pid) : Bool :=
  m.inService d && ((m.die d).port q).alive && decide (m.owner (resPort d q.val) = some p)

/-- R319: the tag, the key, and a counter above the last accepted. A discarded frame counts in AUTH_FAIL with EV-CDM-08. -/
def Dev.authentic (m : Dev) (d : DieId) (q : PortId) (f : Frame) : Dev × Bool :=
  let pt := (m.die d).port q
  let last := tget 0#64 pt.lastIn (senderKey f)
  if f.tagOk && pt.key.isSome && decide (last.toNat ≤ f.ctr.toNat) then
    (m.modDie d (fun x => x.modPort q (fun y => { y with lastIn := tset 0#64 y.lastIn (senderKey f) (f.ctr + 1) })), true)
  else ((m.count d (.cdm q 4) 1).raiseP (some d) f.partition { evUnit (.cdm 8) d 4 q.val 0 with step := f.step }, false)

/-- Keep a frame in the receive buffer, or discard one that is late (R323, R330). -/
def Dev.holdFrame (m : Dev) (d : DieId) (q : PortId) (f : Frame) : Dev :=
  m.modDie d (fun x => x.modPort q (fun y => { y with held := y.held ++ [f], stepFrame := true }))

/-- The flits of the oldest whole frame of a channel, and the rest of the buffer. -/
def splitFrame (vc : Nat) : List Flit → List Flit × List Flit
  | [] => ([], [])
  | f :: fs =>
    if f.vc = vc then (if f.last then ([f], fs) else let r := splitFrame vc fs; (f :: r.1, r.2))
    else let r := splitFrame vc fs; (r.1, f :: r.2)

/-- A frame's flits leave the receive buffer and their credits are returned in a link flit (R314). -/
def Dev.leaveBuffer (m : Dev) (d : DieId) (q : PortId) (f : Frame) : Dev :=
  let s := splitFrame (frameVc f) ((m.die d).port q).rx
  if s.1.isEmpty then m
  else (m.modDie d (fun x => x.modPort q (fun y => { y with rx := s.2 }))).emit (.linkMsg d.val q.val (.credit (frameVc f) s.1.length))

def Dev.lateFrame (m : Dev) (d : DieId) (q : PortId) (f : Frame) : Dev := (m.count d (.cdm q 8) 1).leaveBuffer d q f

/-- Take on a mark (R329). -/
def Dev.applyMark (m : Dev) (p : Pid) (d : DieId) (mark : Nat) : Dev :=
  if mark ≤ (m.part p).xch.mark then m
  else
    let m1 := m.takeMark p mark
    match mark with
    | 1 => m1.abortStep p .markAbort
    | 2 => (m1.raiseP (some d) p (ev (.wun 6))).abortStep p .skip
    | 3 => let m2 := m1.raiseP (some d) p (ev (.cdm 12)); m2.interrupt (some d) p (m2.plainIntr 6)
    | _ => m

/-- What a frame of a step meets at this device (R330). -/
inductive Meets where
  | drop | hold | go (r : StepRun)
  deriving DecidableEq, Repr

def Dev.meet (m : Dev) (p : Pid) (f : Frame) : Meets :=
  let x := m.part p
  if !x.hasJob then .drop
  else if f.step.toNat < (m.stepNo p).toNat then .drop
  else if f.step ≠ m.stepNo p then .hold
  else match x.run with
    | some r => if r.isForward || x.st ≠ .running then .hold else if f.attempt < x.xch.attempt then .drop else .go r
    | none => .hold

/-! ### Poison (R318) -/

/-- The frame this position sends on for one it receives: the next partial, or the copy of a final. -/
def Dev.onward (m : Dev) (p : Pid) (a : Container) (g : RingEntry) (r : StepRun) (f : Frame) : Option Frame :=
  let x := m.part p
  let ks := chunkKeys a x.form f.bucket g.n f.chunk f.offset f.elems.length
  let sum := (ks.zip f.elems).map (fun e => if standsAside a x.form r.number g.ring then e.2 else add32 e.2 (contribution r f.bucket e.1))
  if f.kind = 1 then
    if sendsReduce g f.chunk then some (dataFrame a x p 1 g.ring f.bucket f.chunk f.offset sum)
    else if sendsGather g f.chunk then some (dataFrame a x p 2 g.ring f.bucket f.chunk f.offset sum) else none
  else if f.kind = 2 && sendsGather g f.chunk then some (dataFrame a x p 2 g.ring f.bucket f.chunk f.offset f.elems) else none

/-- A frame cut through before its check proved bad: what left carries POISON with the cause. A sender with a mirror in the step is
stored and forwarded, so nothing left. -/
def Dev.passPoison (m : Dev) (p : Pid) (a : Container) (g : RingEntry) (r : StepRun) (f : Frame) (cause : Nat) : Dev :=
  if (mirrorsOf a (m.part p).form r.number f.ring 2).isEmpty && r.armed.contains f.bucket && !(m.part p).xch.expelled then
    match m.onward p a g r f, m.ringOut g with
    | some h, some o => m.sendOn o.1 o.2 (poisoned cause h)
    | _, _ => m
  else m

/-- The same for a frame of the running attempt that fails authentication. -/
def Dev.authPoison (m : Dev) (p : Pid) (f : Frame) : Dev :=
  match m.meet p f, (m.part p).almanac with
  | .go r, some a => match ringOf a (m.part p).form f.ring with
    | some g => if f.attempt = (m.part p).xch.attempt then m.passPoison p a g r f 1 else m
    | none => m
  | _, _ => m

/-- Receive a frame of a step; `use` handles one that belongs to the running attempt and carries no mark. -/
def Dev.receive (m : Dev) (d : DieId) (q : PortId) (f : Frame) (use : StepRun → Dev → Dev) : Dev :=
  let p := f.partition
  if !m.takes d q p then m
  else
    let au := m.authentic d q f
    if !au.2 then (au.1.leaveBuffer d q f).authPoison p f
    else match au.1.meet p f with
      | .drop => au.1.lateFrame d q f
      | .hold => au.1.holdFrame d q f
      | .go r =>
        let m1 := au.1.leaveBuffer d q f
        if (m1.part p).xch.attempt < f.attempt then m1.applyMark p d 3
        else if f.mark ≠ 0 then m1.applyMark p d f.mark
        else use r m1

/-! ### Selection -/

def sameSlot (f g : Frame) : Bool := decide (slotKey f = slotKey g)

/-- A copy whose use raises EV-CDM-06: the primary's was non-finite, here or upstream. -/
def nonfiniteCopy (f : Frame) : Bool := !finiteAll f.elems || decide (f.cause = 2)
def goodFrame (f : Frame) : Bool := !f.poison && finiteAll f.elems

/-- Take the mirror's copy of a frame (R325): counted, and EV-CDM-06 where the primary's was non-finite. -/
def Dev.takeMirror (m : Dev) (p : Pid) (d : DieId) (q : PortId) (nonfin : Bool) (deliver : Dev → Dev) : Dev :=
  let m1 := (m.count d (.cdm q 6) 1).modRun p (fun r => { r with substituted := true })
  deliver (when nonfin (fun n => n.raiseP (some d) p (ev (.cdm 6))) m1)

/-- Whether two copies of an element disagree: |a − b| > 2^−s × max(|a|, |b|) (R374). -/
def apartBy (s : Nat) (a b : Word) : Bool :=
  let top := if (f32 a).abs.lt (f32 b).abs then (f32 b).abs else (f32 a).abs
  (top.scale (-(s : Int))).lt ((f32 a).sub (f32 b)).abs

/-- Compare a primary's and its mirror's REDUCE frame, both acceptable: a disagreeing frame counts, with EV-SAF-09 once per step. -/
def Dev.crossCheck (m : Dev) (p : Pid) (d : DieId) (f g : Frame) : Dev :=
  let cfg := m.reg safXchkCfg
  let n := ((f.elems.zip g.elems).filter (fun e => apartBy (bits cfg 12 8) e.1 e.2)).length
  if f.kind ≠ 1 || n ≤ bits cfg 7 0 then m
  else
    let m1 := { m with digest := { m.digest with xchkCount := satAdd32 m.digest.xchkCount 1 } }
    if (m.part p).run.any (fun r => r.xchkRaised) then m1
    else (m1.raiseP (some d) p (ev (.saf 9))).modRun p (fun r => { r with xchkRaised := true })

/-- Select between the copies of a frame (R325, R326). `mirrored`: its sender has a mirror in the step. `deliver g` delivers the
copy `g`. -/
def Dev.select (m : Dev) (p : Pid) (d : DieId) (q : PortId) (a : Container) (mirrored : Bool) (f : Frame) (deliver : Frame → Dev → Dev) : Dev :=
  match (m.part p).run with
  | none => m
  | some r =>
    if r.delivered f then
      match f.mirror, r.primFrames.find? (fun g => sameSlot f g && goodFrame g) with
      | true, some g => if goodFrame f then m.crossCheck p d g f else m
      | _, _ => m.lateFrame d q f
    else
      let m1 := when (!finiteAll f.elems) (fun n => n.count d (.cdm q 7) 1) m
      if !mirrored then
        if goodFrame f then deliver f m1
        else
          let m2 := match ringOf a (m1.part p).form f.ring with
            | some g => m1.passPoison p a g r f (if finiteAll f.elems then f.cause else 2)
            | none => m1
          if !finiteAll f.elems then m2.uncovered (some d) p a else m2
      else if !f.mirror then
        if goodFrame f then
          let m2 := deliver f (m1.modRun p (fun r => { r with primFrames := r.primFrames ++ [f] }))
          match r.mirrFrames.find? (fun g => sameSlot f g && goodFrame g) with
          | some g => m2.crossCheck p d f g
          | none => m2
        else match r.mirrFrames.find? (sameSlot f) with
          | some g =>
            if goodFrame g then m1.takeMirror p d q (nonfiniteCopy f) (deliver g)
            else if nonfiniteCopy f then m1.uncovered (some d) p a else m1
          | none => m1.modRun p (fun r => { r with primFrames := r.primFrames ++ [f] })
      else match r.primFrames.find? (sameSlot f) with
        | some g =>
          if goodFrame f then m1.takeMirror p d q (nonfiniteCopy g) (deliver f)
          else if nonfiniteCopy g then m1.uncovered (some d) p a else m1
        | none => m1.modRun p (fun r => { r with mirrFrames := r.mirrFrames ++ [f] })

/-! ### The mirror path (R324) -/

/-- A frame that this device takes as its primary's mirror: it arrives on the pairing's port. -/
def mirrorEntry (a : Container) (v : Nat) (f : Frame) (d : DieId) (q : PortId) : Option MirrorEntry :=
  (mirrorsOf a v f.step f.ring 1).find? (fun e => e.port.valid && decide (e.port.die = d) && decide (e.port.port = q))

/-- Act as if at the primary's position: add the copy of the primary's contribution and send to the successor, marked MIRROR. -/
def Dev.mirrorFrame (m : Dev) (p : Pid) (a : Container) (r : StepRun) (g : RingEntry) (e : MirrorEntry) (f : Frame) : Dev :=
  let pos := Config.ringPosition f.ring e.primary % g.n
  let at_ : RingEntry := { g with pos := pos }
  let ks := chunkKeys a (m.part p).form f.bucket g.n f.chunk f.offset f.elems.length
  let send (kind : Nat) (es : List Word) : Dev :=
    m.sendOn e.port.die e.port.port { dataFrame a (m.part p) p kind f.ring f.bucket f.chunk f.offset es with mirror := true }
  if !goodFrame f then m
  else if f.kind = 1 then
    let es := (ks.zip f.elems).map (fun x => add32 x.2 (contribution r f.bucket x.1))
    if sendsReduce at_ f.chunk then send 1 es else if sendsGather at_ f.chunk then send 2 es else m
  else if sendsGather at_ f.chunk then send 2 f.elems else m

/-! ### Data frames -/

/-- A REDUCE or GATHER frame of the running attempt: held until its bucket is armed, then selected and delivered. -/
def Dev.dataIn (m : Dev) (p : Pid) (d : DieId) (q : PortId) (f : Frame) (r : StepRun) : Dev :=
  match (m.part p).almanac with
  | some a =>
    match ringOf a (m.part p).form f.ring with
    | some g =>
      if (m.part p).xch.complete then m.lateFrame d q f
      else if !r.armed.contains f.bucket then m.holdFrame d q f
      else match mirrorEntry a (m.part p).form f d q with
        | some e => m.mirrorFrame p a r g e f
        | none => m.select p d q a (!(mirrorsOf a (m.part p).form f.step f.ring 2).isEmpty) f (fun h n => n.deliverData p d a g h)
    | none => m
  | none => m

/-- A closing frame: CLOSE_REDUCE waits for the exchange-complete point (R327). -/
def Dev.closeIn (m : Dev) (p : Pid) (d : DieId) (q : PortId) (f : Frame) (r : StepRun) : Dev :=
  match (m.part p).almanac with
  | some a =>
    match closingRing a (m.part p).form with
    | some g =>
      if f.ring ≠ g.ring then m
      else if r.delivered f || r.closeDone then m.lateFrame d q f
      else if f.poison then m
      else if f.kind = 3 then
        if (m.part p).xch.complete then m.deliverCloseReduce p d a g f else m.holdFrame d q f
      else m.deliverCloseGather p a g f
    | none => m
  | none => m

/-- A TRANSFER frame: checked like a gradient frame (R326), its data put into stage SRAM in the tensor's own format (R316). -/
def Dev.transferIn (m : Dev) (p : Pid) (d : DieId) (q : PortId) (f : Frame) (r : StepRun) : Dev :=
  match (m.part p).almanac with
  | some a => m.select p d q a (!(mirrorsOf a (m.part p).form r.number f.ring 2).isEmpty) f (fun h n =>
      (n.markSlot p h).modDie d (fun x => (x.putWords p h.place h.elems).put p (h.place + 4 * h.elems.length) h.placeFmt h.placeK h.bytes))
  | none => m

/-- An EXTEND frame (R333): relayed once for each declaring device on the partition's other ports; the first two extend the
deadlines of the step, with EV-CDM-09. This device's own declaration coming back is not taken. -/
def Dev.extendIn (m : Dev) (p : Pid) (d : DieId) (q : PortId) (f : Frame) : Dev :=
  let x := m.part p
  if x.xch.declares.contains f.declarer || x.almanac.any (fun a => a.job.deviceIndex = f.declarer) then m
  else
    let m1 := ((m.portsOf p).filter (fun r => decide (r ≠ (d, q)))).foldl (fun n r => n.sendOn r.1 r.2 f) m
    let m2 := m1.modPart p (fun x => { x with xch := { x.xch with declares := x.xch.declares ++ [f.declarer] } })
    if x.xch.declares.length < 2 then m2.raiseP (some d) p (ev (.cdm 9)) else m2

/-- Use a frame of the running attempt that carries no mark, by its kind (R316). -/
def Dev.useFrame (m : Dev) (p : Pid) (d : DieId) (q : PortId) (f : Frame) (r : StepRun) : Dev :=
  if f.kind = 1 || f.kind = 2 then m.dataIn p d q f r
  else if f.kind = 3 || f.kind = 4 then m.closeIn p d q f r
  else if f.kind = 5 then m.transferIn p d q f r
  else if f.kind = 0x12 then m.extendIn p d q f
  else m

/-- Take the held frames of a partition that `pick` names out of its ports' buffers, oldest first. -/
def Dev.takeHeld (m : Dev) (p : Pid) (pick : Frame → Bool) : Dev × List (DieId × PortId × Frame) :=
  (m.portsOf p).foldl (fun s r =>
    let fs := ((s.1.die r.1).port r.2).held.filter pick
    (s.1.modDie r.1 (fun x => x.modPort r.2 (fun y => { y with held := y.held.filter (fun f => !pick f) })),
     s.2 ++ fs.map (fun f => (r.1, r.2, f)))) (m, [])

/-- Handle one frame taken out of the buffer, already authenticated. -/
def Dev.replayHeld (m : Dev) (p : Pid) (e : DieId × PortId × Frame) : Dev :=
  let f := e.2.2
  match m.meet p f with
  | .drop => m.lateFrame e.1 e.2.1 f
  | .hold => m.holdFrame e.1 e.2.1 f
  | .go r =>
    let m1 := m.leaveBuffer e.1 e.2.1 f
    if (m1.part p).xch.attempt < f.attempt then m1.applyMark p e.1 3
    else if f.mark ≠ 0 then m1.applyMark p e.1 f.mark
    else m1.useFrame p e.1 e.2.1 f r

/-- Handle the held frames that `pick` names. -/
def Dev.drainHeld (m : Dev) (p : Pid) (pick : Frame → Bool) : Dev :=
  let t := m.takeHeld p pick
  t.2.foldl (fun n e => n.replayHeld p e) t.1

/-- Frames that came before their step or attempt ran are met when it starts (R330); bucket frames wait for their arm point and
CLOSE_REDUCE for the exchange-complete point. -/
def Dev.drainStep (m : Dev) (p : Pid) : Dev :=
  let n := m.stepNo p
  let k := (m.part p).xch.attempt
  m.drainHeld p (fun f => decide (f.step = n) && (decide (f.mark ≠ 0) || decide (k < f.attempt) || [4, 5, 6, 0x12].contains f.kind))

/-- A device that lacks the closing final after a local recovery asks its predecessor to send it again (R331). -/
def Dev.askAgain (m : Dev) (p : Pid) : Dev :=
  match (m.part p).run, (m.part p).almanac with
  | some r, some a => match closingRing a (m.part p).form with
    | some g =>
      if r.replaying && (m.part p).xch.complete && !r.closeDone && decide (a.job.devices ≠ 1) then
        let f := stepFrame a (m.part p) p 0x11 g.ring 0 0
        if m.usable g.inp then m.sendOn g.inp.die g.inp.port f
        else if m.usable g.altIn then m.sendOn g.altIn.die g.altIn.port f else m
      else m
    | none => m
  | _, _ => m

end Sys2Proof.Machine
end

