-- ==== Sys2Proof/Machine/StepCmds.lean ====
section
/-! DEFINITION. The shadow sampler's comparisons and their trips (R251 to R258), the loss check (R263), a bucket's arm point and
the exchange-complete point (R322, R327), the commit decision and the commit point (R241 to R244, R267 to R269). -/

namespace Sys2Proof.Machine

/-! ### SHADOW_COMPARISON -/

/-- One sampled block run against its recomputation from the codes the tile read (R252), with what stood at its pass's start. -/
def compareRun (r : StepRun) (tol : Nat) (e : LayerEntry) (l row o b : Nat) : Option Bool :=
  let k := runkey l row o b
  match tget none r.sampled k, r.block l row b, tget none r.runs k with
  | some s, some bl, some w =>
    let rho2 := rhoSquared e bl.width s.band s.maxWear s.t16 s.frozen s.dt16
    some (beyondBound tol rho2 bl.width e.t bl.scale s.q w (recomputedRun bl.tileCodes s.codes bl.scale s.q))
  | _, _, _ => none

/-- The trips that fit are entered; those that do not are a storm, or without an all-digital form fill the budget by
disagreements (R254 to R258). -/
def tripOrder (r : StepRun) (ls : List Nat) : List Nat :=
  let before (x y : Nat) : Bool := decide (tget 0 r.disagree y < tget 0 r.disagree x) || (decide (tget 0 r.disagree x = tget 0 r.disagree y) && decide (x < y))
  ls.foldl (fun s l => (s.filter (fun k => before k l)) ++ [l] ++ (s.filter (fun k => !before k l))) []

/-- Settle the step's trips at its last comparison (R253). -/
def Dev.settleTrips (m : Dev) (p : Pid) (a : Container) : Dev :=
  let m0 := m.modRun p (fun r => { r with compDone := true })
  match (m0.part p).run with
  | none => m0
  | some r =>
    let x := m0.part p
    let trips := (List.range a.layerTab.length).filter (fun l => match a.layerTab[l]? with
      | some e => decide (e.fbLimit < tget 0 r.disagree l)
      | none => false)
    if r.isForward then m0
    else
      let m1 := m0.modRun p (fun r => { r with tripped := trips })
      let new := trips.filter (fun l => !r.fallback.contains l)
      let enter (n : Dev) (ls : List Nat) : Dev :=
        (ls.foldl (fun n l => n.raiseP n.map.primary p { ev (.mce 4) with layer := some l }) n).modRun p (fun r => { r with entering := ls })
      if x.digital || trips.isEmpty then m1
      else if r.fallback.length + new.length ≤ a.job.fbBudget then enter m1 new
      else if carriesDigital a x.variant then m1.storm p a
      else
        let m2 := (m1.raiseP m1.map.primary p (ev (.mce 8))).modPart p (fun x => { x with com := { x.com with noForm := true } })
        (enter m2 ((tripOrder r new).take (a.job.fbBudget - r.fallback.length))).modRun p (fun r => { r with exceeded := true })

/-- Whether every pass of a sampled tile that is served by analog reads has run: each block run of its outputs is there to be compared, or its
block was promoted, or the digital path serves it (R251, R254). -/
def Dev.passesDone (m : Dev) (p : Pid) (a : Container) (r : StepRun) : Bool :=
  let x := m.part p
  let phys (n q : Nat) : Nat := (m.die (Fin.ofNat 8 n)).phys q
  (List.range a.layerTab.length).all (fun l => (m.consumers p a l).all (fun c => !sampledTile a x r phys c.1.val c.2 l ||
    leafIds.all (fun f => !(m.die c.1).analogOk c.2 f || (leafOuts l ((m.die c.1).leafRuns a x.variant c.1.val c.2 f.val)).all (fun o =>
      (List.range (rowsIn a r.tokens l)).all (fun row => (List.range (blocksOf a l)).all (fun b =>
        (tget none r.sampled (runkey l row o.1 b)).isSome
          || (r.block l row b).any (fun bl => bl.promoted.contains (tileKey c.1 c.2))
          || (!(x.digital || r.fallback.contains l) && tget false r.digRuns (runkey l row o.1 b))))))))

/-- Whether every pass of the step has run, with every layer's outputs formed. -/
def Dev.forwardDone (m : Dev) (p : Pid) (a : Container) (r : StepRun) : Bool :=
  (List.range a.layerTab.length).all (layerDone a r) && m.passesDone p a r

/-- The step's last comparison has completed: no pass is outstanding, and every sampled run has been compared (DESIGN CHOICE, log entry 114). -/
def Dev.comparisonsDone (m : Dev) (p : Pid) (a : Container) (r : StepRun) : Bool :=
  m.forwardDone p a r && r.sampled.all (fun e => tget false r.compared e.1)

/-- Settle the trips once the last comparison has completed. -/
def Dev.settleComparisons (m : Dev) (p : Pid) (a : Container) : Dev := match (m.part p).run with
  | some r => if !r.compDone && !r.probing && m.comparisonsDone p a r then m.settleTrips p a else m
  | none => m

/-- SHADOW_COMPARISON: the block runs of one output and input vector on a sampled tile, on the die whose cubes recompute them (R252, R253).
It reads no cells, so an open window leaves it as it is (R160, R268). -/
def execShadowComparison (p : Pid) (d : DieId) (l row o : Nat) (s : State) : Res :=
  s.go fun m =>
    let x := m.part p
    match x.run, x.almanac, x.layer l with
    | some r, some a, some e =>
      if !x.issues || !m.inService d || r.compDone || r.probing then m
      else
        let cs := (List.range (blocksOf a l)).filterMap (fun b =>
          if tget false r.compared (runkey l row o b) then none else (compareRun r (bits x.smpForce 13 8) e l row o b).map (fun v => (b, v)))
        let bad := (cs.filter (fun c => c.2)).length
        ((m.modDie d (fun x => (x.count (.smp p l 0) cs.length).count (.smp p l 1) bad)).modRun p (fun r =>
          { r with disagree := tmod 0 r.disagree l (· + bad), compared := tsetAll false r.compared (cs.map (fun c => (runkey l row o c.1, true))) }
          )).settleComparisons p a
    | _, _, _ => m

/-- STORM_REPLAY_START (R256): the all-digital form is loaded, and the step replays from its start. -/
def execStormReplayStart (p : Pid) (s : State) : Res :=
  s.go fun m => if (m.part p).intr.any (fun i => i.storm) then ((m.resumePart p).drainStep p).askAgain p else m

/-! ### Loss, buckets, the exchange-complete point -/

/-- The terms of every loss row of the micro-batch, in ascending row; `none` while one is missing. -/
def lossRows (a : Container) (r : StepRun) : Option (List Dbl) :=
  allSome ((List.range (rowsIn a r.tokens (a.layerTab.length - 1))).map (fun i => tget none r.lossTerms i))

/-- LOSS_TOTAL_CHECK (R226, R263), once every loss row is formed (R239): a non-finite total raises EV-WUN-04; on a step that exchanges no
gradient it aborts the step. Of a probe pass the total only ends the pass (DESIGN CHOICE, log entry 109). -/
def execLossTotalCheck (p : Pid) (s : State) : Res :=
  s.go fun m => match (m.part p).run, (m.part p).almanac with
    | some r, some a => match lossRows a r with
      | some ts =>
        if !(m.part p).issues || r.loss.isSome then m
        else
          let t := lossTotal ts
          let m1 := m.modRun p (fun r => { StepRun.reach 3 r with loss := some t })
          if r.probing then m1.endProbe p
          else if (f64 t).isFinite then m1
          else
            let m2 := ((m1.raiseP m1.map.primary p (ev (.wun 4))).countDecision (.stepc p 4) 1).modRun p (fun r => { r with lossBad := true })
            if r.isForward || r.exchange then m2 else m2.abortStep p .lossNan
      | none => m
    | _, _ => m

/-- BUCKET_ARM (R322): once the gradients of the bucket's layers are accumulated (R239), its contributions are formed and its receive is
armed; the chunk that starts here is sent. -/
def execBucketArm (p : Pid) (bucket : Nat) (s : State) : Res :=
  s.go fun m => match (m.part p).run, (m.part p).almanac with
    | some r, some a =>
      let v := (m.part p).form
      match (ringOrderOf a v).bind (fun o => (o.buckets.find? (fun b => b.bucket = bucket)).bind (fun b => o.rings.find? (fun g => g.ring = b.ring))) with
      | some g =>
        if !(m.part p).issues || r.isForward || !r.exchange || r.probing || r.armed.contains bucket || (m.part p).xch.complete
            || !(bucketElems a v bucket).all (fun e => r.accDone.contains e.1) then m
        else
          let c := contribute a v bucket r
          let m1 := m.modPart p (fun x => { x with run := some { StepRun.reach 5 c.1 with armed := r.armed ++ [bucket] } })
          let m2 := c.2.foldl (fun n t => match n.weightDie p a t.1.1 t.1.2 with
            | some d => n.countTally d p t.1.1 2 t.2
            | none => n) m1
          ((m2.sendFirst p a g bucket).sendMirrorFirst p a g bucket).drainHeld p (fun f => decide (f.kind ≤ 2) && f.bucket = bucket)
      | none => m
    | _, _ => m

/-- The reduced gradient of a job of one device holds nothing non-finite (R326). -/
def ownFinite (a : Container) (r : StepRun) : Bool :=
  !r.exchange || finiteAll ((gradSeq a).map (fun e => tget 0 r.accum (wkey e.1 e.2.1 e.2.2)))

/-- EXCHANGE_COMPLETE_POINT (R327): the device sends its CLOSE_REDUCE where the closing chunk starts at its position, and goes on
with a CLOSE_REDUCE that came before. In a job of one device the point checks the reduced gradient instead (R326). -/
def execExchangeCompletePoint (p : Pid) (s : State) : Res :=
  s.go fun m => match (m.part p).run, (m.part p).almanac with
    | some r, some a =>
      let x := m.part p
      if !x.issues || r.isForward || r.probing || x.xch.complete || !allAccumulated a r || !exchangeDone a x.form x.xch r || (r.exchange && r.shard.isNone && decide (a.job.devices ≠ 1)) then m
      else
        let m1 := (m.modRun p (StepRun.reach 5)).modPart p (fun x => { x with xch := { x.xch with complete := true } })
        if a.job.devices = 1 then
          if ownFinite a r then m1 else (m.modRun p (StepRun.reach 5)).uncovered m.map.primary p a
        else match closingRing a x.form with
          | some g => (if g.pos = 0 then m1.closeReduce p m1.map.primary a g [] [] else m1).drainHeld p (fun f => decide (f.kind = 3))
          | none => m1
    | _, _ => m

/-! ### The commit (R242 to R244, R267) -/

/-- R267. Under the all-digital form a trip does not degrade the step (R257). -/
def StepRun.degraded (digital : Bool) (r : StepRun) : Bool := r.saturated || r.lossBad || (!digital && !r.tripped.isEmpty)

/-- Every update of an exchange step has run on the weights whose TRAIN bit is set. -/
def updatesDone (a : Container) (r : StepRun) : Bool :=
  !r.exchange || (r.clip.isSome && (gradSeq a).all (fun e => !trainBit a e.1 e.2.1 (e.2.2 / 64) || tget false r.updated (wkey e.1 e.2.1 e.2.2)))

/-- The conditions of R243: every pass, operation, gather, comparison and update has completed, the exchange has closed, and nothing has
aborted or rolled the step back. -/
def Dev.mayCommit (m : Dev) (p : Pid) (a : Container) (r : StepRun) : Bool :=
  let x := m.part p
  x.issues && !r.isForward && !r.probing && !r.decided && r.abort.isNone && r.loss.isSome
    && m.forwardDone p a r && r.compDone && !m.opsRun p && a.gathers.all (fun g => r.gathered.contains g.gatherId)
    && allAccumulated a r && x.xch.complete && (decide (a.job.devices = 1) || r.closeDone) && updatesDone a r

/-- COMMIT_DECISION (R243): taken on the primary Saffron controller's die; a degraded step raises EV-WUN-07 (R267). -/
def execCommitDecision (p : Pid) (s : State) : Res :=
  s.go fun m => match (m.part p).almanac with
    | some a =>
      let m1 := if (m.part p).issues then m.settleComparisons p a else m
      match (m1.part p).run with
      | some r =>
        if m1.mayCommit p a r then
          (when (r.degraded (m1.part p).digital) (fun n => n.raiseP n.map.primary p (ev (.wun 7))) m1).modRun p
            (fun r => { StepRun.reach 7 r with decided := true })
        else m1
      | none => m1
    | none => m

end Sys2Proof.Machine
end

