-- ==== Sys2Proof/Machine/DigestOps.lean ====
section
/-! DEFINITION. Digest steps: the exchange of ledger digests among the replicas of a shard (R334) and its decision (R370 to R373). -/

namespace Sys2Proof.Machine

/-- A DIGEST_D that was written takes effect at the first commit of a step whose number is a multiple of 64 (R334). -/
def DigestCtl.settle (n : Nat) (g : DigestCtl) : DigestCtl := if n % 64 = 0 then { g with dForce := g.dWritten } else g

/-- This device's entry. -/
def digestEntry (a : Container) (c : Committed) (dForce : Nat) : DigestEntry :=
  { device := a.job.deviceIndex, d := dForce, step := c.steps, digest := BitVec.ofNat 128 c.digest }

/-- The shard's ring with the lowest index. -/
def digestRing (a : Container) (v : Nat) : Option RingEntry := match ringOrderOf a v with
  | some r => (r.rings.filter (fun g => !g.closing)).foldl (fun b g => match b with
    | some h => if g.ring < h.ring then some g else b
    | none => some g) none
  | none => none

/-- Send a DIGEST frame to the successor; an expelled device sends nothing (R371). -/
def Dev.sendDigest (m : Dev) (p : Pid) (a : Container) (g : RingEntry) (step : Dbl) (es : List DigestEntry) : Dev :=
  match m.ringOut g with
  | some o =>
    if (m.part p).xch.expelled then m
    else m.sendOn o.1 o.2 { blankFrame 0x10 p with ring := g.ring, sender := a.job.deviceIndex, step := step, entries := es }
  | none => m

/-! ### The decision (R370) -/

/-- What the entries of the digest step decide: nothing, agreement, an odd device with its donor, or disagreement. -/
inductive DigestVerdict where
  | none | agree | odd (device donor : Nat) | disagree
  deriving DecidableEq, Repr

/-- The lowest device index of a list of entries. -/
def lowestDevice (es : List DigestEntry) : Nat := match es with
  | [] => 0
  | e :: t => t.foldl (fun n f => min n f.device) e.device

def verdict (es : List DigestEntry) : DigestVerdict :=
  let n := es.length
  let same (e : DigestEntry) : List DigestEntry := es.filter (fun f => f.digest = e.digest)
  if n < 2 then .none
  else if es.all (fun e => (same e).length = n) then .agree
  else if n = 2 then .disagree
  else match es.find? (fun e => (same e).length + 1 = n) with
    | some e => match es.find? (fun f => f.digest ≠ e.digest) with
      | some f => .odd f.device (lowestDevice (same e))
      | none => .disagree
    | none => .disagree

/-- DATA of EV-SAF-04, 05 and 06 (R376). -/
def digestData (odd donor : Option Nat) (step : Dbl) : Dbl :=
  let o : BitVec 12 := BitVec.ofNat 12 (odd.getD 0)
  let r : BitVec 12 := BitVec.ofNat 12 (donor.getD 0)
  BitVec.ofBool odd.isSome ++ BitVec.ofBool donor.isSome ++ o ++ r ++ step.setWidth 38

/-- An expelled device, and every replica of a shard that disagrees: ABORT on the running step before its commit decision, the
partition stopped, nothing sent any more (R371, R373). -/
def Dev.expel (m : Dev) (p : Pid) : Dev :=
  let m1 := match (m.part p).run with
    | some r => if !r.decided && !r.isForward then m.abortStep p .expelled else m
    | none => m
  (m1.endJob p).modPart p (fun x => { x with xch := { x.xch with expelled := true } })

/-- The comparison runs on the entries present; those with another DIGEST_D are left out. -/
def Dev.decideDigest (m : Dev) (p : Pid) (a : Container) (r : DigestRun) : Dev :=
  let es := r.entries.filter (fun e => e.d = m.digest.dForce && decide (e.step = r.step))
  let m1 := m.modPart p (fun x => { x with digestRun := none })
  let put (n : Dev) (res : Nat) (odd donor : Option Nat) : Dev :=
    { n with digest := { n.digest with result := res, odd := odd, donor := donor, present := es.length } }
  let raise (n : Dev) (c : Ev) (odd donor : Option Nat) : Dev := n.raiseP n.map.primary p { ev c with data := digestData odd donor r.step }
  match verdict es with
  | .none => { m1 with digest := { m1.digest with present := es.length } }
  | .agree => let m2 := put m1 1 none none; { m2 with digest := { m2.digest with lastAgree := r.step } }
  | .odd x y =>
    if x = a.job.deviceIndex then (raise (put m1 3 (some x) (some y)) (.saf 4) (some x) (some y)).expel p
    else raise (put m1 2 (some x) (some y)) (.saf 5) (some x) (some y)
  | .disagree => (raise (put m1 3 none none) (.saf 6) none none).expel p

/-- The full set is held: a different DIGEST_D among its entries raises EV-CDM-10, and the decision is taken. -/
def Dev.fullDigest (m : Dev) (p : Pid) (a : Container) (r : DigestRun) : Dev :=
  (when (r.entries.any (fun e => e.d ≠ m.digest.dForce)) (fun n => n.raiseP n.map.primary p (ev (.cdm 10))) m).decideDigest p a r

/-- A DIGEST frame of the open digest step. On the first circuit this device adds its entry, and position 0 starts the second when
the frame comes back; on the second every position takes the full set, and the last sends it no further. -/
def Dev.digestIn (m : Dev) (p : Pid) (f : Frame) : Dev :=
  match (m.part p).digestRun, (m.part p).almanac with
  | some r, some a => match digestRing a (m.part p).form with
    | some g =>
      if f.ring ≠ g.ring then m
      else
        let full : DigestRun := { r with entries := f.entries }
        let mine := f.entries.any (fun e => e.device = a.job.deviceIndex)
        if mine then
          (if g.pos + 1 = g.n then m else m.sendDigest p a g r.step f.entries).fullDigest p a full
        else
          let es := f.entries ++ [digestEntry a { (m.part p).com with steps := r.step } m.digest.dForce]
          (m.sendDigest p a g r.step es).modPart p (fun x => { x with digestRun := some { r with entries := es } })
    | none => m
  | _, _ => m

/-- D at the commit is shown (R379). A digest step begins after the commit of a step whose number is a multiple of DIGEST_D (R334); position 0 starts the circuit, and
frames that came before are met now. -/
def Dev.startDigest (m : Dev) (p : Pid) (a : Container) (n : Nat) : Dev :=
  let m1 := { m with digest := { m.digest.settle n with digest := BitVec.ofNat 128 (m.part p).com.digest } }
  if m1.digest.dForce = 0 || n % m1.digest.dForce ≠ 0 then m1
  else
    let e := digestEntry a (m1.part p).com m1.digest.dForce
    let m2 := m1.modPart p (fun x => { x with digestRun := some { step := e.step, entries := [e] } })
    match digestRing a (m2.part p).form with
    | some g =>
      let m3 := if g.pos = 0 then m2.sendDigest p a g e.step [e] else m2
      let t := m3.takeHeld p (fun f => decide (f.kind = 0x10) && decide (f.step = e.step))
      t.2.foldl (fun n x => (n.leaveBuffer x.1 x.2.1 x.2.2).digestIn p x.2.2) t.1
    | none => m2

end Sys2Proof.Machine
end

