-- ==== Sys2Proof/Machine/Links.lean ====
section
/-! DEFINITION. The link commands: lanes and ports (R308 to R311, R337), flits (R312 to R314), frames (R315 to R334), and link keys
(R394). -/

namespace Sys2Proof.Machine

/-! ### Lanes and ports (R311, R321, R337) -/

/-- Logical lanes in use. -/
def activeLanes (ls : List Nat) : Nat := (ls.filter (fun l => decide (l ≠ 7))).length

/-- What the status register shows of a port; it changes at the end of a failover (R338). -/
def Port.show (q : Port) : Port := { q with shown := (q.st, q.laneMap, q.spareFree) }

/-- Event of a port. -/
def Dev.raisePort (m : Dev) (d : DieId) (q : PortId) (n lane : Nat) : Dev :=
  m.raise (some d) { evUnit (.cdm n) d 4 q.val lane with part := (m.owner (resPort d q.val)).map (fun p => p.val) }

/-- Frames of the lost port that were not fully acknowledged go out again whole on the ring's alternate (R321). -/
def Dev.resendFrames (m : Dev) (p : Pid) (fs : List Frame) : Dev :=
  match (m.part p).almanac with
  | some a => fs.foldl (fun n f => match ringOf a (n.part p).form f.ring with
      | some g => if f.kind ≤ 6 || f.kind = 0x10 then
          match n.ringOut g with
          | some o => n.sendOn o.1 o.2 f
          | none => n
        else n
      | none => n) m
  | none => m

/-- A port goes down (R313, R321): EV-CDM-03; its key goes (R394), and its rings move to their alternates. -/
def Dev.portDown (m : Dev) (d : DieId) (q : PortId) : Dev :=
  let y := (m.die d).port q
  let fs := ((y.replay ++ y.txq).map (fun t => t.frame)).eraseDups
  let m1 := (m.modDie d (fun x => x.modPort q (fun y => y.takenDown.show))).raisePort d q 3 0
  match m.owner (resPort d q.val) with
  | some p => m1.resendFrames p fs
  | none => m1

/-- A lane is declared failed (R311): the spare takes its place, or the port narrows, or it goes down with fewer than two lanes left.
Traffic pauses until LANE_FAILOVER_COMPLETE. A failed idle spare only stops being free. -/
def Dev.laneFailed (m : Dev) (d : DieId) (q : PortId) (lane : Nat) : Dev :=
  let y := (m.die d).port q
  if !(m.inService d && y.alive) || y.failed.contains lane then m
  else
    let mark (y : Port) : Port := { y with failed := y.failed ++ [lane] }
    if !y.laneMap.contains lane then
      m.modDie d (fun x => x.modPort q (fun y => { mark y with spareFree := false, shown := (y.shown.1, y.shown.2.1, false) }))
    else
      let map := y.laneMap.map (fun l => if l = lane then (if y.spareFree then 4 else 7) else l)
      if activeLanes map < 2 then (m.modDie d (fun x => x.modPort q (fun y => { mark y with laneMap := map }))).portDown d q
      else
        let m1 := m.modDie d (fun x => x.modPort q (fun y => { mark y with laneMap := map, spareFree := false, st := .failover }))
        ((m1.count d (.cdm q 9) 1).raisePort d q (if y.spareFree then 1 else 2) lane).emit (.linkMsg d.val q.val (.laneMap map))

/-- LANE_FAIL (R311). -/
def execLaneFail (d : DieId) (q : PortId) (lane : Fin 5) (s : State) : Res := s.go fun m => m.laneFailed d q lane.val

/-- LANE_FAILOVER_COMPLETE (R311): the new map holds at both ends; flits not yet acknowledged are sent again, and traffic resumes. -/
def execLaneFailoverComplete (d : DieId) (q : PortId) (s : State) : Res :=
  s.go fun m =>
    let y := (m.die d).port q
    if y.st = .failover && m.inService d then
      let m1 := m.modDie d (fun x => x.modPort q (fun y => Port.show { y with st := if activeLanes y.laneMap = 4 then .up else .narrowed }))
      (y.replay.foldl (fun n f => n.emitFlit d q f) (m1.count d (.cdm q 3) y.replay.length)).pump d q
    else m

/-- PORT_LINK_UP (R337): training with the peer completes on every lane; the peer's die, port and device index are learned, the index
also later, once its partition holds an almanac. -/
def execPortLinkUp (d : DieId) (q : PortId) (pd : DieId) (pq : PortId) (idx : Option (BitVec 12)) (s : State) : Res :=
  s.go fun m =>
    let y := (m.die d).port q
    if !m.inService d then m
    else if y.st = .training then
      m.modDie d (fun x => x.modPort q (fun y => Port.show
        { Port.reset with enable := y.enable, mode := y.mode, st := .up, peer := some (pd, pq), peerIndex := idx }))
    else if y.alive then m.modDie d (fun x => x.modPort q (fun y => { y with peer := some (pd, pq), peerIndex := idx }))
    else m

/-- PORT_RETRAINING (R311): while the port holds no frame of a step; failed lanes return to service and the spare is free again. A port
that went down trains anew. -/
def execPortRetraining (d : DieId) (q : PortId) (s : State) : Res :=
  s.go fun m =>
    let y := (m.die d).port q
    if !m.inService d || !y.enable || y.stepFrame then m
    else if y.st = .down then m.modDie d (fun x => x.modPort q (fun y => Port.show { y with st := .training }))
    else if y.alive then
      (m.modDie d (fun x => x.modPort q (fun y => Port.show { y with failed := [], spareFree := true, laneMap := [0, 1, 2, 3], st := .up }))).pump d q
    else m

/-- The port a die's port registers stand for. -/
def Die.selPort (x : Die) : PortId := Fin.ofNat 4 (bits (x.reg cdmPortSel) 1 0)

/-- PORT_ENABLE: a write of CDM_PORT_CTRL for the selected port (R337). MODE is ignored while ENABLE is 1; clearing ENABLE takes the
port down once it holds no frame of a step. -/
def execPortEnable (d : DieId) (v : Word) (s : State) : Res :=
  s.go fun m => if !m.dieRegs d then m else m.modDie d (fun x => x.modPort x.selPort (fun y =>
    let y1 : Port := { y with mode := if y.enable then y.mode else v.getLsbD 30, enable := v.getLsbD 31 }
    if v.getLsbD 31 then
      if y.st = .disabled || y.st = .down then Port.show { y1 with st := .training, downWait := false } else { y1 with downWait := false }
    else if y.stepFrame then { y1 with downWait := true }
    else Port.show { y1.takenDown with st := .disabled, downWait := false }))

/-! ### Flits (R313, R314) -/

/-- The acknowledgement of every flit received so far. -/
def Dev.sendAck (m : Dev) (d : DieId) (q : PortId) : Dev :=
  let y := (m.die d).port q
  (m.modDie d (fun x => x.modPort q (fun y => { y with sinceAck := 0 }))).emit (.linkMsg d.val q.val (.ack (y.seqIn - 1)))

/-- FLIT_RECEIVE: its codewords count (R337). A bad CRC or a gap is answered with a NAK of the expected SEQ; a flit seen before is dropped; otherwise it is
buffered, its credits are taken, and every 64th is acknowledged. -/
def execFlitReceive (d : DieId) (q : PortId) (f : Flit) (s : State) : Res :=
  s.go fun m =>
    let y := (m.die d).port q
    if !(m.inService d && y.alive) then m
    else
    let m := (m.count d (.cdm q 0) f.fecCorr).count d (.cdm q 1) f.fecUncorr
    if !f.crcOk then (m.count d (.cdm q 2) 1).emit (.linkMsg d.val q.val (.nak y.seqIn))
    else if f.seq ≠ y.seqIn then
      if 2048 ≤ (f.seq - y.seqIn).toNat then m else m.emit (.linkMsg d.val q.val (.nak y.seqIn))
    else
      let m1 := m.modDie d (fun x => x.modPort q (fun y =>
        { y with seqIn := y.seqIn + 1, sinceAck := y.sinceAck + 1,
                 rx := if f.vc < 2 then y.rx ++ [f] else y.rx,
                 cred0 := if f.creditVc = 0 then y.cred0 + f.credits else y.cred0,
                 cred1 := if f.creditVc = 1 then y.cred1 + f.credits else y.cred1 }))
      (if 64 ≤ y.sinceAck + 1 then m1.sendAck d q else m1).pump d q

/-- Flits up to and including `seq` are acknowledged. -/
def ackTo (seq : BitVec 12) (r : List TxFlit) : List TxFlit := r.filter (fun f => decide ((f.seq - seq - 1).toNat < 2048))

/-- LINK_FLIT_RECEIVE (R311, R313, R314). A NAK sends again from the expected flit; a flit sent eight times without acknowledgement
takes the port down. -/
def execLinkFlitReceive (d : DieId) (q : PortId) (msg : LinkMsg) (s : State) : Res :=
  s.go fun m =>
    let y := (m.die d).port q
    if !(m.inService d && y.alive) then m
    else match msg with
    | .ack n =>
      let left := ackTo n y.replay
      (m.modDie d (fun x => x.modPort q (fun y => { y with replay := left, resends := if left.length < y.replay.length then 0 else y.resends }))).pump d q
    | .nak n =>
      let left := ackTo (n - 1) y.replay
      let tries := (if left.length < y.replay.length then 0 else y.resends) + 1
      if left.isEmpty then (m.modDie d (fun x => x.modPort q (fun y => { y with replay := [], resends := 0 }))).pump d q
      else if 8 ≤ tries then m.portDown d q
      else
        left.foldl (fun n f => n.emitFlit d q f) ((m.modDie d (fun x => x.modPort q (fun y => { y with replay := left, resends := tries }))).count d
          (.cdm q 3) left.length)
    | .laneMap ls => m.modDie d (fun x => x.modPort q (fun y =>
        { y with laneMap := ls, spareFree := y.spareFree && !ls.contains 4, st := .failover }))
    | .credit vc n => (m.modDie d (fun x => x.modPort q (fun y =>
        if vc = 0 then { y with cred0 := y.cred0 + n } else { y with cred1 := y.cred1 + n }))).pump d q
    | .idle => m

/-- ACK_TIMER: 200 ns since the last acknowledgement. -/
def execAckTimer (d : DieId) (q : PortId) (s : State) : Res :=
  s.go fun m =>
    let y := (m.die d).port q
    if m.inService d && y.alive && decide (0 < y.sinceAck) then m.sendAck d q else m

/-! ### Frames -/

/-- A frame of a step of kind `k`. -/
def Dev.frameIn (m : Dev) (d : DieId) (q : PortId) (k : Nat) (f : Frame) : Dev :=
  let g : Frame := { f with kind := k }
  m.receive d q g (fun r n => n.useFrame g.partition d q g r)

def execReduceFrame (d : DieId) (q : PortId) (f : Frame) (s : State) : Res := s.go fun m => m.frameIn d q 1 f
def execGatherFrame (d : DieId) (q : PortId) (f : Frame) (s : State) : Res := s.go fun m => m.frameIn d q 2 f
def execCloseReduceFrame (d : DieId) (q : PortId) (f : Frame) (s : State) : Res := s.go fun m => m.frameIn d q 3 f
def execCloseGatherFrame (d : DieId) (q : PortId) (f : Frame) (s : State) : Res := s.go fun m => m.frameIn d q 4 f
def execTransferFrame (d : DieId) (q : PortId) (f : Frame) (s : State) : Res := s.go fun m => m.frameIn d q 5 f
def execMarkFrame (d : DieId) (q : PortId) (f : Frame) (s : State) : Res := s.go fun m => m.frameIn d q 6 f
def execExtendFrame (d : DieId) (q : PortId) (f : Frame) (s : State) : Res := s.go fun m => m.frameIn d q 0x12 f

/-- A control frame that carries no step's mark: taken by the port, authenticated, then used. -/
def Dev.controlIn (m : Dev) (d : DieId) (q : PortId) (f : Frame) (use : Dev → Dev) : Dev :=
  if !m.takes d q f.partition then m
  else
    let au := m.authentic d q f
    if !au.2 then au.1.leaveBuffer d q f else use au.1

/-- DIGEST_FRAME (R334): one of the open digest step is used, one of a commit not yet reached is held, another is late. -/
def execDigestFrame (d : DieId) (q : PortId) (f : Frame) (s : State) : Res :=
  s.go fun m =>
    let g : Frame := { f with kind := 0x10 }
    let p := f.partition
    m.controlIn d q g fun n =>
      match (n.part p).digestRun with
      | some r =>
        if g.step = r.step then (n.leaveBuffer d q g).digestIn p g
        else if (n.part p).com.steps.toNat < g.step.toNat then n.holdFrame d q g else n.lateFrame d q g
      | none => if (n.part p).com.steps.toNat < g.step.toNat && (n.part p).hasJob then n.holdFrame d q g else n.lateFrame d q g

/-- RESEND_FRAME (R331): the frames of the slot named go out again from the exchange record of that step, under new counters. -/
def execResendFrame (d : DieId) (q : PortId) (f : Frame) (s : State) : Res :=
  s.go fun m =>
    let p := f.partition
    m.controlIn d q { f with kind := 0x11 } fun n =>
      let x := n.part p
      let n1 := n.leaveBuffer d q { f with kind := 0x11 }
      match x.almanac with
      | some a =>
        let rec_ := if x.xch.record.step = f.step then x.xch.record.frames else if x.xch.prev.step = f.step then x.xch.prev.frames else []
        match ringOf a x.form f.ring with
        | some g =>
          if x.xch.expelled then n1
          else match n1.ringOut g with
            | some o => (rec_.filter (fun h => h.ring = f.ring && h.bucket = f.bucket && h.chunk = f.chunk)).foldl (fun n h => n.sendOn o.1 o.2 h) n1
            | none => n1
        | none => n1
      | none => n1

/-- The frames a deadline covers that have not been taken: their slots as blank frames (R322). -/
def missingFrames (a : Container) (x : Part) (p : Pid) (r : StepRun) (kind bucket chunk : Nat) : List Frame :=
  match kind with
  | 3 => if r.closeDone then [] else [stepFrame a x p 4 0 0 0]
  | 4 => if r.chunksDone.any (fun s => s.1 / (256 * 4294967296 * 65536) = 5 && s.1 / 65536 % 4294967296 = bucket && s.1 % 65536 = chunk) then []
         else [stepFrame a x p 5 0 bucket chunk]
  | _ =>
    match (ringOrderOf a x.form).bind (fun o => (o.buckets.find? (fun b => b.bucket = bucket)).bind (fun b => o.rings.find? (fun g => g.ring = b.ring))) with
    | some g => ((frameOffsets (chunkLen a x.form bucket g.n chunk)).map (fun off =>
        { stepFrame a x p kind g.ring bucket chunk with offset := off })).filter (fun f => !r.delivered f)
    | none => []

/-- Take the mirror's copies of frames whose deadline has expired. -/
def Dev.takeCopies (m : Dev) (p : Pid) (d : DieId) (q : PortId) (a : Container) (fs : List Frame) : Dev :=
  fs.foldl (fun n f => match ringOf a (n.part p).form f.ring with
    | some g => n.takeMirror p d q false (fun n => n.deliverData p d a g f)
    | none => n) m

/-- FRAME_DEADLINE_EXPIRY (R322, R323): counted; the mirror's frames are taken where they are acceptable (EV-CDM-04), and otherwise the
device rolls back (EV-CDM-05). -/
def execFrameDeadlineExpiry (p : Pid) (d : DieId) (q : PortId) (kind bucket chunk : Nat) (s : State) : Res :=
  s.go fun m => match (m.part p).run, (m.part p).almanac with
    | some r, some a =>
      let x := m.part p
      let miss := missingFrames a x p r kind bucket chunk
      if !m.inService d || x.intr.isSome || r.isForward || miss.isEmpty || !(1 ≤ kind && kind ≤ 4) || (kind ≤ 2 && !r.armed.contains bucket) then m
      else
        let m1 := m.count d (.cdm q 5) 1
        let copies := miss.filterMap (fun f => r.mirrFrames.find? (fun g => sameSlot f g && goodFrame g))
        if copies.length = miss.length then
          (m1.raiseP (some d) p { evUnit (.cdm 4) d 4 q.val 0 with part := some p.val }).takeCopies p d q a copies
        else
          let m2 := m1.raiseP (some d) p { evUnit (.cdm 5) d 4 q.val 0 with part := some p.val }
          m2.interrupt (some d) p (m2.plainIntr 6)
    | _, _ => m

/-- DIGEST_WAIT_EXPIRY (R334): EV-CDM-10, and the comparison runs on the entries present. -/
def execDigestWaitExpiry (p : Pid) (s : State) : Res :=
  s.go fun m => match (m.part p).digestRun, (m.part p).almanac with
    | some r, some a => (m.raiseP m.map.primary p (ev (.cdm 10))).decideDigest p a r
    | _, _ => m

/-- DIGEST_CFG_WRITE (R334, R337): both fields apply module-wide, so every die's register takes them. -/
def execDigestCfgWrite (d : DieId) (v : Word) (s : State) : Res :=
  s.go fun m => if !m.dieRegs d then m
    else
      let w := field (field ((m.die d).reg cdmDigestCfg) v 31 16 (fun n => decide (100 ≤ n))) v 6 0 (fun n => decide (1 ≤ n ∧ n ≤ 64))
      let m1 := dieIds.foldl (fun n d => n.modDie d (fun x => x.setReg cdmDigestCfg w)) m
      { m1 with digest := { m1.digest with dWritten := bits w 6 0, wait := bits w 31 16 } }

/-! ### Keys and counters (R394, R337) -/

/-- LINK_KEY_INSTALL (R394): a port bound to a partition with a job secret, its peer bound to the same job. This end's nonce is drawn and
sent; the key is that of frames from here to the peer, and FRAME_CTR restarts at 0. -/
def execLinkKeyInstall (d : DieId) (q : PortId) (nonce : Dbl) (s : State) : Res :=
  s.go fun m =>
    let y := (m.die d).port q
    match m.owner (resPort d q.val), y.peer, y.peerIndex with
    | some p, some pr, some b => match (m.part p).almanac with
      | some a =>
        if !(m.inService d && y.alive) then m
        else
          let own := Config.freeDbl m.free
          let key := Config.linkKey own nonce a.job.jobSecret
            [a.job.deviceIndex, senderPort d q, b.toNat, senderPort pr.1 pr.2, p.val]
          (((m.drawn 1).modDie d (fun x => x.modPort q (fun y => { y with key := some key, frameCtr := 0, lastIn := [] }))).emit
            (.nonce d.val q.val own)).pump d q
      | none => m
    | _, _, _ => m

def execCdmClearAll (d : DieId) (s : State) : Res := s.go fun m => m.clearOn d 6
def execCdmClearSel (d : DieId) (s : State) : Res :=
  s.go fun m =>
    let x := m.die d
    let k := bits (x.reg cdmCntSel) 3 0
    if !m.dieRegs d || decide (9 < k) then m else m.modDie d (fun x => x.clearOne (.cdm x.selPort k))

end Sys2Proof.Machine
end

