-- ==== Sys2Proof/Machine/Stack.lean ====
section
/-! DEFINITION. The stacks: corrected and uncorrectable lines, the patrol, temperature, page retirement, margin runs and far-tier errors
(R339 to R355). -/

namespace Sys2Proof.Machine

def evStk (n : Nat) (d : DieId) : Event := evUnit (.stk n) d 6 0 0

/-- First page of the system region (R341): 124 GiB in 64 KiB pages. -/
def systemPage : Nat := 2031616

/-! ### Corrected errors (R343) -/

/-- A corrected error in the present second of the duration counter; the first above CE_WARN in a second raises EV-STK-01. -/
def Dev.correctedError (m : Dev) (d : DieId) (kind : Nat) : Dev :=
  let x := m.die d
  let sec := x.dcnt / 1000000000#64
  let same := decide (sec = x.stack.ceSecAt)
  let n := (if same then x.stack.ceSecond else 0) + 1
  let said := same && x.stack.ceRaised
  let warn := decide (bits (x.reg stkCfg) 31 16 < n) && !said
  let m1 := m.modDie d (fun x => Die.count { x with stack := { x.stack with ceSecond := n, ceSecAt := sec, ceRaised := said || warn } } (.stk kind) 1)
  when warn (fun n => n.raise (some d) (evStk 1 d)) m1

def execStackCorrectedError (d : DieId) (onDie : Bool) (s : State) : Res :=
  s.go fun m => if m.inService d then m.correctedError d (if onDie then 0 else 1) else m

/-! ### Uncorrectable lines (R344, R345) -/

/-- Whether a line's other copy is gone as well (R352, R360): of a committed line, because the die that mirrors it is lost; of a
mirror's, because its owner is; of a served one, because nothing mirrors it yet. -/
def Dev.copyGone (m : Dev) (p : Pid) (d : DieId) (region : UeRegion) (addr : BitVec 37) : Bool :=
  let x := m.part p
  match region with
  | .both => true
  | .served => x.unrepl.contains d.val
  | .committed => x.unrepl.contains d.val || (match x.mirrorHolder d.val with
    | some h => !m.inService (Fin.ofNat 8 h)
    | none => true)
  | .mirror => (x.regions.find? (fun r => r.kind = 1 && r.die = d.val && decide (r.base * 2 ^ 28 ≤ addr.toNat)
      && decide (addr.toNat < (r.base + r.size) * 2 ^ 28))).any (fun r => !m.inService (Fin.ofNat 8 r.partner))
  | _ => false

/-- The row of R344 that applies. -/
inductive UeCase where
  | lost | repaired | wearLine | fault
  deriving DecidableEq, Repr

def Dev.ueCase (m : Dev) (p : Pid) (d : DieId) (region : UeRegion) (addr : BitVec 37) : UeCase :=
  if m.copyGone p d region addr then .lost
  else match region with
    | .wear => .wearLine
    | .committed => .repaired
    | .mirror => .repaired
    | .served => .repaired
    | .both => .lost
    | .working => .fault
    | .exchange => .fault
    | .stash => .fault
    | .prefetch => .fault
    | .data => .fault

/-- Each wear count in the line is set to its tile's MAX_WEAR (R344). -/
def Die.wearLineLost (x : Die) (addr : Nat) : Die :=
  (Config.wearLine addr).foldl (fun x e =>
    let top := (x.tile e.1).maxWear
    x.modLeaf e.1 (Fin.ofNat 4 e.2.1) (fun f => { f with wear := tset f.wearBase f.wear e.2.2 top })) x

/-- A page named across the module: die and page (R344). -/
def pageKey (d : DieId) (addr : BitVec 37) : Nat := d.val * 2097152 + addr.toNat / 65536

/-- The address is latched (R345) and the line counted. -/
def Die.latchUe (x : Die) (addr : BitVec 37) (patrol : Bool) : Die :=
  Die.count { x with stack := { x.stack with ueAddr := addr &&& ~~~ 0x3F#37 } } (.stk (if patrol then 5 else 2)) 1

/-- A repair without rollback: counted, EV-STK-02. -/
def Dev.ueRepaired (m : Dev) (d : DieId) (e : Event) : Dev := (m.count d (.stk 3) 1).raise (some d) { e with code := .stk 2, sev := (evRow (.stk 2)).1, action := (evRow (.stk 2)).2 }

/-- An uncorrectable line of staged or scratch data met by a read: rollback and replay, or the abort of a replay that meets it in a page
where its first attempt did. -/
def Dev.ueFault (m : Dev) (p : Pid) (d : DieId) (addr : BitVec 37) (e : Event) : Dev :=
  let x := m.part p
  let as (n : Nat) : Event := { e with code := .stk n, sev := (evRow (.stk n)).1, action := (evRow (.stk n)).2 }
  match x.run with
  | some r =>
    if r.replaying && x.ueFirst.contains (pageKey d addr) then (m.raise (some d) (as 8)).abortStep p .ueTwice
    else
      let m1 := if r.replaying then m else m.modPart p (fun x => { x with ueFirst := x.ueFirst ++ [pageKey d addr] })
      (m1.raise (some d) (as 3)).rollback (some d) [p] 6
  | none => (m.raise (some d) (as 3)).rollback (some d) [p] 6

/-- The 64 bytes of a line written back as zeros (R344). -/
def zeroLine (t : Tab (Option Byte)) (line : Nat) : Tab (Option Byte) :=
  (List.range 64).foldl (fun t i => tset none t (line + i) (some 0)) t

/-- An uncorrectable line of a region of partition `p`, found by a read or by the patrol. -/
def Dev.uncorrectable (m : Dev) (d : DieId) (p : Pid) (region : UeRegion) (addr : BitVec 37) (patrol : Bool) : Dev :=
  let m1 := m.modDie d (fun x => x.latchUe addr patrol)
  let line := BitVec.setWidth 64 (addr &&& ~~~ 0x3F#37)
  let e : Event := { evStk 4 d with data := line, part := if region = .wear then none else some p.val }
  match m.ueCase p d region addr with
  | .lost => ((m1.raise (some d) e).modPart p (fun y => { y with stateLost := true })).endJob p
  | .repaired => m1.ueRepaired d e
  | .wearLine => (m1.modDie d (fun x => x.wearLineLost addr.toNat)).ueRepaired d e
  | .fault =>
    if patrol then
      (m1.modDie d (fun x => { x with stack := { x.stack with mem := zeroLine x.stack.mem line.toNat } })).ueRepaired d e
    else m1.ueFault p d addr e

/-- STACK_UNCORRECTABLE. -/
def execStackUncorrectable (d : DieId) (p : Pid) (region : UeRegion) (addr : BitVec 37) (s : State) : Res :=
  s.go fun m => if m.inService d then m.uncorrectable d p region addr false else m

/-- PATROL_READ (R343, R344): what the patrol finds in a line. -/
def execPatrolRead (d : DieId) (p : Pid) (addr : BitVec 37) (corrected : Bool) (ue : Option UeRegion) (s : State) : Res :=
  s.go fun m =>
    if !m.inService d then m
    else match ue with
      | some region => m.uncorrectable d p region addr true
      | none => if corrected then m.correctedError d 4 else m

/-- STACK_FAILURE (R345): the die is fenced with EV-STK-09, once for each partition on it (R363). -/
def execStackFailure (d : DieId) (s : State) : Res :=
  s.go fun m =>
    if !m.inService d then m
    else
      let aff := m.partsOn d
      let m1 := (m.modDie d (fun x => { x with stack := { x.stack with trained := false } })).fence d
      if aff.isEmpty then m1.raise none (evStk 9 d) else aff.foldl (fun n p => n.raiseP none p (evStk 9 d)) m1

/-! ### Temperature (R347) -/

/-- The cap's level at a temperature in 1/16 °C, given the level before: each is released 3 °C below where it begins. -/
def throttleLevel (c : Nat) (old : Nat) (t : Int) (flag : Bool) : Nat :=
  let on (n : Nat) (from_ : Int) : Bool := decide (16 * from_ ≤ t) || (decide (n ≤ old) && decide (16 * (from_ - 3) ≤ t))
  if flag then 3 else if on 2 ((c : Int) + 5) then 2 else if on 1 (c : Int) then 1 else 0

/-- A reading: TEMP, the level, and the throttled time in whole milliseconds. -/
def Die.stackTemp (x : Die) (t : Int) (flag : Bool) : Die :=
  let k := x.stack
  let ns := if k.throttle = 0 then 0 else k.thrNs + (x.dcnt - k.thrAt).toNat
  Die.count { x with stack := { k with temp := BitVec.ofInt 12 t, flag := flag, thrAt := x.dcnt, thrNs := ns % 1000000,
                                       throttle := throttleLevel (bits (x.reg stkCfg) 7 0) k.throttle t flag } } (.stk 7) (ns / 1000000)

/-- STACK_TEMP_READ. The thermal alert output stands while some level is 3. -/
def execStackTempRead (d : DieId) (t : Int) (flag : Bool) (s : State) : Res :=
  s.go fun m =>
    if m.inService d && (m.die d).stack.trained then
      let m1 := m.modDie d (fun x => x.stackTemp t flag)
      when (decide ((m1.die d).stack.throttle ≠ (m.die d).stack.throttle)) (fun n => n.raise (some d) (evStk 5 d)) m1
    else m

/-! ### Page retirement (R346, R354) -/

/-- A step of a partition with a region on the page is running. -/
def Dev.pageBusy (m : Dev) (d : DieId) (page : Nat) : Bool :=
  partIds.any (fun p => (m.part p).run.isSome && (m.part p).regions.any (fun r =>
    r.die = d.val && decide (r.base * 4096 ≤ page) && decide (page < (r.base + r.size) * 4096)))

/-- The retirement applies: the page's copy stands at its own address, the map switches, the table goes to module flash, EV-STK-06. -/
def Dev.retirePage (m : Dev) (d : DieId) (page : BitVec 21) : Dev :=
  let t := (m.die d).stack.table ++ [page]
  ({ m.modDie d (fun x => { x with stack := { x.stack with table := t, retReq := none, retResult := 0 } }) with
     flash := { m.flash with retired := tset [] m.flash.retired d.val t } }).raise (some d) (evStk 6 d)

/-- RESULT of a request, 0 where it is taken. -/
def Stack.retireVerdict (k : Stack) (page : BitVec 21) : BitVec 2 :=
  if systemPage ≤ page.toNat then 3 else if k.table.contains page then 1 else if 1024 ≤ k.table.length then 2 else 0

/-- GO of STK_RETIRE_CTRL for the page that STK_RETIRE names. -/
def Dev.retireGo (m : Dev) (d : DieId) : Dev :=
  let x := m.die d
  let page := BitVec.ofNat 21 (bits (x.reg stkRetireHi) 4 0 * 65536 + bits (x.reg stkRetireLo) 31 16)
  let v := x.stack.retireVerdict page
  if x.stack.retReq.isSome then m
  else if v ≠ 0 then m.modDie d (fun x => { x with stack := { x.stack with retResult := v } })
  else if m.pageBusy d page.toNat then m.modDie d (fun x => { x with stack := { x.stack with retReq := some page } })
  else m.retirePage d page

def Dev.retireClear (m : Dev) (d : DieId) : Dev := m.modDie d (fun x => { x with stack := { x.stack with clearTab := true } })

/-- A write of STK_RETIRE_CTRL. -/
def Dev.retireCtrl (m : Dev) (d : DieId) (v : Word) : Dev :=
  if !m.dieRegs d then m
  else when (v.getLsbD 0) (fun n => n.retireClear d) (when (v.getLsbD 31) (fun n => n.retireGo d) m)

/-- PAGE_RETIRE: a write of STK_RETIRE_CTRL. -/
def execPageRetire (d : DieId) (v : Word) (s : State) : Res := s.go fun m => m.retireCtrl d v

/-- PAGE_RETIRE_APPLY: a request that waited for a step's outcome. -/
def execPageRetireApply (d : DieId) (s : State) : Res :=
  s.go fun m => match (m.die d).stack.retReq with
    | some page => if m.inService d && !m.pageBusy d page.toNat then m.retirePage d page else m
    | none => m

/-- RETIRE_CLEAR_TABLE: the table empties at the next module-level reset. -/
def execRetireClearTable (d : DieId) (s : State) : Res := s.go fun m => if !m.dieRegs d then m else m.retireClear d

/-! ### Margin runs (R348) -/

/-- The RW fields of STK_MARGIN. -/
def marginFields (old v : Word) : Word := field (field (field old v 29 24 anyVal) v 16 11 anyVal) v 10 6 anyVal

/-- Some stack region unit of the die is bound. -/
def Dev.stackBound (m : Dev) (d : DieId) : Bool :=
  m.binds.owners.any (fun e => decide (e.2 ≠ 0) && decide (resKeyKind e.1 = 6) && decide (resKeyDie e.1 = d.val))

/-- MARGIN_RUN: a write of STK_MARGIN. -/
def Dev.marginWrite (m : Dev) (d : DieId) (v : Word) : Dev :=
  if !m.dieRegs d then m
  else
    let go := v.getLsbD 31 && !(m.die d).stack.margin && !m.stackBound d && (match m.board.unlock with
      | some u => u.margin
      | none => false)
    m.modDie d (fun x => { (x.setReg stkMargin (marginFields (x.reg stkMargin) v)) with stack := { x.stack with margin := x.stack.margin || go } })

def execMarginRun (d : DieId) (v : Word) (s : State) : Res := s.go fun m => m.marginWrite d v

/-- MARGIN_RUN_DONE: the bit errors are shown. The lines it leaves undefined belong to no partition, and so read undefined in any case
until a new owner writes them (R351). -/
def execMarginRunDone (d : DieId) (errors : Nat) (s : State) : Res :=
  s.go fun m =>
    if m.inService d && (m.die d).stack.margin then
      m.modDie d (fun x => { x with stack := { x.stack with margin := false, marginErr := satAdd32 0#32 errors } })
    else m

/-! ### Clears and the far tier -/

def execStkClearAll (d : DieId) (s : State) : Res := s.go fun m => m.clearOn d 7
def execStkClearSel (d : DieId) (s : State) : Res := s.go fun m => m.clearKey d true (.stk (bits ((m.die d).reg stkErrSel) 2 0))

/-- FAR_TIER_ERROR (R349): a fault of a tier-3 read, or the failure of a checkpoint save that is up. -/
def execFarTierError (p : Pid) (duringSave : Bool) (s : State) : Res :=
  s.go fun m =>
    if duringSave then (m.setsOf p).foldl (fun n k => n.execHead k 0x12 (fun _ _ n => (n.countDecision (.stk 6) 1).reject k 0x04)) m
    else if (m.part p).hasJob then
      ((m.countDecision (.stk 6) 1).raiseP m.clockDie p (ev (.stk 7))).rollback m.clockDie [p] 6
    else m

end Sys2Proof.Machine
end

