-- ==== Sys2Proof/Machine/Rotation.lean ====
section
/-! DEFINITION. Test rotation (R364 to R367), the event log (R376, R377) and the fault alert (R379). -/

namespace Sys2Proof.Machine

/-! ### Rotation -/

/-- Codes of a class (R367, R379). -/
def classCode : TestClass → Nat
  | .tile => 1
  | .cube => 2
  | .wunit => 3
  | .lane => 4

/-- Units of a class on a die (R365). -/
def classUnits : TestClass → Nat
  | .tile => 4160
  | .cube => 1024
  | .wunit => 64
  | .lane => 20

def Rotation.out (r : Rotation) : TestClass → Option Nat
  | .tile => r.tile
  | .cube => r.cube
  | .wunit => r.wunit
  | .lane => r.lane

def Rotation.next (r : Rotation) : TestClass → Nat
  | .tile => r.nextT
  | .cube => r.nextC
  | .wunit => r.nextW
  | .lane => r.nextL

def Rotation.retry (r : Rotation) : TestClass → Bool
  | .tile => r.retryT
  | .cube => r.retryC
  | .wunit => r.retryW
  | .lane => r.retryL

/-- A class's unit out, its next unit, and whether that one's last pattern failed. -/
def Rotation.put (r : Rotation) (c : TestClass) (unit : Option Nat) (next : Nat) (again : Bool) : Rotation :=
  match c with
  | .tile => { r with tile := unit, nextT := next, retryT := again }
  | .cube => { r with cube := unit, nextC := next, retryC := again }
  | .wunit => { r with wunit := unit, nextW := next, retryW := again }
  | .lane => { r with lane := unit, nextL := next, retryL := again }

/-- Port and physical lane of a lane's index. -/
def lanePort (i : Nat) : PortId := Fin.ofNat 4 (i / 5)
def laneOf (i : Nat) : Nat := i % 5

/-- Units that rotation passes over: retired tiles (R135), and lanes of a port that cannot swap (R311). -/
def Die.skips (x : Die) (c : TestClass) (i : Nat) : Bool := match c with
  | .tile => decide ((x.tile i).st = .retiredSpare) || decide ((x.tile i).st = .retiredNone)
  | .lane => decide ((x.port (lanePort i)).st ≠ .up) || !(x.port (lanePort i)).spareFree
  | .cube => false
  | .wunit => false

/-- The unit whose turn it is: the next in ascending order, with wrap-around, that is not passed over. -/
def Die.turn (x : Die) (c : TestClass) : Option Nat :=
  let n := classUnits c
  let k := x.rot.next c % n
  (((List.range (n - k)).map (fun i => i + k)) ++ List.range k).find? (fun i => !x.skips c i)

/-- Whether no work is assigned to a unit (R235, R365, R311). -/
def Die.idleUnit (x : Die) (c : TestClass) (i : Nat) : Bool := match c with
  | .tile => (x.tile i).win.isNone
  | .cube =>
    let u := x.cube i
    !u.busy && !u.a0.full && !u.a1.full && !u.b0.full && !u.b1.full
  | .wunit => true
  | .lane => !(x.port (lanePort i)).stepFrame

/-- Slices of a unit's scan test (R365). -/
def scanSlices : TestClass → Nat
  | .tile => 48
  | .cube => 64
  | .wunit => 48
  | .lane => 1

/-- Enabled packs of a class, with the slices each takes (R364, R367, R379). -/
def Dev.packsOf (m : Dev) (c : TestClass) : List (Nat × Nat) :=
  (List.range 8).filterMap (fun n => match tget none m.sec.packs n with
    | some k => if (m.reg safTestCfg).getLsbD (8 + n) && decide (k.cls = classCode c) then some (n, k.slices) else none
    | none => none)

/-- Whether TEST_MODE and PACK_EN leave a class anything to run (R364, R379). -/
def Dev.testContent (m : Dev) (c : TestClass) : Bool :=
  (m.reg safTestCfg).getLsbD 0 || ((m.reg safTestCfg).getLsbD 1 && !(m.packsOf c).isEmpty)

/-- Key of a unit in the rotation's marks. -/
def unitKey (c : TestClass) (i : Nat) : Nat := classCode c * 8192 + i

def Rotation.visitOf (r : Rotation) (c : TestClass) : List Nat × Nat := tget ([], 0) r.visit (classCode c)

/-- The sources of a new visit's patterns and its slices: scan, or the enabled packs, which alternate where TEST_MODE selects both (R364). -/
def Dev.newVisit (m : Dev) (d : DieId) (c : TestClass) (i : Nat) : List Nat × Nat :=
  let ps := m.packsOf c
  let cfg := m.reg safTestCfg
  let packs := cfg.getLsbD 1 && !ps.isEmpty && (!cfg.getLsbD 0 || tget false (m.die d).rot.scanned (unitKey c i))
  if packs then (ps.map (fun p => p.1), (ps.map (fun p => p.2)).sum) else ([8], scanSlices c)

/-- The visit that a slice of a unit belongs to: the one in progress, which keeps its content (R367), or a new one. -/
def Dev.visitFor (m : Dev) (d : DieId) (c : TestClass) (i : Nat) : List Nat × Nat :=
  let v := (m.die d).rot.visitOf c
  if v.1.isEmpty then m.newVisit d c i else v

/-- Take a unit out on a visit: a cube or W-unit in service shows test rotation, and a lane in use is swapped with the spare. -/
def Die.takeOut (x : Die) (c : TestClass) (i : Nat) (visit : List Nat × Nat) : Die :=
  let x1 := { x with rot := { x.rot.put c (some i) i (x.rot.retry c) with visit := tset ([], 0) x.rot.visit (classCode c) visit } }
  match c with
  | .tile => x1
  | .cube => x1.modCube i (fun u => { u with st := if u.st = .inService then .inTest else u.st })
  | .wunit => x1.modWunit i (fun u => { u with st := if u.st = .inService then .inTest else u.st })
  | .lane =>
    let q := lanePort i
    let y := x.port q
    let map := y.laneMap.map (fun l => if l = laneOf i then 4 else l)
    { x1.modPort q (fun y => { y with laneMap := map, spareFree := false, shown := (y.shown.1, map, false) }) with
      rot := { x1.rot with swap := y.laneMap } }

/-- TEST_SLICE_START: the unit whose turn it is, with rotation on, no other unit of its class out, and TST not held by a power-state entry
(R422). -/
def execTestSliceStart (d : DieId) (c : TestClass) (i : Nat) (s : State) : Res :=
  s.go fun m =>
    let x := m.die d
    if m.inService d && !(m.reg safTestCfg).getLsbD 2 && m.testContent c && (x.rot.out c).isNone && decide (x.turn c = some i)
        && x.idleUnit c i && !m.blockHeld 12 then m.modDie d (fun x => x.takeOut c i (m.visitFor d c i))
    else m

/-- The unit returns: a cube's buffers are zeroed, and a lane takes its place again. -/
def Die.putBack (x : Die) (c : TestClass) (i : Nat) : Die := match c with
  | .tile => x
  | .cube => x.modCube i (fun u => { u.zeroed with st := if u.st = .inTest then .inService else u.st })
  | .wunit => x.modWunit i (fun u => { u with st := if u.st = .inTest then .inService else u.st })
  | .lane =>
    let map := x.rot.swap
    x.modPort (lanePort i) (fun y => { y with laneMap := map, spareFree := true, shown := (y.shown.1, map, true) })

/-- EV-SAF-10 of a unit: the pattern and its source. -/
def Dev.raiseTest (m : Dev) (d : DieId) (c : TestClass) (i : Nat) (pattern : BitVec 16) (source : BitVec 4) : Dev :=
  let data : Dbl := BitVec.ofNat 64 (pattern.toNat * 65536 + source.toNat)
  let (r, e) := match c with
    | .tile => (resTile d i, evUnit (.saf 10) d 1 i 0)
    | .cube => (resGroup d (i / 16), evUnit (.saf 10) d 2 i 0)
    | .wunit => (resWunit d i, evUnit (.saf 10) d 3 i 0)
    | .lane => (resPort d (i / 5), evUnit (.saf 10) d 4 (i / 5) (i % 5))
  m.raise (some d) { e with data := data, part := (m.owner r).map (fun p => p.val) }

/-- A failed test of a cube or W-unit is a fault of R234: EV-MCE-01 or EV-WUN-01, and the unit is retired at its second within one step, or
where the pattern failed a second time (`again`, R366). A unit already retired stays so. -/
def Dev.testFault (m : Dev) (d : DieId) (isCube again : Bool) (n : Nat) : Dev :=
  if m.unitRetired d isCube n then m
  else
    let before := if isCube then ((m.die d).cube n).faults else ((m.die d).wunit n).faults
    let m1 := m.modDie d (fun x => if isCube then x.modCube n (fun u => { u with faults := u.faults + 1 })
      else x.modWunit n (fun u => { u with faults := u.faults + 1 }))
    let m2 := m1.raiseUnit d isCube n (if isCube then .mce 1 else .wun 1)
    if again || decide (0 < before) then m2.retireUnit d isCube n else m2

/-- The outcome of a failed pattern, `again` where it is the second in a row (R366). -/
def Dev.testFailed (m : Dev) (d : DieId) (c : TestClass) (again : Bool) (i : Nat) : Dev := match c with
  | .tile => when again (fun n => n.modDie d (fun x => x.modTile i (fun y => { y with retireDue := true }))) m
  | .cube => m.testFault d true again i
  | .wunit => m.testFault d false again i
  | .lane => when again (fun n => n.laneFailed d (lanePort i) (laneOf i)) m

/-- Visits in a row that a retired unit has passed. -/
def Die.visited (x : Die) (c : TestClass) (i : Nat) (pass : Bool) : Die :=
  let up (n : Nat) : Nat := if pass then n + 1 else 0
  match c with
  | .cube => x.modCube i (fun u => { u with visits := if u.st = .retired then up u.visits else 0 })
  | .wunit => x.modWunit i (fun u => { u with visits := if u.st = .retired then up u.visits else 0 })
  | .tile => x
  | .lane => x

/-- A visit ends: the next unit's turn. A class whose scan came round counts; when all four have, the die has completed a scan cycle. -/
def Rotation.visitEnds (r : Rotation) (c : TestClass) (i : Nat) : Rotation :=
  let n := (i + 1) % classUnits c
  let scan := (r.visitOf c).1.contains 8
  let r1 := { r.put c none n false with
    visit := tset ([], 0) r.visit (classCode c) ([], 0), scanned := tset false r.scanned (unitKey c i) scan }
  if n ≠ 0 || !scan then r1
  else
    let ws := (classCode c :: r1.wraps).eraseDups
    if ws.length = 4 then { r1 with wraps := [], cycles := BitVec.ofNat 15 (min (r1.cycles.toNat + 1) 0x7FFF) }
    else { r1 with wraps := ws }

/-- A slice that passed: the visit goes on, or ends with its last slice. -/
def Die.slicePassed (x : Die) (c : TestClass) (i : Nat) : Die :=
  let v := x.rot.visitOf c
  if v.2 ≤ 1 then { x.visited c i true with rot := x.rot.visitEnds c i }
  else { x with rot := { x.rot.put c none i false with visit := tset ([], 0) x.rot.visit (classCode c) (v.1, v.2 - 1) } }

/-- A slice that failed counts: its pattern is run again at the unit's next slice, and a second failure in a row ends the visit. -/
def Die.sliceFailed (x : Die) (c : TestClass) (i : Nat) : Die :=
  let f := BitVec.ofNat 16 (min (x.rot.fails.toNat + 1) 0xFFFF)
  let r := if x.rot.retry c then x.rot.visitEnds c i else x.rot.put c none i true
  { x.visited c i false with rot := { r with fails := f } }

/-- TEST_SLICE_COMPLETE, from a source of the unit's present visit: a second failure in a row is its class's outcome (R366). -/
def execTestSliceComplete (d : DieId) (c : TestClass) (passed : Bool) (pattern : BitVec 16) (source : BitVec 4) (s : State) : Res :=
  s.go fun m =>
    let r := (m.die d).rot
    match r.out c with
    | none => m
    | some i =>
      if !(m.inService d && (r.visitOf c).1.contains source.toNat) then m
      else
        let m1 := m.modDie d (fun x => x.putBack c i)
        if passed then m1.modDie d (fun x => x.slicePassed c i)
        else ((m1.modDie d (fun x => x.sliceFailed c i)).raiseTest d c i pattern source).testFailed d c (r.retry c) i

/-! ### The event log (R376, R377) -/

/-- A record enters the log under the next SEQ; the oldest of 65,536 is overwritten. A record of severity 2 or 3 raises the in-band
interrupt too. -/
def Dev.logIn (m : Dev) (e : Event) : Dev :=
  let f := m.flash
  let l := f.log ++ [{ seq := f.nextSeq, ev := e }]
  { m with flash := { f with log := l.drop (l.length - 65536), nextSeq := f.nextSeq + 1 } }

/-- The in-band interrupt of a logged record. -/
def Dev.tell (m : Dev) (e : Event) : Dev := when (decide (2 ≤ e.sev)) (fun n => n.emit .inBandInterrupt) m

/-- EV-SAF-15 of a die that lost records. -/
def Dev.lostEvent (m : Dev) (d : DieId) : Event :=
  { evDie (.saf 15) d with data := BitVec.ofNat 64 (m.die d).evLost, counter := (m.die d).dcnt, cdie := some d.val }

/-- Every record that still waits enters the log at once, as on entry to Off (R431). -/
def Dev.flushLog (m : Dev) : Dev :=
  m.healthy.foldl (fun n d => ((n.die d).evBuf).foldl Dev.logIn (if 0 < (n.die d).evLost then n.logIn (n.lostEvent d) else n)) (m.evMod.foldl Dev.logIn m)

/-- EVENT_LOG_ENTRY: the oldest record buffered on the die enters the log, after EV-SAF-15 where records were lost; records that no
die detected go with those of the die that holds the primary. Nothing enters while no primary is elected, and a die's records wait while its controller is in a partial
reset (R407). -/
def execEventLogEntry (d : DieId) (s : State) : Res :=
  s.go fun m =>
    let x := m.die d
    if m.map.primary.isNone then m
    else match m.evMod with
      | e :: t => ({ m with evMod := t }.logIn e).tell e
      | [] =>
        if m.fencedDie d || x.saf.resetting then m
        else if 0 < x.evLost then
          ((m.modDie d (fun x => { x with evLost := 0 })).logIn (m.lostEvent d)).tell (m.lostEvent d)
        else match x.evBuf with
          | e :: t => ((m.modDie d (fun x => { x with evBuf := t })).logIn e).tell e
          | [] => m

/-- DERPOL_RECORD_SEND (R446): the primary sends up to `count` records not yet sent, in SEQ order. With the management section failed they
pass unsent, and LOG_READ finds them later (R53). -/
def execDerpolRecordSend (count : Nat) (s : State) : Res :=
  s.go fun m =>
    let rs := (m.flash.log.filter (fun r => m.flash.sentSeq < r.seq)).take count
    match rs.getLast? with
    | some r =>
      if m.map.primary.isSome then
        when (!m.board.mgmtFail) (fun n => n.emit (.derpol (derpolFrame m.sec.idtag m.board.mac rs))) { m with flash := { m.flash with sentSeq := r.seq } }
      else m
    | none => m

/-! ### Clears -/

/-- XCHK_CLEAR. -/
def execXchkClear (s : State) : Res := s.go fun m => if m.map.primary.isSome then { m with digest := { m.digest with xchkCount := 0 } } else m

/-- ALERT_CLEAR (R379). -/
def execAlertClear (s : State) : Res := s.go fun m => if m.map.primary.isSome then { m with board := { m.board with sev3 := false } } else m

end Sys2Proof.Machine
end

