-- ==== Sys2Proof/Machine/BindOps.lean ====
section
/-! DEFINITION. Operations of binding: what settles a rebind request (R384, R385), its release point (R381), owners changing (R387, R388),
and the scrub of a leaf that passes to a different owner (R173). -/

namespace Sys2Proof.Machine

/-! ### The request registers (R411) -/

def Dev.bindWord (m : Dev) : Source → Word
  | .host => m.binds.hostReq
  | .mgmt => m.binds.mgmtReq

/-- The resource a request word names; a leaf for kind 1 alone, a die for every kind but 7. -/
def reqRes (w : Word) : Resource :=
  { kind := bits w 31 28, die := if bits w 31 28 = 7 then 0 else bits w 27 25, index := bits w 24 12,
    leaf := if bits w 31 28 = 1 then bits w 11 10 else 0 }
def reqTarget (w : Word) : Nat := bits w 9 5

def Dev.bindDone (m : Dev) : Source → Bool
  | .host => m.binds.hostDone
  | .mgmt => m.binds.mgmtDone

/-- BIND_SRC accepts a source (R384). -/
def Dev.bindAccepts (m : Dev) : Source → Bool
  | .host => m.sec.bindSrc ≠ 1
  | .mgmt => m.sec.bindSrc ≠ 0

def BindCtl.setDone (b : BindCtl) (done : Bool) : Source → BindCtl
  | .host => { b with hostDone := done }
  | .mgmt => { b with mgmtDone := done }

def BindCtl.setResult (b : BindCtl) (r : Nat) : Source → BindCtl
  | .host => { b with hostRes := r, hostDone := true }
  | .mgmt => { b with mgmtRes := r, mgmtDone := true }

/-! ### Settling a request (R385) -/

def targetOf (t : Nat) : Option Pid := if t < 16 then some (Fin.ofNat 16 t) else none
def dieOf (r : Resource) : DieId := Fin.ofNat 8 r.die

/-- A partition in SUSPENDED, in an interruption, or running. -/
def Dev.ownerIs (m : Dev) (r : Resource) (f : Part → Bool) : Bool := match m.owner r with
  | some p => f (m.part p)
  | none => false

/-- Retired, or a free spare tile. -/
def Dev.unfit (m : Dev) (r : Resource) : Bool :=
  let x := m.die (dieOf r)
  match r.kind with
  | 0 => [TileState.spareFree, .retiredSpare, .retiredNone].contains (x.tile r.index).st
  | 1 => [TileState.spareFree, .retiredSpare, .retiredNone].contains (x.tile r.index).st
  | 3 => decide ((x.wunit r.index).st = .retired)
  | _ => false

/-- RESULT of a request that is refused, 0 where it is not. The spec gives no order among the refusals (log entry 25). -/
def Dev.bindVerdict (m : Dev) (src : Source) (r : Resource) (t : Nat) : Nat :=
  if !m.bindAccepts src then 8
  else if 8 ≤ r.kind || resCount r.kind ≤ r.index || !(decide (t < 16) || decide (t = 31)) then 6
  else if r.kind ≠ 7 && m.fencedDie (dieOf r) then 4
  else if m.unfit r then 5
  else if m.owner r = targetOf t then 9
  else if m.binds.waiting.any (fun w => decide (w.res = r)) then 7
  else if r.kind = 7 && ((m.ring (Fin.ofNat 64 r.index)).enabled || (m.ring (Fin.ofNat 64 r.index)).disabling) then 2
  else if r.kind = 6 && (m.die (dieOf r)).stack.margin then 3
  else if m.ownerIs r (fun x => decide (x.st = .suspended)) then 1
  else 0

/-- The release point is reached (R381, R385): no step of the owner, no interruption, no scrub of the leaf, no open window on the tile,
no operation on the group's cubes, the port drained. -/
def Dev.released (m : Dev) (r : Resource) : Bool :=
  let x := m.die (dieOf r)
  !m.ownerIs r (fun y => decide (y.st = .running) || y.intr.isSome)
    && match r.kind with
      | 0 => (x.tile r.index).win.isNone
      | 1 => (x.tile r.index).win.isNone && !(x.leaf r.index (Fin.ofNat 4 r.leaf)).scrub
      | 2 => (List.range 16).all (fun i => (x.cube (16 * r.index + i)).op.isNone)
      | 5 =>
        let q := x.port (Fin.ofNat 4 r.index)
        !q.stepFrame && q.txq.isEmpty && q.replay.isEmpty
      | _ => true

/-! ### Scrub (R173) -/

/-- The codes, epacts and tables of the weights on a leaf are set to 0 in its old owner's state. -/
def Committed.forget (c : Committed) (ss : List Site) : Committed :=
  { c with
    target := ss.foldl (fun t s => tset 0 t s.key 0) c.target
    prog := ss.foldl (fun t s => tset 0 t s.key 0) c.prog
    epacts := ss.foldl (fun t s => tset 0#32 t s.key 0) c.epacts
    tables := ss.foldl (fun t s => tset [] t s.block []) c.tables }

/-- A leaf's scrub begins: nothing else is written there, and nothing it held is kept. -/
def Leaf.startScrub (f : Leaf) : Leaf :=
  { f with scrub := true, sweeps := 0, placed := false, prog := none, progDesc := false, progCodes := [], progScales := [], progFail := [],
           refresh := none, overdue := false, offline := false, ready := none, computing := none, track := Track.reset, trackDone := none, colNext := [],
           blank := true }

/-- The leaf's queue entries are discarded, from the open window too. -/
def Tile.dropLeaf (y : Tile) (l : LeafId) : Tile :=
  { y with
    queue := y.queue.filter (fun e => decide (e.leaf ≠ l))
    reconcile := y.reconcile.map (fun es => es.filter (fun e => decide (e.leaf ≠ l)))
    win := y.win.map (fun w => { w with admitted := w.admitted.filter (fun g => decide (g.1 ≠ l)), groups := w.groups.filter (fun g => decide (g.1 ≠ l)), done := w.done.filter (fun e => decide (e.leaf ≠ l)) }) }

/-- A scrub begins at once (R173): where none was pending on the tile, its next window is a scrub's. -/
def Dev.startScrub (m : Dev) (old : Option Pid) (d : DieId) (t : Nat) (l : LeafId) : Dev :=
  let m1 := match old with
    | some p => match (m.part p).almanac with
      | some a => m.modCom p (fun c => c.forget ((m.die d).leafSites a (m.part p).variant d.val t l.val))
      | none => m
    | none => m
  m1.modDie d (fun x => x.modTile t (fun y =>
    ({ y.dropLeaf l with scrubTurn := y.scrubTurn || !y.leaves.any (fun e => e.2.scrub) } : Tile).modLeaf l Leaf.startScrub))

/-- The placement of the leaf's new owner, where it names the leaf. -/
def Dev.replaceLeaf (m : Dev) (p : Pid) (d : DieId) (t : Nat) (l : LeafId) : Dev :=
  match (m.part p).almanac with
  | some a => match ((m.die d).placedLeaves a d.val (fun _ => true)).find? (fun e => decide (e.1 = t) && decide (e.2.1 = l.val)) with
    | some e => m.modDie d (fun x => x.modLeaf t l (fun f => { f with placed := true, frozen := e.2.2 }))
    | none => m
  | none => m

/-! ### A partition comes into being, and ceases (R388, R454) -/

/-- Bindings of a partition's leaves are not recorded while it is a test partition. -/
def Dev.isTest (m : Dev) (p : Pid) : Bool := m.board.testParts.getLsbD p.val

def Dev.setTest (m : Dev) (p : Pid) (on : Bool) : Dev :=
  let w := m.board.testParts
  let b : BitVec 16 := 1#16 <<< p.val
  { m with board := { m.board with testParts := if on then w ||| b else w &&& ~~~ b } }

/-- Whether any resource is bound to a partition. -/
def Dev.hasAny (m : Dev) (p : Pid) : Bool := m.binds.owners.any (fun e => decide (e.2 = p.val + 1))

def Dev.comeToBe (m : Dev) (p : Pid) : Dev :=
  if (m.part p).inBeing then m
  else (m.modPart p (fun _ => { Part.reset with st := .empty })).setTest p m.board.unlock.isSome

def Dev.ceaseToBe (m : Dev) (p : Pid) : Dev :=
  if m.hasAny p then m else ((m.modPart p (fun _ => Part.reset)).setTest p false).publishIfCalm

/-! ### What a rebind does to the unit (R387, R351, R394) -/

/-- What the unit held is zeroed, or made unreadable, at the release point; RESOURCE_READY says that this is done (log entry 26). -/
def Dev.wipe (m : Dev) (r : Resource) : Dev :=
  let d := dieOf r
  match r.kind with
  | 2 => m.modDie d (fun x => (List.range 16).foldl (fun x i => x.modCube (16 * r.index + i) Cube.zeroed) x)
  | 4 => m.modDie d (fun x => { x with sram := tkeep x.sram (fun a => decide (a / Config.sramBank ≠ r.index)),
                                        pieces := x.pieces.filter (fun e => decide (e.1 / Config.sramBank ≠ r.index)) })
  | 5 => m.modDie d (fun x => x.modPort (Fin.ofNat 4 r.index) (fun q => { q with key := none, held := [], rx := [], lastIn := [] }))
  | 6 => m.modDie d (fun x => { x with stack := { x.stack with mem := tkeep x.stack.mem (fun a => decide (a / 2 ^ 28 ≠ r.index)) } })
  | 7 => m.modRing (Fin.ofNat 64 r.index) (fun g => { g with slots := [] })
  | _ => m

/-- Record a leaf's owner pair (R388): partition and device set, in module flash too but for a test partition. -/
def Dev.recordPair (m : Dev) (r : Resource) (p : Option Pid) : Dev :=
  let set : Dbl := match p with
    | some p => if (m.part p).slot.isSome then (m.part p).setId else 0
    | none => 0
  let n : Nat := match p with
    | some p => p.val + 1
    | none => 0
  let keep := match p with
    | some p => !m.isTest p
    | none => true
  { m with
    binds := { m.binds with leafSets := tset 0 m.binds.leafSets (resKey r) set }
    flash := { m.flash with leafBinds := tset 0 m.flash.leafBinds (resKey r) (if keep then n else 0),
                            leafSets := tset 0 m.flash.leafSets (resKey r) (if keep then set else 0) } }

/-- The rebind takes effect: EV-PART-01. -/
def Dev.applyBind (m : Dev) (r : Resource) (t : Option Pid) : Dev :=
  let old := m.owner r
  let m1 := match t with
    | some p => m.comeToBe p
    | none => m
  let m2 := ((m1.setOwner r t).wipe r)
  let m3 := if r.kind = 1 then
      let l : LeafId := Fin.ofNat 4 r.leaf
      let n := ((m2.startScrub old (dieOf r) r.index l).recordPair r t)
      match t with
      | some p => n.replaceLeaf p (dieOf r) r.index l
      | none => n
    else m2
  let m4 := { m3 with binds := { m3.binds with readying := (r :: m3.binds.readying).eraseDups } }
  let e : Event := { ev (.part 1) with die := if r.kind = 7 then none else some r.die, part := (t.or old).map (fun p => p.val) }
  let m5 := m4.raise none e
  match old with
  | some p => m5.ceaseToBe p
  | none => m5

/-- A refused request: EV-PART-03. -/
def Dev.refuseBind (m : Dev) (src : Source) (r : Resource) (res : Nat) : Dev :=
  let e : Event := { ev (.part 3) with die := if r.kind = 7 then none else some (r.die % 8), part := (m.owner r).map (fun p => p.val) }
  ({ m with binds := m.binds.setResult res src }).raise none e

end Sys2Proof.Machine
end

