-- ==== Sys2Proof/Machine/Binding.lean ====
section
/-! DEFINITION. Binding commands, leaf scrubs, device sets, and the Saffron controllers' measurement and partial resets (R381 to R389, R173,
R398, R403, R407). -/

namespace Sys2Proof.Machine

/-! ### Rebinding -/

/-- GO of PART_BIND_CTRL, through one of its two copies: refused, waiting, or applied at once. A request taken aborts a power-state
entry that every block has accepted (R424). -/
def Dev.bindGo (m : Dev) (src : Source) : Dev :=
  let w := m.bindWord src
  let r := reqRes w
  let t := reqTarget w
  let v := m.bindVerdict src r t
  if !m.bindDone src then m
  else if v ≠ 0 then m.refuseBind src r v
  else
    let m1 := m.abortEntry 0x0B
    if m1.released r then { m1.applyBind r (targetOf t) with binds := (m1.applyBind r (targetOf t)).binds.setResult 0 src }
    else { m1 with binds := { m1.binds.setDone false src with waiting := m1.binds.waiting ++ [{ res := r, target := t, src := src }] } }

/-- BIND_REQUEST. -/
def execBindRequest (src : Source) (s : State) : Res := s.go fun m => if m.regsUp then m.bindGo src else m

/-- A waiting rebind at its release point; refused where its die has been fenced, or its owner suspended, meanwhile (R409). -/
def Dev.bindApply (m : Dev) (w : Rebind) : Dev :=
  let m1 := { m with binds := { m.binds with waiting := m.binds.waiting.filter (fun v => decide (v ≠ w)) } }
  if w.res.kind ≠ 7 && m.fencedDie (dieOf w.res) then m1.refuseBind w.src w.res 4
  else if m.ownerIs w.res (fun x => decide (x.st = .suspended)) then m1.refuseBind w.src w.res 1
  else if m.released w.res then
    let m2 := m1.applyBind w.res (targetOf w.target)
    { m2 with binds := m2.binds.setResult 0 w.src }
  else m

/-- BIND_APPLY. -/
def execBindApply (r : Resource) (s : State) : Res :=
  s.go fun m => match m.binds.waiting.find? (fun w => decide (resKey w.res = resKey r)) with
    | some w => m.bindApply w
    | none => m

/-- RESOURCE_READY: zeroing, keying or the scrub is finished. A stack unit has two fresh keys (R393), draws of the noise source. -/
def execResourceReady (r : Resource) (s : State) : Res :=
  s.go fun m =>
    if !m.binds.readying.any (fun q => decide (resKey q = resKey r)) || (r.kind ≠ 7 && m.fencedDie (dieOf r)) then m
    else if r.kind = 1 && ((m.die (dieOf r)).leaf r.index (Fin.ofNat 4 r.leaf)).scrub then m
    else
      let m1 := { m with binds := { m.binds with readying := m.binds.readying.filter (fun q => decide (resKey q ≠ resKey r)) } }
      if r.kind = 6 then
        ({ m1 with sec := { m1.sec with stackKeys := tset 0 m1.sec.stackKeys (resKey r) (Config.freeKey m.free ++ Config.freeKey (m.free + 1)) } }).drawn 2
      else m1

/-- PART_SET_WRITE: a device set is bound to the partition that PART_SEL names, or taken from it, while it is EMPTY; a change scrubs
every leaf bound to it (R388, R398). -/
def Dev.partSetWrite (m : Dev) (v : Word) : Dev :=
  let p : Pid := Fin.ofNat 16 (bits (m.reg partSel) 3 0)
  let slot := bits v 3 0
  let new := if v.getLsbD 31 then (tget none m.sec.devsets slot).map (fun s => (slot, s)) else none
  let x := m.part p
  if x.st ≠ .empty || (v.getLsbD 31 && new.isNone) then m
  else if new.map (fun n => n.2) = (if x.slot.isSome then some x.setId else none) then
    m.modPart p (fun x => { x with slot := new.map (fun n => n.1) })
  else
    let m1 := m.modPart p (fun x => { x with slot := new.map (fun n => n.1), setId := (new.map (fun n => n.2)).getD 0 })
    let leaves := (m.binds.owners.filter (fun e => decide (e.2 = p.val + 1) && decide (resKeyKind e.1 = 1))).map (fun e => e.1)
    leaves.foldl (fun n k =>
      let d : DieId := Fin.ofNat 8 (resKeyDie k)
      let l : LeafId := Fin.ofNat 4 (k % 4)
      let r := resLeaf d (resKeyIndex k) l.val
      let n1 := (n.startScrub none d (resKeyIndex k) l).recordPair r (some p)
      { n1 with binds := { n1.binds with readying := (r :: n1.binds.readying).eraseDups } }) m1

def execPartSetWrite (v : Word) (s : State) : Res := s.go fun m => if m.regsUp then m.partSetWrite v else m

/-- LEAF_SCRUB_COMPLETE: columns with a cell that failed twice are retired (R133), and the leaf is free: EV-PART-02. Its owner's
placement is read first by a reference read (R194). -/
def execLeafScrubComplete (d : DieId) (t : TileId) (l : LeafId) (s : State) : Res :=
  s.go fun m =>
    let f := (m.die d).leaf t.val l
    if m.inService d && f.scrub && decide (0 < f.sweeps) && !f.sweepDue true then
      (m.modDie d (fun x => x.modTile t.val (fun y =>
        let y1 : Tile := { y with failPend := (y.failPend ++ f.progFail).eraseDups,
                                  scrubTurn := y.scrubTurn && y.leaves.any (fun e => decide (e.1 ≠ l.val) && e.2.scrub) }
        y1.modLeaf l (fun f => { f with scrub := false, sweeps := 0, progFail := [], runDue := true })))).raiseLeaf d t.val l (.part 2) none
    else m

/-! ### Measurement and partial resets (R403, R407) -/

/-- How many dies of a round measured `v`. -/
def votes (ms : List (DieId × BitVec 384)) (v : BitVec 384) : Nat := (ms.filter (fun e => decide (e.2 = v))).length

/-- The value that a strict majority measured. -/
def majorityOf (ms : List (DieId × BitVec 384)) : Option (BitVec 384) :=
  (ms.find? (fun e => decide (ms.length < 2 * votes ms e.2))).map (fun e => e.2)

/-- A primary is elected where none is (R403, R447): at start-up once every die is classified, which is no election in service and raises no
event. -/
def Dev.electFirst (m : Dev) : Dev :=
  if m.map.primary.isSome || dieIds.any (fun d => decide ((m.die d).cls = .unclassified)) then m
  else if m.map.everPrimary then (m.electAfter none).publishIfCalm
  else ({ m with map := { m.map with primary := m.nextPrimary none, everPrimary := !m.healthy.isEmpty } }).publishIfCalm

/-- MEASUREMENT_ROUND: a die in the minority for two rounds in a row is fenced; with no strict majority DISPUTED stands. A die whose
controller is in a partial reset keeps its last measurement and takes no part. -/
def execMeasurementRound (meas : List (Option (BitVec 384))) (s : State) : Res :=
  s.go fun m =>
    let ms := m.healthy.filterMap (fun d => if (m.die d).saf.resetting then none else (meas.getD d.val none).map (fun v => (d, v)))
    let top := majorityOf ms
    let m1 := ms.foldl (fun n e => n.modDie e.1 (fun x =>
      { x with saf := { x.saf with meas := e.2, majority := decide (top = some e.2),
                                   minority := if top.isSome && decide (top ≠ some e.2) then x.saf.minority + 1 else 0 } })) m
    let m2 : Dev := { m1 with map := { m1.map with disputed := !ms.isEmpty && top.isNone } }
    let m3 := (ms.filter (fun (e : DieId × BitVec 384) => decide (2 ≤ (m2.die e.1).saf.minority))).foldl (fun n e => n.fence e.1) m2
    if ms.isEmpty then m3 else m3.electFirst

/-- A die's Saffron controller restarts; the primary passes on where it held it (R403). -/
def Dev.partialReset (m : Dev) (d : DieId) : Dev :=
  if !m.inService d || (m.die d).saf.resetting then m
  else
    let m1 := m.modDie d (fun x => { x with saf := { x.saf with resetting := true } })
    if m.map.primary = some d then (m1.electAfter (some d)).publishIfCalm else m1

/-- SAFFRON_WATCHDOG_EXPIRY. -/
def execSaffronWatchdogExpiry (d : DieId) (s : State) : Res := s.go fun m => m.partialReset d

/-- PARTIAL_RESET_DONE: the die's measurements are taken again; one that no longer matches is fenced. -/
def execPartialResetDone (d : DieId) (inMajority : Bool) (s : State) : Res :=
  s.go fun m =>
    if m.inService d && (m.die d).saf.resetting then
      let m1 := m.modDie d (fun x => { x with saf := { x.saf with resetting := false, majority := inMajority, minority := 0 } })
      if inMajority then m1 else m1.fence d
    else m

end Sys2Proof.Machine
end

