-- ==== Sys2Proof/Machine/PowerOps.lean ====
section
/-! DEFINITION. Operations of power control: caps and levels (R416 to R421), the entry handshake (R422 to R427), and entering and leaving
Vigil, Repose and Off (R428 to R431). -/

namespace Sys2Proof.Machine

/-! ### Levels and caps -/

/-- Core voltage of a level in mV (R418). -/
def plVolts (pl : Nat) : Nat := ([650, 650, 650, 650, 700, 750, 800, 850] : List Nat).getD pl 800

/-- Hold: Run under an effective cap below 1 on some healthy die (R416). -/
def Dev.inHold (m : Dev) : Bool := m.power.st = .run && m.healthy.any (fun d => decide (m.effCap d < 64))

/-- The core voltage of every healthy die follows the level, but for one held at 0.65 V at 105 °C (R421). -/
def Dev.rampCores (m : Dev) : Dev := m.eachHealthy (fun x => if x.hot || !x.rails then x else { x with vddMv := plVolts m.power.pl })

/-! ### The handshake (R422, R423) -/

/-- A block's answer; a refusal carries its reason. -/
inductive Answer where
  | accept | defer | refuse
  deriving DecidableEq, Repr

/-- The blocks in the order of R422, by BLOCK code. -/
def powerBlocks : List Nat := [10, 11, 8, 4, 7, 1, 5, 2, 3, 12]

/-- A ring set of a partition that is not SUSPENDED holds a descriptor (R433), or a partition is RUNNING. -/
def Dev.workHeld (m : Dev) : Bool :=
  partIds.any (fun p => decide ((m.part p).st = .running))
    || setIds.any (fun k => !(m.ring k).held.isEmpty && (match m.partOf k with
      | some p => decide ((m.part p).st ≠ .suspended)
      | none => true))

def Dev.anyTile (m : Dev) (f : Tile → Bool) : Bool := m.healthy.any (fun d => (m.die d).tiles.any (fun e => f e.2))
def Dev.anyLeaf (m : Dev) (f : Leaf → Bool) : Bool := m.anyTile (fun y => y.leaves.any (fun e => f e.2))
def Dev.anyPort (m : Dev) (f : Port → Bool) : Bool := m.healthy.any (fun d => (m.die d).ports.any (fun e => f e.2))

/-- A block's answer for a target: 1 Vigil, 2 Repose, 3 Off (R423). -/
def Dev.blockAnswer (m : Dev) (target blk : Nat) : Answer :=
  let refuseIf (c : Bool) : Answer := if c then .refuse else .accept
  let deferIf (c : Bool) : Answer := if c then .defer else .accept
  match blk with
  | 10 => refuseIf m.workHeld
  | 11 => deferIf (!m.binds.waiting.isEmpty || !m.binds.readying.isEmpty)
  | 8 =>
    if partIds.any (fun p => (m.part p).intr.isSome) || (decide (2 ≤ target) && m.board.unlock.isSome) then .refuse
    else deferIf (m.healthy.any (fun d => (m.die d).saf.resetting) || (decide (target = 3) && m.board.xfers.any (fun x => x.kind = 1)))
  | 4 => if decide (2 ≤ target) && m.anyPort (fun q => q.key.isSome) then .refuse else deferIf (m.anyPort (fun q => q.stepFrame))
  | 7 => deferIf (m.healthy.any (fun d => (m.die d).stack.retReq.isSome || (m.die d).stack.margin))
  | 1 => deferIf (m.anyTile (fun y => y.win.isSome || !y.queue.isEmpty) || m.anyLeaf (fun f => f.prog.isSome || f.scrub))
  | 5 => deferIf (m.anyLeaf (fun f => f.placed && (f.runDue || f.colCalDue)))
  | 2 => deferIf (m.healthy.any (fun d => (m.die d).cubes.any (fun e => e.2.op.isSome)))
  | 12 => deferIf (m.healthy.any (fun d => [TestClass.tile, .cube, .wunit, .lane].any (fun c => ((m.die d).rot.out c).isSome)))
  | _ => .accept

/-- DONE and RESULT of the copy a request came from. -/
def Power.setResult (w : Power) (src : Option Source) (r : Nat) : Power := match src with
  | some .host => { w with hostResult := r }
  | some .mgmt => { w with mgmtResult := r }
  | none => w

/-- A request ends refused by a block: EV-PWR-01 with the block's code and its reason, counted (R422, R425). DATA is the reason (R427);
the block stands in UNIT's INDEX, for which R376 names no other place (log entry 28). -/
def Dev.refusePower (m : Dev) (src : Option Source) (target blk : Nat) (reason : Byte) : Dev :=
  let w := m.power
  let w1 := { w.setResult src 1 with req := none, lastRefuser := blk, refusals := tmod 0#32 w.refusals (target * 16 + blk) (fun n => satAdd32 n 1) }
  ({ m with power := w1 }).raise none { ev (.pwr 1) with data := reason.setWidth 64, index := blk }

/-- Ask blocks in order: the first refuser, or those that defer. -/
def Dev.askBlocks (m : Dev) (target : Nat) (bs : List Nat) : Option Nat × List Nat :=
  (bs.find? (fun b => decide (m.blockAnswer target b = .refuse)), bs.filter (fun b => decide (m.blockAnswer target b = .defer)))

/-- A request is put to blocks `bs`: refused, or in progress with those that defer. -/
def Dev.handshake (m : Dev) (src : Option Source) (target : Nat) (bs : List Nat) : Dev :=
  match m.askBlocks target bs with
  | (some b, _) => m.refusePower src target b (Config.refuseReason b target)
  | (none, ds) =>
    { m with power := { m.power with req := some { target := target, src := src, accepted := ds.isEmpty, exiting := false, deferring := ds } } }

/-! ### Requests (R426, R427) -/

/-- The reason R426 applies, in the codes of R427: 1 start-up, 2 test unlock open, 3 a partition STOPPED; 0 where it does not. -/
def Dev.unasked (m : Dev) : Nat :=
  if m.board.stage < 5 then 1
  else if m.board.unlock.isSome then 2
  else if partIds.any (fun p => decide ((m.part p).st = .stopped)) then 3
  else 0

/-- Vigil is reached: read paths off, cores at retention voltage, every die asleep (R413). -/
def Dev.enterVigil (m : Dev) (byTimer : Bool) : Dev :=
  let m1 := m.eachHealthy (fun x => { x with awake := false, vddMv := 650 })
  { m1 with power := { m1.power with st := .vigil, byTimer := byTimer, exitAsked := false } }

def Dev.setTarget (m : Dev) (src : Source) (t : Nat) : Dev :=
  { m with power := match src with
    | .host => { m.power with hostTarget := t }
    | .mgmt => { m.power with mgmtTarget := t } }

def Dev.setPowerResult (m : Dev) (src : Option Source) (r : Nat) : Dev := { m with power := m.power.setResult src r }

/-- An exit to Run begins; POWER_STATE_REACHED completes it. -/
def Dev.startExit (m : Dev) (src : Option Source) : Dev :=
  { m with power := { m.power with req := some { target := 0, src := src, accepted := true, exiting := true, deferring := [] } } }

/-- TARGET 0: at the next wake out of Vigil, at once out of Repose, nothing to do in Run or Hold. -/
def Dev.requestRun (m : Dev) (src : Source) : Dev :=
  match m.power.st with
  | .vigil => { m.startExit (some src) with power := { (m.startExit (some src)).power with exitAsked := true } }
  | .repose => m.startExit (some src)
  | .run => m.setPowerResult (some src) 0
  | .off => m

/-- TARGET 1 to 3: settled at once while R426 applies, else by handshake. A state already held, or one above Repose asked for in it, ends
at once (log entry 27). -/
def Dev.requestDown (m : Dev) (src : Source) (t : Nat) : Dev :=
  let r := m.unasked
  if m.power.st = .vigil && t = 1 || m.power.st = .repose && t = 2 then m.setPowerResult (some src) 0
  else if m.power.st = .repose && t = 1 then m.refusePower (some src) t 9 0
  else if r ≠ 0 then
    if t ≠ 1 then m.refusePower (some src) t 9 (BitVec.ofNat 8 r)
    else if m.workHeld then m.refusePower (some src) t 9 4
    else (m.enterVigil false).setPowerResult (some src) 0
  else m.handshake (some src) t powerBlocks

/-- A write of GO: nothing in Off, or while a request is in progress. -/
def Dev.powerGo (m : Dev) (src : Source) (t : Nat) : Dev :=
  if m.power.st = .off || m.power.req.isSome then m
  else
    let m1 := m.setTarget src t
    if t = 0 then m1.requestRun src else m1.requestDown src t

/-! ### Repose and Off (R430, R431) -/

/-- Write the CNV, TRK and WEAR records of every tile of a die (R200). -/
def Dev.writeStore (m : Dev) (d : DieId) : Dev :=
  ((m.die d).tiles.map (fun e => e.1)).foldl (fun n t =>
    leafIds.foldl (fun n l => n.storeRecord d .trk t l) ((n.storeRecord d .cnv t 0).storeRecord d .wear t 0)) m

/-- A port whose die goes down for Repose. -/
def Port.asleep (q : Port) : Port := { q.takenDown with shown := (.down, q.laneMap, q.spareFree) }

/-- A die in Repose: its stage SRAM in the stack's save area under a fresh key (R341), its stack in self-refresh, rails and ports down. -/
def Die.sleepDeep (key : BitVec 256) (x : Die) : Die :=
  let x1 := x.eachPort Port.asleep
  { x1 with
    rails := false
    analog := false
    vddMv := 0
    awake := false
    sram := []
    cubes := tmapv Cube.reset Cube.zeroed x1.cubes
    stack := { x1.stack with selfRef := true, save := some x1.sram, saveKey := key } }

def Dev.enterRepose (m : Dev) : Dev :=
  let m1 := m.healthy.foldl (fun n d => ((n.writeStore d).modDie d (Die.sleepDeep (Config.freeKey n.free))).drawn 1) m
  { m1 with power := { m1.power with st := .repose } }

/-- A placed leaf whose refresh interval ran out. -/
def Leaf.ranOut (now : Dbl) (f : Leaf) : Bool := f.placed && !f.blank && decide (refreshNs f.hottest ≤ (now - f.lastFresh).toNat)

/-- A leaf after Repose (R430): a reference read if placed, and overdue, hence served digitally, where its refresh interval ran out. -/
def Leaf.afterRepose (now : Dbl) (f : Leaf) : Leaf :=
  { f with runDue := f.runDue || f.placed, overdue := f.overdue || f.ranOut now, offline := f.offline || f.ranOut now }

/-- EV-CLV-10 of each leaf of a die that its refresh interval ran out on during Repose (R169, R430). -/
def Dev.ranOutLeaves (m : Dev) (d : DieId) : Dev :=
  let x := m.die d
  (x.tiles.flatMap (fun e => leafIds.filterMap (fun l => if (e.2.leaf l).ranOut x.dcnt && !(e.2.leaf l).overdue then some (e.1, l) else none))).foldl
    (fun n e => n.raiseLeaf d e.1 e.2 (.clv 10) none) m

/-- A die out of Repose: rails up, stack out of self-refresh and retrained, stage SRAM restored; ports with ENABLE train again. -/
def Die.wakeDeep (mv : Nat) (x : Die) : Die :=
  let x1 := x.eachPort (fun q => if q.enable then { q with st := .training, shown := (.training, q.laneMap, q.spareFree) } else { q with st := .disabled })
  { x1 with
    rails := true
    analog := true
    vddMv := if x1.hot then 650 else mv
    sram := x1.stack.save.getD []
    tiles := tmapv Tile.reset (fun y => { y with leaves := tmapv Leaf.reset (Leaf.afterRepose x1.dcnt) y.leaves }) x1.tiles
    stack := { x1.stack with selfRef := false, trained := true, save := none } }

/-- Run, or Hold, is reached again; snoops kept meanwhile are acted on (R415). -/
def Dev.enterRun (m : Dev) : Dev :=
  let m1 := if m.power.st = .repose then (m.healthy.foldl (fun n d => n.ranOutLeaves d) m).eachHealthy (Die.wakeDeep (plVolts m.power.pl)) else m
  let m2 := ({ m1 with power := { m1.power with st := .run, byTimer := false, exitAsked := false } }).rampCores
  m2.readKept (setIds.filter (fun k => !m2.interrupted k))

/-! ### Rails removed, and the module-level reset (R438, R451) -/

/-- What module flash keeps of the security state: records, sets, firmware banks, packs. Pending firmware runs after a start (R406). -/
def Security.kept (x : Security) : Security :=
  { Security.reset with
    idtag := x.idtag, owner := x.owner, svendor := x.svendor, svnMin := x.svnMin, seqAcc := x.seqAcc, setSeq := x.setSeq,
    devsets := x.devsets, bindSrc := x.bindSrc, pending := x.pending, running := x.running, packs := x.packs, recDigests := x.recDigests }

/-- What the standby domain keeps: pins, alerts, the destination address and the test port. -/
def Board.kept (b : Board) : Board :=
  { Board.reset with
    pwrEn := b.pwrEn, testEn := b.testEn, perst := b.perst, standby := b.standby, lastOff := b.lastOff, upNs := b.upNs,
    bifurcated := b.bifurcated, thermTrip := b.thermTrip, j1Latch := b.j1Latch, mac := b.mac, ir := b.ir, boundary := b.boundary,
    pinsDriven := b.pinsDriven, pinsFloat := b.pinsFloat }

/-- Every rail except standby goes down: the module is in Off, and only module flash and the standby domain keep anything. -/
def Dev.removeRails (m : Dev) (cause : Nat) : Dev :=
  { Dev.reset with
    board := { m.board.kept with lastOff := cause }
    sec := m.sec.kept
    flash := m.flash
    out := m.out
    free := m.free }

/-- An open unlock closes: TST_ fields take their reset values, test partitions in being stop, EV-TST-03 (R454). -/
def Dev.closeUnlock (m : Dev) : Dev :=
  if m.board.unlock.isNone then m
  else
    let m1 := { m with board := { m.board with unlock := none } }
    let m2 := dieIds.foldl (fun n d => n.modDie d (fun x => { x with regs := tkeep x.regs (fun k => decide (k % 0x10000 < 0x8000)), stallSet := [] })) m1
    ((partIds.filter m.isTest).foldl (fun n p => n.endJob p) m2).raise none (ev (.tst 3))

/-- A partition's leaf bindings, as recorded (R388): its device set is that of the records. -/
def Dev.slotOf (m : Dev) (set : Dbl) : Option Nat := (m.sec.devsets.find? (fun e => decide (e.2 = some set))).map (fun e => e.1)

/-- The always-on domains come up and the boot ROMs run (R447); a pending image runs from now on. -/
def Dev.boot (m : Dev) : Dev :=
  let m1 := dieIds.foldl (fun n d => n.modDie d (fun x => { x with booted := true, storeSeq := tget 0#64 m.flash.storeSeq d.val })) m
  { m1 with
    board := { m1.board with stage := 1, upNs := 0 }
    power := { m1.power with st := .run }
    sec := { m1.sec with running := tsetAll (0, 0) m1.sec.running m1.sec.pending, pending := [] } }

/-- Whether start-up can run: standby good, J1 in range, PWR_EN high, TEST_EN low (R438, R439, R453). -/
def Board.mayStart (b : Board) : Bool := b.standby && b.pwrEn && !b.j1Latch && !b.testEn

/-- What a module-level reset does before the rails go (R346, R454): CLEAR_TABLE is applied, and an open unlock closes with its record in the
log. -/
def Dev.beforeReset (m : Dev) : Dev :=
  let tables := dieIds.foldl (fun t d => if (m.die d).stack.clearTab then tset [] t d.val [] else t) m.flash.retired
  let m1 := { m with flash := { m.flash with retired := tables } }
  if m.board.unlock.isSome then m1.logIn { ev (.tst 3) with counter := m.now, cdie := m.clockDie.map (fun d => d.val) } else m1

/-- A module-level reset by MOD_RST_N or SAF_RESET (R451): start-up begins at boot, with TEST_EN at the level it has now (R458). In Off no
rail goes down, and LAST_OFF keeps its value. -/
def Dev.moduleReset (m : Dev) (testEn : Bool) : Dev :=
  let m1 := m.beforeReset.removeRails (if m.power.st = .off then m.board.lastOff else 6)
  let m2 := { m1 with board := { m1.board with testEn := testEn } }
  if m2.board.mayStart then m2.boot else m2

end Sys2Proof.Machine
end

