-- ==== Sys2Proof/Machine/RegRead.lean ====
section
/-! DEFINITION. What a register reads as (R40, R54, R97, R142, R175, R205, R206, R237, R238, R270, R271, R306, R337, R354, R379, R411, R412,
R435, R456, R457, R459, R460), and what its read latches. -/

namespace Sys2Proof.Machine

/-- A word of fields, each given with its lowest bit. -/
def wd (fs : List (Nat × Nat)) : Word := BitVec.ofNat 32 ((fs.map (fun f => f.1 * 2 ^ f.2)).foldl (· + ·) 0)

/-- A register whose RW fields alone read back. -/
def Die.rw (x : Die) (r : RegDef) (mask : Word) : Word := x.reg r &&& mask

def stateCode : PState → Nat
  | .notInBeing => 0
  | .empty => 1
  | .loaded => 2
  | .running => 3
  | .suspended => 4
  | .stopped => 5

def unitCode : UnitState → Nat
  | .inService => 0
  | .inTest => 1
  | .retired => 2

def portCode : PortState → Nat
  | .disabled => 0
  | .training => 1
  | .up => 2
  | .narrowed => 3
  | .failover => 4
  | .down => 5

/-- A counter of a layer that a selection register names; 0 where its partition's almanac has no such layer (R97). -/
def Dev.layerCount (m : Dev) (d : DieId) (sel : RegDef) (kinds : Nat) (key : Pid → Nat → Nat → CntKey) : Word :=
  let w := (m.die d).reg sel
  let p : Pid := Fin.ofNat 16 (bits w 31 28)
  if decide (kinds ≤ bits w 1 0) || ((m.part p).layer (bits w 27 16)).isNone then 0 else (m.die d).counter (key p (bits w 27 16) (bits w 1 0))

/-- A share in per cent: a free value of at most 100. -/
def Dev.percent (m : Dev) (ran : Bool) : Nat := if ran then min 100 (Config.freePercent m.free) else 0

/-! ### Per-die blocks, by offset in the die's range -/

/-- CAL_ (R40, R205). -/
def Die.readCal (x : Die) (off : Nat) : Word :=
  let sel := x.reg calLeafSel
  let t := bits sel 12 0
  let f := x.leaf t (Fin.ofNat 4 (bits sel 14 13))
  let shown := decide (t < 4160) && x.storeReady
  match off with
  | 0x0 => x.dcnt.setWidth 32
  | 0x4 => x.dcntHi
  | 0x8 => wd [(x.refclkOk.toNat, 31), (x.holdover.toNat, 30), (bits (x.reg calDcntCtrl) 7 0, 0)]
  | 0xC => x.trim.setWidth 32
  | 0x100 => x.rw calCfg 0x03FF001F#32
  | 0x104 => wd [(x.mon.refvOk.toNat, 31), (x.mon.holdover.toNat, 30), (x.mon.fail.toNat, 29), (x.storeReady.toNat, 28), (x.discarded.toNat, 0)]
  | 0x108 => x.mon.refv.setWidth 32
  | 0x110 => x.rw calLeafSel 0x7FFF#32
  | 0x114 => if shown then wd [(f.frozen.toNat, 31), ((f.placed && f.runDue).toNat, 30), (f.cal.tcal.toNat, 16), (f.cal.k.toNat, 0)] else 0
  | 0x118 =>
    if shown then wd [(min 255 ((x.dcnt - f.setAt).toNat / 1000000), 24), (f.cal.z.toNat, 12), (f.cal.kappa.toNat, 0)] else 0
  | 0x120 => x.storeSeq.setWidth 32
  | _ => 0

/-- Tiles of the die in one of some states, as the registers show them. -/
def Die.tilesIn (x : Die) (sts : List TileState) : Nat := (x.tiles.filter (fun e => sts.contains e.2.shown.st)).length

/-- CLV_ (R142, R175). RETIRED counts the tiles shown retired now, so one that RETIRE_CLEAR returned drops out (DESIGN CHOICE, log
entry 105). -/
def Dev.readClv (m : Dev) (d : DieId) (off : Nat) : Word :=
  let x := m.die d
  let t := bits (x.reg clvTileSel) 12 0
  let y := x.tile t
  let v := y.shown
  let shown := decide (t < 4160) && x.storeReady
  match off with
  | 0x1000 => x.rw clvTileSel 0x1FFF#32
  | 0x1004 =>
    if shown then wd [(tileCode v.st, 29), (y.passLeaf.val, 27), (v.band, 25), (v.spareUsed, 18), (32 - v.refBad, 12)] else 0
  | 0x1008 => if t < 4160 then v.link.setWidth 32 else 0
  | 0x100C =>
    wd [(x.tilesIn [.retiredSpare, .retiredNone], 19),
        (if x.cls = .unclassified then 0 else ((List.range 64).filter (fun i => decide ((x.tile (4096 + i)).shown.st = .spareFree))).length, 12),
        (x.tilesIn [.remapPending, .programming, .retiredNone], 0)]
  | 0x1010 => x.rw clvRetCfg 0xFF0F#32
  | 0x1020 => x.rw clvAniSel 0xFFFF0003#32
  | 0x1024 => m.layerCount d clvAniSel 3 (fun p l k => .ani p l k)
  | 0x1030 => wd [((x.tiles.any (fun e => e.2.hold5)).toNat, 31), (x.phaseM.mean, 0)]
  | 0x1040 =>
    if shown then wd [(v.reconcile.toNat, 31), ((y.leaves.any (fun e => e.2.overdue)).toNat, 30),
      ((leafIds.map (fun l => (y.leaf l).scrub.toNat * 2 ^ l.val)).foldl (· + ·) 0, 26), (v.occupancy, 20)] else 0
  | 0x1044 => if shown then v.maxWear.setWidth 32 else 0
  | 0x1048 => x.rw clvWrSel 0xFFFF0003#32
  | 0x104C => m.layerCount d clvWrSel 4 (fun p l k => .wr p l k)
  | 0x1054 => x.rw clvWrCfg 0x1FFFFFFF#32
  | _ => 0

/-- CNV_ (R206). -/
def Die.readCnv (x : Die) (off : Nat) : Word :=
  let c := bits (x.reg cnvMonSel) 4 0
  match off with
  | 0x2000 => x.rw cnvDiagTgt 0x3FFFFF#32
  | 0x2004 => (x.reg cnvDiagCtrl &&& 0xFFF8#32) ||| wd [((!x.diag.pending).toNat, 30)]
  | 0x2008 => x.diag.data
  | 0x2010 => x.rw cnvMonSel 0x1F#32
  | 0x2014 => if c < 8 || 16 ≤ c then BitVec.setWidth 32 (BitVec.ofInt 16 (if c < 8 then tget 0 x.mon.readings c else x.sensorAt (c - 16))) else 0
  | 0x2018 => x.counter .clip
  | _ => 0

/-- Cubes of the die that are retired, and groups with none in service. -/
def Die.cubesRetired (x : Die) : Nat := (x.cubes.filter (fun e => decide (e.2.shown = .retired))).length
def Die.groupsEmpty (x : Die) : Nat :=
  ((List.range 64).filter (fun g => (List.range 16).all (fun i => decide ((x.cube (16 * g + i)).shown ≠ .inService)))).length

/-- MCE_ (R237, R271). BUSY is a free share (log entry 2), 0 before the first cube step. -/
def Dev.readMce (m : Dev) (d : DieId) (off : Nat) : Word :=
  let x := m.die d
  let c := bits (x.reg mceCubeSel) 9 0
  let u := x.cube c
  let y := m.part x.smpPart
  let l := bits (x.reg mceSmpSel) 27 16
  let k := bits (x.reg mceCntSel) 1 0
  match off with
  | 0x3000 => x.rw mceCubeSel 0x3FF#32
  | 0x3004 => wd [(unitCode u.shown, 30), (c / 16, 24), (m.cubeFor d c, 14), (u.reruns.toNat, 0)]
  | 0x3008 => wd [(x.cubesRetired, 10), (x.groupsEmpty, 0)]
  | 0x300C => wd [(m.percent (decide (0 < x.stepM.cnt)), 24), (x.stepM.mean, 0)]
  | 0x3010 => x.rw mceCntSel 0x3#32
  | 0x3014 => if k < 3 then x.counter (.mce k) else 0
  | 0x3100 => (y.smpWritten &&& 0x3F0F#32) ||| wd [(y.smpPending.toNat, 31)]
  | 0x3104 => match y.almanac with
    | some a => wd [(y.digital.toNat, 31), (y.com.noForm.toNat, 30), (y.com.fallback.length, 25), (a.job.fbBudget, 20), (y.com.cleanRun, 0)]
    | none => 0
  | 0x3108 => x.rw mceSmpSel 0xFFFF0003#32
  | 0x310C => m.layerCount d mceSmpSel 3 (fun p l k => .smp p l k)
  | 0x3114 =>
    if (y.layer l).isSome then wd [((y.com.fallback.contains l).toNat, 31), (min 255 (tget 0 y.com.lastDis l), 13), (tget 0 y.com.fbClean l, 0)] else 0
  | _ => 0

/-- A step field of a partition: 0 while it has no almanac (R270). -/
def Part.stepField (y : Part) (f : Container → Word) : Word := (y.almanac.map f).getD 0

/-- WUN_ (R97, R238, R270). CLIP reads its reset value while no almanac is loaded (log entry 29). -/
def Dev.readWun (m : Dev) (d : DieId) (off : Nat) : Word :=
  let x := m.die d
  let n := bits (x.reg wunUnitSel) 5 0
  let u := x.wunit n
  let y := m.part x.wunPart
  let w := x.reg wunOvfSel
  let op : Pid := Fin.ofNat 16 (bits w 31 28)
  let k := bits (x.reg wunStepCntSel) 2 0
  match off with
  | 0x4000 => x.rw wunUnitSel 0x3F#32
  | 0x4004 => wd [(unitCode u.st, 30), (m.wunitFor d n, 18), (u.reruns.toNat, 0)]
  | 0x4008 => wd [((x.wunits.filter (fun e => decide (e.2.st = .retired))).length, 0)]
  | 0x400C => x.rw wunRngSel 0xF#32
  | 0x4010 => match (m.part (Fin.ofNat 16 (bits (x.reg wunRngSel) 3 0))).almanac with
    | some a => (aes128 (jobKey a) 0 >>> 96).setWidth 32
    | none => 0
  | 0x4014 => wd [(x.opM.mean, 0)]
  | 0x4200 => x.rw wunOvfSel 0xFFFF0703#32
  | 0x4204 =>
    if ((m.part op).layer (bits w 27 16)).isSome && decide (bits w 10 8 < 6) && decide (bits w 1 0 < 3)
    then x.counter (.ovf op (bits w 27 16) (bits w 10 8) (bits w 1 0)) else 0
  | 0x420C => y.stepField (fun _ =>
      let probing := y.run.any (fun r => r.probe)
      wd [((probing || decide (0 < y.com.stepsLeft)).toNat, 31), ((y.forceWarm || (!y.com.histValid && !y.run.any (fun r => r.probe && !r.isForward))).toNat, 30),
          (y.com.histValid.toNat, 29), (y.com.stepsLeft, 0)])
  | 0x42FC => x.rw wunPartSel 0xF#32
  | 0x4300 => y.stepField (fun a => wd [((y.run.any (fun r => !r.isForward)).toNat, 31), (y.lastOutcome, 28), (a.job.accN, 22),
      (y.com.steps.toNat % a.job.accN, 17)])
  | 0x4304 => y.stepField (fun _ => y.com.steps.setWidth 32)
  | 0x4308 => y.stepField (fun _ => x.stepHi)
  | 0x4310 => y.stepField (fun a => wd [(y.exhausted.toNat, 31), (y.t1pct, 24), (y.t2pct, 17), (y.t3pct, 10), (a.job.prefetchLead, 0)])
  | 0x4318 => x.rw wunStepCntSel 0x7#32
  | 0x431C => if k < 7 then y.stepField (fun _ => x.counter (.stepc x.wunPart k)) else 0
  | 0x4324 => y.stepField (fun _ => y.com.norm.setWidth 32)
  | 0x4328 => y.stepField (fun _ => x.normHi)
  | 0x432C => if y.almanac.isSome then y.com.clip else 0x3F800000#32
  | _ => 0

/-- STK_ (R354). -/
def Die.readStk (x : Die) (off : Nat) : Word :=
  let k := x.stack
  match off with
  | 0x5000 => x.reg stkCfg
  | 0x5004 => wd [(k.throttle, 30), (k.trained.toNat, 29), (k.temp.toNat, 16), (k.table.length, 0)]
  | 0x5008 => x.rw stkErrSel 0x7#32
  | 0x500C => x.counter (.stk (bits (x.reg stkErrSel) 2 0))
  | 0x5014 => k.ueAddr.setWidth 32 &&& 0xFFFFFFC0#32
  | 0x5018 => k.ueHi.setWidth 32
  | 0x501C => x.rw stkRetireLo 0xFFFF0000#32
  | 0x5020 => x.rw stkRetireHi 0x1F#32
  | 0x5024 => wd [(k.retReq.isNone.toNat, 30), (k.retResult.toNat, 28)]
  | 0x5028 => (x.reg stkMargin &&& 0x3F01FFC0#32) ||| wd [((!k.margin).toNat, 30)]
  | 0x502C => k.marginErr
  | _ => 0

def Die.selPortNo (x : Die) : PortId := Fin.ofNat 4 (bits (x.reg cdmPortSel) 1 0)

/-- CDM_ (R337). XCHG_STATUS is that of the partition that owns the selected port. -/
def Dev.readCdm (m : Dev) (d : DieId) (off : Nat) : Word :=
  let x := m.die d
  let q := x.selPortNo
  let y := x.port q
  let p := m.owner (resPort d q.val)
  let k := bits (x.reg cdmCntSel) 3 0
  match off with
  | 0x6000 => x.rw cdmPortSel 0x3#32
  | 0x6004 => wd [(y.enable.toNat, 31), (y.mode.toNat, 30)]
  | 0x6008 =>
    let map := y.shown.2.1
    wd [(portCode y.shown.1, 29), ((map.filter (fun l => decide (l ≠ 7))).length, 26), (y.shown.2.2.toNat, 25),
        (((List.range 4).map (fun i => map.getD i 0 * 8 ^ i)).foldl (· + ·) 0, 13), (y.key.isSome.toNat, 12), (p.isSome.toNat, 11),
        ((p.map (fun p => p.val)).getD 0, 7)]
  | 0x600C => match y.peer, y.peerIndex with
    | some r, some i => wd [(i.toNat, 20), (r.1.val, 17), (r.2.val, 15), (1, 14)]
    | some r, none => wd [(r.1.val, 17), (r.2.val, 15)]
    | none, _ => 0
  | 0x6010 => x.rw (banked cdmLaneCfg q.val) 0xFFFF#32
  | 0x6014 => x.rw cdmCntSel 0xF#32
  | 0x6018 => if k < 10 then x.counter (.cdm q k) else 0
  | 0x6020 => match p with
    | some p =>
      let g := (m.part p).xch
      wd [(g.lastMark, 30), (g.attempt % 4, 28), (g.complete.toNat, 27), (g.declares.length % 4, 25)]
    | none => 0
  | 0x6024 => x.rw cdmDigestCfg 0xFFFF007F#32
  | 0x6028 =>
    let up := decide (y.st = .up) || decide (y.st = .narrowed)
    wd [(m.percent up, 24), (({ m with free := m.free + 1 } : Dev).percent up, 16)]
  | _ => 0

/-- SAF_ of a die (R379). -/
def Die.readSaf (x : Die) (off : Nat) : Word :=
  let r := x.rot
  let out : Nat × Nat := match r.lane, r.wunit, r.cube, r.tile with
    | some i, _, _, _ => (4, i)
    | none, some i, _, _ => (3, i)
    | none, none, some i, _ => (2, i)
    | none, none, none, some i => (1, i)
    | none, none, none, none => (0, 0)
  match off with
  | 0x7104 => wd [(out.1, 28), (out.2, 15), (r.cycles.toNat, 0)]
  | 0x7108 => r.fails.setWidth 32
  | _ => 0

/-- TST_ of a die (R460). -/
def Die.readTst (x : Die) (off : Nat) : Word :=
  let c := bits (x.reg tstClassSel) 2 0
  match off with
  | 0x8000 => x.rw tstClassSel 0x7#32
  | 0x8004 => x.rw (banked tstAckDelay c) 0x8000FFFF#32
  | 0x8008 => x.rw (banked tstStretch c) 0x800003FF#32
  | 0x800C => x.rw (banked tstBackpress c) 0x83FFFFFF#32
  | 0x8010 => x.rw (banked tstPattern c) 0x8000FFFF#32
  | 0x8014 => wd [(x.stallSet.isEmpty.toNat, 30)]
  | _ => 0

/-- A register of a die, by offset in its 64 KiB. -/
def Dev.readDie (m : Dev) (d : DieId) (off : Nat) : Word :=
  match off / 0x1000 with
  | 0 => (m.die d).readCal off
  | 1 => m.readClv d off
  | 2 => (m.die d).readCnv off
  | 3 => m.readMce d off
  | 4 => m.readWun d off
  | 5 => (m.die d).readStk off
  | 6 => m.readCdm d off
  | 7 => (m.die d).readSaf off
  | 8 => (m.die d).readTst off
  | _ => 0

/-! ### Module-wide blocks -/

/-- RING_ (R306). -/
def Dev.readRing (m : Dev) (off : Nat) : Word :=
  let k : SetId := Fin.ofNat 64 (bits (m.reg ringSetSel) 5 0)
  let r := m.ring k
  let p := m.partOf k
  match off with
  | 0x80000 => 0x40400020#32
  | 0x80004 => m.reg ringSetSel &&& 0x3F#32
  | 0x80008 => (r.ctrl &&& 0x201F003F#32) ||| wd [((r.enabled && !r.disabling).toNat, 31), (r.disabling.toNat, 30)]
  | 0x8000C => wd [(r.enabled.toNat, 31), (r.halted.toNat, 30), (p.isSome.toNat, 29), ((p.map (fun p => p.val)).getD 0, 25), (r.enableErr, 16),
      (r.haltDetail.toNat, 8), (r.held.length, 0)]
  | 0x80010 => tget 0 r.bases 0
  | 0x80014 => tget 0 r.bases 1
  | 0x80018 => tget 0 r.bases 2
  | 0x8001C => tget 0 r.bases 3
  | 0x80020 => tget 0 r.bases 4
  | 0x80024 => tget 0 r.bases 5
  | 0x80028 => r.accepted
  | 0x8002C => r.completed
  | 0x80030 => r.published
  | 0x80034 => m.epochOf k
  | 0x8003C => BitVec.ofNat 32 (k.val * 0x20000)
  | 0x80040 => m.board.badAccess
  | _ => 0

/-- PART_ (R411), through the copy of a source. -/
def Dev.readPart (m : Dev) (src : Source) (off : Nat) : Word :=
  let p : Pid := Fin.ofNat 16 (bits (m.reg partSel) 3 0)
  let c := m.reg partCntSel
  match off with
  | 0x81000 => m.bindWord src
  | 0x81004 =>
    let own := (m.owner (reqRes (m.bindWord src))).map (fun p => p.val)
    let res := match src with
      | .host => m.binds.hostRes
      | .mgmt => m.binds.mgmtRes
    wd [((m.bindDone src).toNat, 30), (res, 26), (own.getD 31, 20)]
  | 0x81010 => m.reg partSel &&& 0xF#32
  | 0x81014 => wd [(stateCode (m.part p).st, 29), ((m.incomplete p).toNat, 28), ((m.bindAccepts .host).toNat, 27), ((m.bindAccepts .mgmt).toNat, 26),
      ((m.setsOf p).length, 0)]
  | 0x81018 => c &&& 0xFE000000#32
  | 0x8101C => BitVec.ofNat 32 (m.binds.owners.filter (fun e => decide (e.2 = p.val + 1) && decide (resKeyKind e.1 = bits c 31 28)
      && decide (resKeyDie e.1 = bits c 27 25))).length
  | 0x81020 => match (m.part p).slot with
    | some k => wd [(1, 31), (k, 0)]
    | none => 0
  | _ => 0

/-- Highest sensor reading of a die in whole °C, as 8 bits signed. -/
def Die.tmax (x : Die) : Nat := (BitVec.ofInt 8 ((x.sensors.foldl max (x.sensors.headD 0)) / 16)).toNat

/-- PWR_ (R435, R459), through the copy of a source. -/
def Dev.readPwr (m : Dev) (src : Source) (off : Nat) : Word :=
  let w := m.power
  let d : DieId := Fin.ofNat 8 (bits (m.reg pwrDieSel) 2 0)
  let x := m.die d
  let sel := m.reg pwrRefSel
  match off with
  | 0x82000 =>
    let busy := w.req.any (fun r => decide (r.src = some src))
    let rt : Nat × Nat := match src with
      | .host => (w.hostResult, w.hostTarget)
      | .mgmt => (w.mgmtResult, w.mgmtTarget)
    wd [((!busy).toNat, 30), (rt.1, 28), (rt.2, 26)]
  | 0x82004 =>
    let st : Nat := if w.req.any (fun r => !r.exiting) then 4
      else match w.st with
        | .vigil => 2
        | .repose => 3
        | _ => if m.inHold then 1 else 0
    wd [(st, 29), (w.byTimer.toNat, 28), ((decide (w.cOp < 64)).toNat, 27), ((m.healthy.any (fun d => decide ((m.die d).thermCap < 64))).toNat, 26),
        (w.cOp, 19), (w.lastRefuser, 15), (w.timerEntries.toNat, 0)]
  | 0x82008 => BitVec.ofNat 32 w.pl
  | 0x8200C => m.reg pwrCap &&& 0x7FF#32
  | 0x82010 => m.reg pwrVigilCfg &&& 0xFFFF03FF#32
  | 0x82014 => m.reg pwrLimitCfg &&& 0x003FFFFF#32
  | 0x82018 => m.reg pwrIdle &&& 0x3FFF#32
  | 0x8201C => wd [(w.vin.toNat, 21), (if w.samples.isEmpty then 0 else min 0xFFF (w.samples.foldl (· + ·) 0 / w.samples.length), 0)]
  | 0x82020 => m.reg pwrDieSel &&& 0x7#32
  | 0x82024 => if x.cls ≠ .inService then 0 else wd [(x.vddMv, 22), (m.effCap d, 15), (x.thermCap, 8), (x.tmax, 0)]
  | 0x82028 => sel &&& 0x3F#32
  | 0x8202C => if bits sel 5 4 = 0 || bits sel 3 0 = 0 then 0 else tget 0 w.refusals (bits sel 5 4 * 16 + bits sel 3 0)
  | 0x82030 => wd [(w.lastCause, 28), (w.aborts.toNat, 0)]
  | 0x82040 => wd [(m.board.stage, 29), (m.board.lastOff, 26), ((dieIds.any (fun d => (m.die d).warmup)).toNat, 25),
      ((dieIds.any (fun d => (m.die d).refWait)).toNat, 24), (m.board.startMs.toNat, 0)]
  | _ => 0

/-- The fault alert output (R440). -/
def Dev.alertFault (m : Dev) : Bool :=
  m.board.sev3 || m.bridgeDown || m.board.j1Latch || (dieIds.all (fun d => decide ((m.die d).cls ≠ .unclassified)) && decide (m.healthy.length < 2))

/-- The thermal alert output (R440): a stack's own high-temperature flag, or a 115 °C trip. -/
def Dev.alertTherm (m : Dev) : Bool := m.board.thermTrip || m.healthy.any (fun d => (m.die d).stack.flag)

/-- SAF_ module-wide (R54, R379, R412, R457): the primary's block. -/
def Dev.readSafMod (m : Dev) (off : Nat) : Word :=
  let g := m.digest
  match m.map.primary with
  | none => if off = 0x83040 then 0x00000F00#32 else 0
  | some d => match off with
    | 0x83040 => m.dieMap
    | 0x83100 => m.reg safTestCfg &&& 0xFF07#32
    | 0x83104 => (m.die d).readSaf 0x7104
    | 0x83108 => (m.die d).readSaf 0x7108
    | 0x83110 => wd [(g.result, 30), (g.donor.isSome.toNat, 29), (g.odd.isSome.toNat, 28), (g.present, 0)]
    | 0x83114 => g.lastAgree.setWidth 32
    | 0x83118 => g.agreeHi
    | 0x8311C => m.reg safDigestSel &&& 0x3#32
    | 0x83120 => (g.digest >>> (32 * bits (m.reg safDigestSel) 1 0)).setWidth 32
    | 0x83124 => wd [(g.donor.getD 0, 16), (g.odd.getD 0, 0)]
    | 0x83130 => m.reg safXchkCfg &&& 0x1FFF#32
    | 0x83134 => g.xchkCount
    | 0x83140 => wd [((partIds.any (fun p => (m.part p).intr.isSome)).toNat, 31), ((partIds.any (fun p => !(m.part p).unrepl.isEmpty)).toNat, 30),
        (m.recov.action, 16), (m.recov.lastUs.toNat, 0)]
    | 0x83144 => wd [(m.alertFault.toNat, 31)]
    | 0x83180 => wd [(m.sec.owner.isSome.toNat, 31), ((!m.sec.pending.isEmpty).toNat, 30), (m.map.disputed.toNat, 29),
        (dieMask (dieIds.filter (fun d => (m.die d).saf.resetting)), 16), (m.sec.sessions.length, 10)]
    | 0x831A0 => m.reg safReset &&& 0x00070000#32
    | _ => 0

/-- Whole seconds an open unlock has left on the primary's counter (R454). -/
def Dev.unlockLeft (m : Dev) (u : Unlock) : Nat := u.durationS - (m.elapsed u.openedAt).toNat / 1000000000

/-- TST_ module-wide (R459). -/
def Dev.readTstMod (m : Dev) (off : Nat) : Word :=
  match off with
  | 0x84000 => match m.board.unlock with
    | some u => wd [(1, 31), (u.mask.toNat, 22), (u.margin.toNat, 21), (u.priv.toNat, 20), (m.unlockLeft u, 0)]
    | none => 0
  | 0x84004 => m.board.testParts.setWidth 32
  | _ => 0

/-- What an aligned 32-bit read of BAR0 returns (R456, R457). -/
def Dev.regValue (m : Dev) (src : Source) (off : Nat) : Word :=
  if off < 0x80000 then
    let d : DieId := Fin.ofNat 8 (off / 0x10000)
    if m.fencedDie d then 0xFFFFFFFF#32 else m.readDie d (off % 0x10000)
  else match off / 0x1000 with
    | 0x80 => m.readRing off
    | 0x81 => m.readPart src off
    | 0x82 => m.readPwr src off
    | 0x83 => m.readSafMod off
    | 0x84 => m.readTstMod off
    | _ => 0

/-- A read of a low half latches the high one (R40, R270, R354, R379). -/
def Dev.latch (m : Dev) (off : Nat) : Dev :=
  if off < 0x80000 then
    let d : DieId := Fin.ofNat 8 (off / 0x10000)
    if m.fencedDie d then m
    else m.modDie d (fun x =>
      let y := m.part x.wunPart
      match off % 0x10000 with
      | 0x0 => { x with dcntHi := (x.dcnt >>> 32).setWidth 32 }
      | 0x4304 => { x with stepHi := (y.com.steps >>> 32).setWidth 32 }
      | 0x4324 => { x with normHi := (y.com.norm >>> 32).setWidth 32 }
      | 0x5014 => { x with stack := { x.stack with ueHi := (x.stack.ueAddr >>> 32).setWidth 5 } }
      | _ => x)
  else if off = 0x83114 && m.map.primary.isSome then { m with digest := { m.digest with agreeHi := (m.digest.lastAgree >>> 32).setWidth 32 } }
  else m

/-- A read: its value goes out by `f`, what it latches is latched, and two free draws are used up. -/
def Dev.readReg (m : Dev) (src : Source) (off : Nat) (f : Word → Out) : Dev := ((m.latch off).emit (f (m.regValue src off))).drawn 2

end Sys2Proof.Machine
end

