-- ==== Sys2Proof/Machine/Attest.lean ====
section
/-! DEFINITION. SPDM and IDE key management (R391, R402 to R405, R408). Response codes and error codes are SPDM's (log entry 30). -/

namespace Sys2Proof.Machine

/-! ### Reaching the responder (R404, R408, R431) -/

/-- DOE answers over the CXL link once it is ready; MCTP over I3C in standby too. A failed section of the bridge answers nothing (R53). -/
def Dev.spdmReach (m : Dev) : SpdmPath → Bool
  | .doe => m.board.memActive && !m.board.hostFail
  | .mctp => m.board.standby && !m.board.mgmtFail

/-- A primary Saffron controller can answer. -/
def Dev.spdmReady (m : Dev) : Bool := m.map.primary.isSome && decide (m.power.st ≠ .off)

/-- A request: answered by `f`, or with ResponseNotReady and kept for RESPOND_IF_READY. -/
def Dev.spdm (m : Dev) (path : SpdmPath) (c : Instr) (f : Dev → Dev) : Dev :=
  if !m.spdmReach path then m
  else if m.spdmReady then f m
  else { m.emit .spdmNotReady with sec := { m.sec with deferred := some c } }

/-- A signed response: the RSA signature goes out, the SLH-DSA one over the same transcript is kept for GET_SLH_SIGNATURE (R405). -/
def Dev.signed (m : Dev) : Dev :=
  ({ m.emit (.spdmSig (Config.rsaSignature m.free)) with sec := { m.sec with sigReady := some m.free } }).drawn 1

/-! ### The report (R402) -/

def Dev.compDigest (t : Tab (Nat × BitVec 384)) (c : Nat) : List Nat := [(tget (0, 0) t c).2.toNat]

/-- Block 0x06: running versions and minimums of components 2 to 5, the owner's key IDs, the digest of the accepted records. -/
def Dev.blockVersions (m : Dev) : List Nat :=
  let own := m.sec.owner.getD (0, 0)
  [2, 3, 4, 5].map (fun c => (tget (0, 0) m.sec.running c).1) ++ [2, 3, 4, 5].map (fun c => tget 0 m.sec.svnMin c)
    ++ [own.1.toNat, own.2.toNat, (Config.sha384 (m.sec.recDigests.map (fun d => d.toNat))).toNat]

/-- Block 0x09. -/
def Dev.blockDies (m : Dev) : List Nat :=
  [m.healthyMask, dieMask (dieIds.filter m.fencedDie), dieMask (dieIds.filter (fun d => (m.die d).saf.resetting)),
   (m.map.primary.map (fun d => d.val)).getD 15, m.map.disputed.toNat]

/-- Block 0x0A: for each partition its state, set, test flag, counts by kind and die, and the digest of its bindings. -/
def Dev.blockParts (m : Dev) : List Nat :=
  partIds.flatMap (fun p =>
    let mine := (m.binds.owners.filter (fun e => decide (e.2 = p.val + 1))).map (fun e => e.1)
    let counts := (List.range 8).flatMap (fun k => (List.range 8).map (fun d =>
      (mine.filter (fun r => decide (resKeyKind r = k) && decide (resKeyDie r = d))).length))
    [stateCode (m.part p).st, (m.part p).setId.toNat, (m.board.testParts.getLsbD p.val).toNat] ++ counts ++ [(Config.sha384 mine).toNat])

/-- Block 0x0B: the streams and their keys' generation. -/
def Dev.blockIde (m : Dev) : List Nat :=
  m.sec.ide.flatMap (fun s => [match s.kind with
    | .cachemem => 0
    | .selective => 1
    | .link => 2, s.stream, s.keyGen])

/-- Block 0x10 + p. -/
def Dev.blockPart (m : Dev) (p : Pid) : Option (List Nat) :=
  let x := m.part p
  x.almanac.map (fun a => [a.almanacId.toNat, a.digest.toNat] ++ x.pkgDigests.map (fun d => d.toNat)
    ++ [x.setId.toNat, (aes128 (jobKey a) 0 >>> 96).toNat])

/-- The store's records in use, of each record the copy with the highest SEQ, in SEQ order (R402). -/
def Dev.storeInUse (m : Dev) : Tab (List Byte) :=
  let es := m.flash.store.map (fun e => (e.1, leAt e.2 8 8, e.2))
  let used := es.filter (fun e => !es.any (fun o => decide (o.1 / 2 = e.1 / 2 ∧ e.2.1 < o.2.1)))
  tsetAll [] [] (used.map (fun e => (e.2.1 * 2 ^ 24 + e.1, e.2.2)))

/-- The measurement blocks, each with its index and pending flag. -/
def Dev.report (m : Dev) : List (Nat × Bool × List Nat) :=
  [(0x01, false, [Config.bootRomDigest.toNat]), (0x02, false, Dev.compDigest m.sec.running 2), (0x03, false, Dev.compDigest m.sec.running 3),
   (0x04, false, Dev.compDigest m.sec.running 4), (0x05, false, Dev.compDigest m.sec.running 5), (0x06, false, m.blockVersions),
   (0x07, false, [(Config.sha384 (m.storeInUse.flatMap (fun e => e.2.map BitVec.toNat))).toNat]),
   (0x08, false, (List.range 8).map (fun n => ((tget none m.sec.packs n).map (fun k => k.digest.toNat)).getD 0)
      ++ [bits (m.reg safTestCfg) 15 8, bits (m.reg safTestCfg) 1 0]),
   (0x09, false, m.blockDies), (0x0A, false, m.blockParts), (0x0B, false, m.blockIde)]
  ++ partIds.filterMap (fun p => (m.blockPart p).map (fun v => (0x10 + p.val, false, v)))
  ++ m.sec.pending.map (fun e => (0x40 + e.1, true, [e.2.2.toNat]))

/-! ### Answers -/

def Dev.answerVersion (m : Dev) : Dev := m.emit (.spdm 0x04 [0x12, 0x13])

/-- Signed measurements, certificates, challenges, key exchange, chunks and 4 sessions. -/
def Dev.answerCapabilities (m : Dev) : Dev := m.emit (.spdm 0x61 [4])

/-- RSASSA-PSS 3072, SHA-384, secp384r1, AES-256-GCM: an offer without them is in error. -/
def Dev.answerAlgorithms (m : Dev) (path : SpdmPath) (supported : Bool) : Dev :=
  let k := match path with
    | .doe => 0
    | .mctp => 1
  let m1 := { m with sec := { m.sec with algOk := tset false m.sec.algOk k supported } }
  if supported then m1.emit (.spdm 0x63 [3072, 384, 384, 256]) else m1.emit (.spdmError 0x01)

def Dev.answerDigests (m : Dev) : Dev := m.emit (.spdm 0x01 [1, Config.certDigest.toNat])

/-- Certificate slot 0 only. -/
def Dev.answerCertificate (m : Dev) (slot offset length : Nat) : Dev :=
  if slot ≠ 0 then m.emit (.spdmError 0x01)
  else m.emit (.spdm 0x02 ((List.range length).map (fun i => (Config.certByte (offset + i)).toNat)))

def Dev.answerChallenge (m : Dev) (nonce : BitVec 256) : Dev := (m.emit (.spdm 0x03 [Config.certDigest.toNat, nonce.toNat])).signed

/-- Index 0 asks how many blocks there are, 0xFF for all, another for that one. -/
def Dev.answerMeasurements (m : Dev) (index : Nat) : Dev :=
  let all := m.report
  if index = 0 then (m.emit (.spdm 0x60 [all.length])).signed
  else
    let some_ := if index = 0xFF then all else all.filter (fun b => decide (b.1 = index))
    if some_.isEmpty then m.emit (.spdmError 0x01) else (m.emit (.spdmMeas some_)).signed

/-- The lowest session number not in use. -/
def Dev.freeSession (m : Dev) : Nat := ((List.range 4).find? (fun i => !m.sec.sessions.any (fun x => decide (x.id = i)))).getD 0

/-- Up to four secure sessions. -/
def Dev.answerKeyExchange (m : Dev) (path : SpdmPath) : Dev :=
  if 4 ≤ m.sec.sessions.length then m.emit (.spdmError 0x0A)
  else
    let n := m.freeSession
    let x : Session := { id := n, path := path, finished := false, keyGen := 0 }
    (({ m with sec := { m.sec with sessions := m.sec.sessions ++ [x] } }).emit (.spdm 0x64 [n])).drawn 1

/-- An open session of a path. -/
def Dev.session (m : Dev) (path : SpdmPath) (n : Nat) : Option Session := m.sec.sessions.find? (fun x => decide (x.id = n) && decide (x.path = path))

def Dev.modSession (m : Dev) (n : Nat) (f : Session → Session) : Dev :=
  { m with sec := { m.sec with sessions := m.sec.sessions.map (fun x => if x.id = n then f x else x) } }
def Dev.dropSession (m : Dev) (n : Nat) : Dev := { m with sec := { m.sec with sessions := m.sec.sessions.filter (fun x => decide (x.id ≠ n)) } }

/-- A handshake that does not verify ends its session. -/
def Dev.answerFinish (m : Dev) (path : SpdmPath) (n : Nat) (verified : Bool) : Dev :=
  match m.session path n with
  | none => m.emit (.spdmError 0x02)
  | some x =>
    if x.finished then m.emit (.spdmError 0x04)
    else if verified then (m.modSession n (fun x => { x with finished := true })).emit (.spdm 0x65 [n])
    else (m.dropSession n).emit (.spdmError 0x06)

/-- A request within a finished session. -/
def Dev.inSession (m : Dev) (path : SpdmPath) (n : Nat) (f : Dev → Dev) : Dev :=
  match m.session path n with
  | none => m.emit (.spdmError 0x02)
  | some x => if x.finished then f m else m.emit (.spdmError 0x04)

def Dev.answerEnd (m : Dev) (path : SpdmPath) (n : Nat) : Dev := m.inSession path n (fun m => (m.dropSession n).emit (.spdm 0x6C [n]))
def Dev.answerHeartbeat (m : Dev) (path : SpdmPath) (n : Nat) : Dev := m.inSession path n (fun m => m.emit (.spdm 0x68 [n]))
def Dev.answerKeyUpdate (m : Dev) (path : SpdmPath) (n : Nat) : Dev :=
  m.inSession path n (fun m => (m.modSession n (fun x => { x with keyGen := x.keyGen + 1 })).emit (.spdm 0x69 [n]))

/-- A chunk of a large response: the SLH-DSA signature is the one there is. -/
def Dev.answerChunk (m : Dev) (handle seqNo : Nat) : Dev :=
  if m.sec.sigReady.isSome then m.emit (.spdm 0x06 [handle, seqNo]) else m.emit (.spdmError 0x04)

def Dev.answerSlh (m : Dev) : Dev := match m.sec.sigReady with
  | some n => m.emit (.spdmSlh (Config.slhSignature n))
  | none => m.emit (.spdmError 0x04)

/-- The answer to a request kept by ResponseNotReady, and the path it came on. -/
def Dev.answerKept (m : Dev) : Instr → Option (SpdmPath × Dev)
  | .getVersion p => some (p, m.answerVersion)
  | .getCapabilities p => some (p, m.answerCapabilities)
  | .negotiateAlgorithms p ok => some (p, m.answerAlgorithms p ok)
  | .getDigests p => some (p, m.answerDigests)
  | .getCertificate p s o l => some (p, m.answerCertificate s o l)
  | .challenge p n => some (p, m.answerChallenge n)
  | .getMeasurements p i _ => some (p, m.answerMeasurements i)
  | .keyExchange p => some (p, m.answerKeyExchange p)
  | .finish p n ok => some (p, m.answerFinish p n ok)
  | .endSession p n => some (p, m.answerEnd p n)
  | .heartbeat p n => some (p, m.answerHeartbeat p n)
  | .keyUpdate p n => some (p, m.answerKeyUpdate p n)
  | .chunkGet p h n => some (p, m.answerChunk h n)
  | .getSlhSignature p => some (p, m.answerSlh)
  | _ => none

def execGetVersion (p : SpdmPath) (s : State) : Res := s.go fun m => m.spdm p (.getVersion p) Dev.answerVersion
def execGetCapabilities (p : SpdmPath) (s : State) : Res := s.go fun m => m.spdm p (.getCapabilities p) Dev.answerCapabilities
def execNegotiateAlgorithms (p : SpdmPath) (ok : Bool) (s : State) : Res :=
  s.go fun m => m.spdm p (.negotiateAlgorithms p ok) (fun m => m.answerAlgorithms p ok)
def execGetDigests (p : SpdmPath) (s : State) : Res := s.go fun m => m.spdm p (.getDigests p) Dev.answerDigests
def execGetCertificate (p : SpdmPath) (slot offset length : Nat) (s : State) : Res :=
  s.go fun m => m.spdm p (.getCertificate p slot offset length) (fun m => m.answerCertificate slot offset length)
def execChallenge (p : SpdmPath) (nonce : BitVec 256) (s : State) : Res := s.go fun m => m.spdm p (.challenge p nonce) (fun m => m.answerChallenge nonce)
def execGetMeasurements (p : SpdmPath) (index : Nat) (nonce : BitVec 256) (s : State) : Res :=
  s.go fun m => m.spdm p (.getMeasurements p index nonce) (fun m => m.answerMeasurements index)
def execKeyExchange (p : SpdmPath) (s : State) : Res := s.go fun m => m.spdm p (.keyExchange p) (fun m => m.answerKeyExchange p)
def execFinish (p : SpdmPath) (n : Nat) (ok : Bool) (s : State) : Res := s.go fun m => m.spdm p (.finish p n ok) (fun m => m.answerFinish p n ok)
def execEndSession (p : SpdmPath) (n : Nat) (s : State) : Res := s.go fun m => m.spdm p (.endSession p n) (fun m => m.answerEnd p n)
def execHeartbeat (p : SpdmPath) (n : Nat) (s : State) : Res := s.go fun m => m.spdm p (.heartbeat p n) (fun m => m.answerHeartbeat p n)
def execKeyUpdate (p : SpdmPath) (n : Nat) (s : State) : Res := s.go fun m => m.spdm p (.keyUpdate p n) (fun m => m.answerKeyUpdate p n)
def execChunkGet (p : SpdmPath) (h n : Nat) (s : State) : Res := s.go fun m => m.spdm p (.chunkGet p h n) (fun m => m.answerChunk h n)
def execGetSlhSignature (p : SpdmPath) (s : State) : Res := s.go fun m => m.spdm p (.getSlhSignature p) Dev.answerSlh

/-- RESPOND_IF_READY: the kept request of the path is answered, or not ready still. -/
def execRespondIfReady (p : SpdmPath) (s : State) : Res :=
  s.go fun m =>
    if !m.spdmReach p then m
    else match m.sec.deferred.bind m.answerKept with
      | some r =>
        if r.1 ≠ p then m.emit (.spdmError 0x04)
        else if m.spdmReady then { r.2 with sec := { r.2.sec with deferred := none } }
        else m.emit .spdmNotReady
      | none => if m.spdmReady then m.emit (.spdmError 0x04) else m.emit .spdmNotReady

/-! ### IDE (R391) -/

/-- Streams of each kind: one of cachemem, four selective, one link. -/
def ideMost : IdeKind → Nat
  | .cachemem => 1
  | .selective => 4
  | .link => 1

/-- IDE_KEY_PROGRAM over a finished session on DOE. -/
def execIdeKeyProgram (n : Nat) (kind : IdeKind) (stream : Nat) (refresh : Bool) (s : State) : Res :=
  s.go fun m =>
    if !(m.spdmReach .doe && (m.session .doe n).any (fun x => x.finished)) then m
    else
      let same (x : IdeStream) : Bool := decide (x.kind = kind) && decide (x.stream = stream)
      if m.sec.ide.any same then
        if refresh then { m with sec := { m.sec with ide := m.sec.ide.map (fun x => if same x then { x with keyGen := x.keyGen + 1 } else x) } } else m
      else if refresh || decide (ideMost kind ≤ (m.sec.ide.filter (fun x => decide (x.kind = kind))).length) then m
      else { m with sec := { m.sec with ide := m.sec.ide ++ [{ kind := kind, stream := stream, keyGen := 0 }] } }

end Sys2Proof.Machine
end

