-- ==== Sys2Proof/Machine/Setup.lean ====
section
/-! DEFINITION. The descriptors other than NOP and BARRIER, and preemption (R280 to R284, R292 to R294, R349, R350, R401). -/

namespace Sys2Proof.Machine

/-- ALMANAC_LOAD (R280): a refusal leaves the partition as it was; a container that passes waits for its completion point. -/
def execAlmanacLoad (k : SetId) (obj : Option Container) (s : State) : Res :=
  s.go fun m => m.execHead k 0x01 fun h p m =>
    if m.storeWaits then m.waitHead k h
    else match obj with
      | none => m.refuseObject p k 0x04 true
      | some a =>
        match m.loadCheck p (dopnd h.desc 8 8) a with
        | some d => m.refuseObject p k d true
        | none =>
          if m.leavesWait (m.leavesOf a (fun _ => true)) then m.waitHead k h
          else (m.modPart p (fun x => { x with loading := some a })).setHead k (fun h => { h with st := .executing })

/-- ALMANAC_LOAD_COMPLETE (R281): check 4 is judged now, against the healthy set of the completion point (R304). -/
def execAlmanacLoadComplete (k : SetId) (s : State) : Res :=
  s.go fun m => match (m.ring k).head, m.partOf k with
    | some h, some p =>
      if h.st = .executing && h.desc.opcode = 0x01#8 then
        match (m.part p).loading with
        | some a =>
          match m.startVariant a with
          | some v => (m.installAlmanac p a v).completeOk k
          | none => (m.modPart p (fun x => { x with loading := none })).refuseObject p k 0x07 true
        | none => m
      else m
    | _, _ => m

/-- Tier 3 stays covered without buffer `index` (R293). -/
def Part.coveredWithout (x : Part) (index : Nat) : Bool := match x.almanac with
  | some a => decide (a.stash.tier3 ≤ ({ x with bufs := x.bufs.filter (fun b => !(b.kind = 0 && b.index = index)) } : Part).tier3Bound)
  | none => true

/-- BUFFER_BIND (R292, R293, R349). -/
def execBufferBind (k : SetId) (s : State) : Res :=
  s.go fun m => m.execHead k 0x02 fun h p m =>
    let x := m.part p
    let kind := dopnd h.desc 16 1
    let index := dopnd h.desc 17 1
    if (x.st = .suspended && kind ≠ 1) || (x.st = .loaded && dopnd h.desc 18 1 = 1 && kind = 0 && !x.coveredWithout index)
    then m.reject k 0x01
    else
      let rest := x.bufs.filter (fun b => !(b.kind = kind && b.index = index))
      let new : Buf := { kind := kind, index := index, addr := BitVec.ofNat 64 (dopnd h.desc 0 8), len := BitVec.ofNat 64 (dopnd h.desc 8 8) }
      (m.modPart p (fun x => { x with bufs := if dopnd h.desc 18 1 = 0 then rest ++ [new] else rest })).completeOk k

/-- WEIGHT_LOAD (R401, R386). -/
def execWeightLoad (k : SetId) (obj : Option WPackage) (s : State) : Res :=
  s.go fun m => m.execHead k 0x03 fun h p m =>
    if m.incomplete p then m.reject k 0x01
    else if m.storeWaits then m.waitHead k h
    else match obj, (m.part p).almanac with
      | some w, some a =>
        match m.packageCheck p a w (dopnd h.desc 8 8) with
        | some d => m.refuseObject p k d false
        | none =>
          if m.leavesWait (m.layerLeaves p (fun l => (pkgLayers w).contains l)) then m.waitHead k h
          else (m.loadWeights p a w).completeOk k
      | _, _ => m.refuseObject p k 0x04 false

/-- LEAF_PROGRAM of the descriptor up on a ring set (R170, R292). -/
def Dev.leafProgram (m : Dev) (k : SetId) : Dev :=
  m.execHead k 0x04 fun h p m =>
    match (m.part p).almanac with
    | some a =>
      if m.incomplete p then m.reject k 0x01
      else if a.layerTab.length < dopnd h.desc 0 2 + dopnd h.desc 2 2 then m.reject k 0x02
      else
        let ls := m.layerLeaves p (programRange h)
        if m.storeWaits || m.leavesWait ls then m.waitHead k h
        else ((ls.foldl (fun n r => n.programLeaf p r.1 r.2.1 r.2.2 true) m).setHead k (fun h => { h with st := .executing })).settleLeafProgram p
    | none => m.reject k 0x01

def execLeafProgram (k : SetId) (s : State) : Res := s.go fun m => m.leafProgram k

/-- What a STEP or FORWARD reads of what the host gives (R292): IN_LEN bytes of input and IDX_LEN bytes of index table. -/
def inputOf (h : Held) (inp : StepInput) : StepInput :=
  { input := inp.input.take (dopnd h.desc 8 8 / 4), index := inp.index.take (dopnd h.desc 24 4 / 4) }

/-- A STEP or FORWARD that waits at the head keeps what it was given until its start. -/
def Dev.waitInput (m : Dev) (k : SetId) (h : Held) (inp : StepInput) : Dev := (m.setHead k (fun h => { h with inp := inp })).waitHead k h

/-- STEP of the descriptor up (R239, R292); frames of the step that came before it are met at its start (R330). -/
def Dev.startStep (m : Dev) (k : SetId) (inp : StepInput) : Dev :=
  m.execHead k 0x10 fun h p m =>
    let want := dopnd h.desc 32 8
    if m.incomplete p then m.reject k 0x01
    else if want ≠ 0 && want ≠ (m.stepNo p).toNat then m.reject k 0x09
    else if m.storeWaits then m.waitInput k h inp
    else (m.beginStep p k false false (dopnd h.desc 28 4) (inputOf h inp)).drainStep p

def execStep (k : SetId) (inp : StepInput) (s : State) : Res := s.go fun m => m.startStep k inp

/-- FORWARD of the descriptor up. -/
def Dev.startForward (m : Dev) (k : SetId) (inp : StepInput) : Dev :=
  m.execHead k 0x11 fun h p m =>
    if m.incomplete p then m.reject k 0x01
    else if m.storeWaits then m.waitInput k h inp
    else m.beginStep p k true false (dopnd h.desc 28 4) (inputOf h inp)

/-- The payload of a step or FORWARD (R303). -/
def payloadOf (x : Part) (r : StepRun) : Payload :=
  { loss := r.loss.getD 0
    norm := if r.exchange then r.norm.getD 0 else 0
    clip := if r.isForward then 0 else r.clip.getD 0
    tokens := BitVec.ofNat 32 r.tokens
    step := r.number
    disagree := BitVec.ofNat 32 (min ((r.disagree.map (fun e => e.2)).foldl (· + ·) 0) 0xFFFFFFFF)
    dropped := BitVec.ofNat 32 (min r.dropped 0xFFFFFFFF)
    fbCount := BitVec.ofNat 8 r.fallback.length
    flags := BitVec.ofNat 8 (r.exchange.toNat + 2 * x.digital.toNat + 4 * (decide (x.variant ≠ 0)).toNat) }

/-- The output rows of a FORWARD: the last layer's outputs. -/
def lastOuts (a : Container) (r : StepRun) : Tab Word :=
  (r.outs.filter (fun e => keyLayer e.1 + 1 = a.layerTab.length)).filterMap (fun e => e.2.map (fun w => (e.1, w)))

/-- A FORWARD has done all its work: its loss is formed, and every output of its last layer; no probe pass runs. -/
def forwardOver (a : Container) (r : StepRun) : Bool :=
  r.isForward && !r.probing && r.loss.isSome && layerDone a r (a.layerTab.length - 1)

/-- The completion point of a FORWARD (R302): its rows are written, its slot published, and the partition runs nothing. -/
def Dev.finishForward (m : Dev) (p : Pid) (k : SetId) (h : Held) (a : Container) (r : StepRun) : Dev :=
  let m1 := m.emit (.forwardRows (BitVec.ofNat 64 (dopnd h.desc 32 8)) (lastOuts a r))
  let pub := m1.publish k (payloadOf (m1.part p) r)
  let m2 := pub.1.completeHead k stOk 0 0 pub.2 false
  ((m2.modPart p (fun x => { x with st := .loaded, run := none })).settleUnits p)

/-- FORWARD: the descriptor comes up and begins, or the one in execution, its outputs and loss formed, reaches its completion point. -/
def execForward (k : SetId) (inp : StepInput) (s : State) : Res :=
  s.go fun m => match (m.ring k).head, m.partOf k with
    | some h, some p =>
      if h.st = .executing && h.desc.opcode = 0x11#8 then
        match (m.part p).run, (m.part p).almanac with
        | some r, some a => if forwardOver a r then m.finishForward p k h a r else m
        | _, _ => m
      else m.startForward k inp
    | _, _ => m

/-- CHECKPOINT_SAVE (R349, R350): `written` is whether the image was written and read back. A save of a state that is lost cannot read it, and
fails (DEDUCED, log entry 124). -/
def execCheckpointSave (k : SetId) (written : Bool) (s : State) : Res :=
  s.go fun m => m.execHead k 0x12 fun h p m =>
    match (m.part p).ckptBuf h with
    | none => m.reject k 0x02
    | some b =>
      if written && !(m.part p).stateLost then
        let c := (m.part p).com
        (m.emit (.checkpoint b.index (BitVec.ofNat 64 (dopnd h.desc 1 8)) c.steps c)).completeOk k
      else m.reject k 0x04

/-- CHECKPOINT_RESTORE (R350, R386). -/
def execCheckpointRestore (k : SetId) (img : Option Image) (s : State) : Res :=
  s.go fun m => m.execHead k 0x13 fun h p m =>
    if m.incomplete p then m.reject k 0x01
    else if ((m.part p).ckptBuf h).isNone then m.reject k 0x02
    else match img, (m.part p).almanac with
      | some i, some a =>
        if !imageOk a i then m.reject k 0x04
        else if m.storeWaits || m.leavesWait (m.layerLeaves p (fun _ => true)) then m.waitHead k h
        else (m.restoreImage p a i).completeOk k
      | _, _ => m.reject k 0x04

/-! ### Preemption (R283, R284, R293) -/

/-- The step a PREEMPT targets: 0 names the running step while it can still be preempted, else the next. -/
def Dev.preemptTarget (m : Dev) (p : Pid) (t : Nat) : Dbl :=
  if t ≠ 0 then BitVec.ofNat 64 t
  else match (m.part p).run with
    | some r => if r.isForward then r.number else if r.phase < 6 then r.number else r.number + 1
    | none => m.stepNo p

/-- PREEMPT arms (R293). A second one while one is armed is not legal (log entry 18). -/
def execPreempt (k : SetId) (s : State) : Res :=
  s.go fun m => m.execHead k 0x21 fun h p m =>
    let t := dopnd h.desc 0 8
    if (m.part p).armed.isSome || (t ≠ 0 && t < (m.stepNo p).toNat) then m.reject k 0x01
    else
      (m.modPart p (fun x => { x with armed := some { set := k, target := m.preemptTarget p t, point := BitVec.ofNat 32 (dopnd h.desc 8 4) } })).setHead k
        (fun h => { h with st := .executing })

/-- RESUME (R284): issue restarts at the point, or the step restarts from its start after a rollback. -/
def execResume (k : SetId) (s : State) : Res :=
  s.go fun m => m.execHead k 0x22 fun _ p m =>
    let back := (m.part p).run.isSome
    let m1 := (m.modPart p (fun x => { x with st := if back then .running else .loaded, susp := none })).completeOk k
    if back then m1 else ((m1.restart p).drainStep p).askAgain p

/-- PREEMPT_POINT_REACHED (R283, R284): issue stops at the armed point of the armed step, before phase 6. -/
def execPreemptPointReached (p : Pid) (point : Nat) (s : State) : Res :=
  s.go fun m =>
    let x := m.part p
    match x.armed, x.run, x.almanac with
    | some g, some r, some a =>
      if x.st = .running && !r.isForward && g.target = r.number && decide (r.phase < 6) && x.draining.isNone
          && (g.point = 0xFFFFFFFF#32 || decide (g.point.toNat = point))
          && a.preempts.any (fun e => serves e.variant x.form && e.point = point)
      then m.modPart p (fun x => { x with draining := some point }) else m
    | _, _, _ => m

/-- Whether an intercalary window is open on one of its tiles. -/
def Dev.windowOpen (m : Dev) (p : Pid) : Bool :=
  m.healthy.any (fun d => (m.die d).tiles.any (fun e => e.2.win.isSome && decide (m.owner (resTile d e.1) = some p)))

/-- PREEMPT_DRAIN_COMPLETE (R284): the partition enters SUSPENDED and the PREEMPT completes, once its operations have run to their end and
the windows open on its tiles have closed (R160, R235). -/
def execPreemptDrainComplete (p : Pid) (s : State) : Res :=
  s.go fun m => match (m.part p).draining, (m.part p).armed with
    | some pt, some g =>
      if m.opsRun p || m.windowOpen p then m
      else (m.modPart p (fun x => { x with st := .suspended, susp := some pt, draining := none, armed := none })).completeOk g.set
    | _, _ => m

/-- Whether a head waiting on a passing precondition still meets one; a BARRIER is judged by running it again. -/
def Dev.headWaits (m : Dev) (h : Held) : Bool := m.storeWaits && decide (h.desc.opcode ≠ 0x20#8)

/-- PRECONDITION_CLEARED (R294, R295): the waiting head goes on. A STEP, FORWARD, LEAF_PROGRAM or BARRIER runs; a descriptor
that reads an object runs when that object's command comes. -/
def execPreconditionCleared (k : SetId) (s : State) : Res :=
  s.go fun m => match (m.ring k).head with
    | some h =>
      if h.st = .precond && !m.headWaits h then
        match h.desc.opcode.toNat with
        | 0x04 => m.leafProgram k
        | 0x10 => m.startStep k h.inp
        | 0x11 => m.startForward k h.inp
        | 0x20 => m.barrier k
        | _ => m.setHead k (fun h => { h with st := .ready })
      else m
    | none => m

end Sys2Proof.Machine
end

