-- ==== Sys2Proof/Machine/Commit.lean ====
section
/-! DEFINITION. The commit point (R42, R92, R145 to R151, R172, R241 to R244, R260, R267 to R269, R299, R302, R334). -/

namespace Sys2Proof.Machine

/-! ### Weights -/

/-- The sites of a leaf whose master the step changed. -/
def changedSites (old new : Tab Word) (ss : List Site) : List Site := ss.filter (fun s => decide (tget 0 old s.key ≠ tget 0 new s.key))

/-- One leaf at a commit: epacts and target codes of its changed weights (R145), saturations counted in WGT (R172). -/
def Dev.commitLeaf (m : Dev) (p : Pid) (a : Container) (old : Tab Word) (e : DieId × Nat × LeafId) : Dev :=
  let x := m.part p
  let ss := m.sitesOf p a e
  let ch := changedSites old x.com.masters ss
  let ts := codeTally a x.com x.com.scales ch
  ts.foldl (fun n t => n.countTally e.1 p t.1 4 t.2) (m.modCom p (fun c => reTarget a ch (reEpact a ch c)))

/-- Saturated weights of a leaf: those whose target is held at ±L (R172). -/
def satWeights (a : Container) (c : Committed) (ss : List Site) : Nat :=
  ((codeTally a c c.scales ss).filter (fun t => decide (0 < t.2.sat))).length

/-- EV-CLV-09 once for a leaf above SAT_WARN per million of its placed weights (R172). -/
def Dev.warnLeaf (m : Dev) (p : Pid) (a : Container) (e : DieId × Nat × LeafId) : Dev :=
  let x := m.part p
  let ss := m.sitesOf p a e
  if !((m.die e.1).leaf e.2.1 e.2.2).satWarned
      && decide (bits ((m.die e.1).reg clvWrCfg) 15 0 * ss.length < satWeights a x.com ss * 1000000) then
    (m.raiseP (some e.1) p (evUnit (.clv 9) e.1 1 e.2.1 e.2.2.val)).modDie e.1 (fun x =>
      x.modLeaf e.2.1 e.2.2 (fun f => { f with satWarned := true }))
  else m

/-- The two passes of R150 on one tile's queue. Weights on frozen leaves never fall due (R148), and a leaf being programmed has
its entries discarded (R170). A weight is evaluated where its master changed, where a record freed an entry of the tile (R151) or programmed
its leaf whole (R171). -/
def Dev.commitTile (m : Dev) (p : Pid) (a : Container) (old : Tab Word) (d : DieId) (t : Nat) : Dev × Nat :=
  let x := m.part p
  let y := (m.die d).tile t
  let ls := leafIds.filter (fun l => let f := y.leaf l; f.placed && !f.frozen && f.prog.isNone && decide (m.owner (resLeaf d t l.val) = some p))
  let dues := ls.flatMap (fun l => leafDues a x.com l ((m.die d).leafSites a x.variant d.val t l.val))
  let elig := dues.filter (fun u => y.freed || (y.leaf u.leaf).reEval || decide (tget 0 old u.site.key ≠ tget 0 x.com.masters u.site.key))
  let q := queueStep dues elig (fun e => ls.contains e.leaf) y.queue
  let m1 := m.modDie d (fun x => x.modTile t (fun y =>
    ls.foldl (fun y l => y.modLeaf l (fun f => { f with reEval := false })) { y with queue := q.queue, freed := y.freed && q.carried.isEmpty }))
  (q.carried.foldl (fun n l => n.count d (.wr p l 1) 1) m1, q.carried.length)

/-- The queues of one die; EV-CLV-08 once where a weight is carried (R151). -/
def Dev.commitDie (m : Dev) (p : Pid) (a : Container) (old : Tab Word) (d : DieId) : Dev :=
  let ts := (((m.die d).placedLeaves a d.val (fun e => decide (e.variant = (m.part p).variant) || decide (e.variant = 0xFF))).map (fun e => e.1)).eraseDups
  let r : Dev × Nat := ts.foldl (fun s t => let u := s.1.commitTile p a old d t; (u.1, s.2 + u.2)) (m, 0)
  if 0 < r.2 then r.1.raiseP (some d) p (evDie (.clv 8) d) else r.1

/-- What a step staged of the weights becomes committed: masters, optimiser state, epacts, exponents, tables, targets, queues. A step that
is no exchange step changes no master, and carried weights and due changes of programmed leaves are queued all the same. -/
def Dev.commitWeights (m : Dev) (p : Pid) (a : Container) (r : StepRun) : Dev :=
  let old := (m.part p).com.masters
  let m1 := m.modCom p (fun c => if r.exchange then { c with masters := r.masters, opt := r.opt } else c)
  let ls := m1.layerLeaves p (fun _ => true)
  let m2 := ((ls.foldl (fun n e => n.commitLeaf p a old e) m1).fixMasters p).fixEpacts p
  let m3 := ls.foldl (fun n e => n.rebuildTables p e.1 (siteBlocks (n.sitesOf p a e))) m2
  let m4 := m3.healthy.foldl (fun n d => n.commitDie p a old d) m3
  (ls.foldl (fun n e => n.warnLeaf p a e) m4).modCom p (digestStep a)

/-! ### Trackers, form, counts -/

/-- Push the step's magnitudes (R92): the newest first, of sixteen; a JOB_AMAX tensor takes the job's maximum (R90). -/
def pushTrackers (a : Container) (r : StepRun) (t : Tab Tracker) : Tab Tracker :=
  let jobs := (a.tensorTab.zipIdx.filter (fun e => e.1.flags.getLsbD 2)).map (fun e => e.2)
  a.tensorTab.zipIdx.foldl (fun t e =>
    if e.1.cls < 3 then
      let own := tget 0#32 r.amax e.2
      let v := if e.1.flags.getLsbD 2 && r.closeDone then r.maxima.getD (jobs.findIdx (fun i => i = e.2)) own else own
      tmod Tracker.reset t e.2 (fun tr => { tr with hist := (v :: tr.hist).take 16 })
    else t) t

/-- The trackers' previous scales are those of this step; a probe's filled history comes first (R93). -/
def mergeTrackers (base : Option (Tab Tracker)) (t : Tab Tracker) : Tab Tracker := base.getD t

/-- Clean counts of every layer (R254): 0 for a tripped layer, else one more, saturating at 0x1FFF. -/
def cleanCounts (a : Container) (r : StepRun) (t : Tab Nat) : Tab Nat :=
  (List.range a.layerTab.length).foldl (fun t l => tset 0 t l (if r.tripped.contains l then 0 else min (tget 0 t l + 1) 0x1FFF)) t

/-- The rest of the committed state at a commit. -/
def commitRest (a : Container) (digital : Bool) (r : StepRun) (c : Committed) : Committed :=
  { c with
    accum := if r.exchange then [] else r.accum
    trackers := pushTrackers a r (mergeTrackers r.probeTrk c.trackers)
    histValid := true
    stepsLeft := (if r.probe then 16 else c.stepsLeft) - 1
    fallback := if digital then r.fallback else r.fallback ++ r.entering
    fbClean := cleanCounts a r c.fbClean
    cleanRun := if r.tripped.isEmpty then min (c.cleanRun + 1) 0x7FF else 0
    noForm := r.exceeded
    steps := c.steps + 1
    norm := if r.exchange then r.norm.getD 0 else c.norm
    clip := if r.exchange then r.clip.getD 0x3F800000#32 else c.clip }

/-! ### COMMIT_POINT -/

/-- FALLBACK_STEPS of the layers in fallback during the step (R271). -/
def Dev.countFallback (m : Dev) (p : Pid) (r : StepRun) : Dev := r.fallback.foldl (fun n l => n.countDecision (.smp p l 2) 1) m

/-- COMMIT_POINT's effect: every record is acknowledged on every die and mirror (R242). The step's changes become committed, its result is
published (R302), its completion reached (R244). -/
def Dev.commit (m : Dev) (p : Pid) (a : Container) (r : StepRun) : Dev :=
  let deg := r.degraded (m.part p).digital
  let m1 := m.commitWeights p a r
  let m2 := (m1.modCom p (commitRest a (m1.part p).digital r)).countFallback p r
  let m3 := when deg (fun n => n.countDecision (.stepc p 1) 1) (m2.modPart p (fun x => { x with unrepl := [], served := [] }))
  let pub := if m3.heldStep r.set then m3.publish r.set (payloadOf (m3.part p) r) else (m3, none)
  let m4 := pub.1.completeStep r.set (if deg then stDegraded else stOk) 0 r.number pub.2
  let m5 := ((m4.modPart p (Part.closeStep (if deg then 2 else 1))).missedPreempt p r.number).settlePorts p |>.settleUnits p
  m5.startDigest p a r.number.toNat

/-- Windows open on the partition's tiles close with their records first (R159). -/
def execCommitPoint (p : Pid) (s : State) : Res :=
  s.go fun m => match (m.part p).run, (m.part p).almanac with
    | some r, some a => if r.decided && (m.part p).st = .running then (m.closeWindows p).commit p a r else m
    | _, _ => m

end Sys2Proof.Machine
end

