-- ==== Sys2Proof/Machine/FaultCmds.lean ====
section
/-! DEFINITION. Handshake stalls, resumption, the reference clock and the duration counter's calibration, and the edge bridge
(R37 to R39, R44, R53, R356, R362, R363). -/

namespace Sys2Proof.Machine

/-- EV-SAF-01 with the channel class, once for each partition named, or once for the die where none is. UNIT names the sequencer, the
stack or the port concerned, where there is one (R376). -/
def Dev.stallEvent (m : Dev) (d : DieId) (cls action index : Nat) (ps : List Pid) : Dev :=
  let u : Nat × Nat := if cls = 4 then (5, index) else if cls = 5 then (6, 0) else if cls = 7 ∧ index < 4 then (4, index) else (0, 0)
  let e : Event := { evUnit (.saf 1) d u.1 u.2 0 with data := BitVec.ofNat 64 cls, action := action }
  if ps.isEmpty then m.raise (some d) e else ps.foldl (fun n p => n.raiseP (some d) p e) m

/-- A stall of class HS0 on a tile (R362): a tile-pass fault, whose rerun needs nothing restored; the second within one step
is an output-stage fault, and the tile is retired at a window (R135). -/
def Dev.stallTile (m : Dev) (d : DieId) (t : Nat) : Dev :=
  let n := ((m.die d).tile t).hs0 + 1
  let p := m.owner (resTile d t)
  let m1 := m.raise (some d) { evUnit (.saf 1) d 1 t 0 with data := 0, part := p.map (fun q => q.val) }
  m1.modDie d (fun x => x.modTile t (fun y => { y with hs0 := n, retireDue := y.retireDue || decide (2 ≤ n) }))

/-- The partitions a fault in a die's shared resource affects (R363). -/
def Dev.stallRollback (m : Dev) (d : DieId) (cls index : Nat) (ps : List Pid) : Dev :=
  (m.stallEvent d cls 6 index ps).rollback (some d) ps 6

/-- Whether the owner of a resource is suspended at a preemption point (R284). -/
def Dev.ownerAsleep (m : Dev) (r : Resource) : Bool := match m.owner r with
  | some p => (m.part p).susp.isSome
  | none => false

/-- A cube that waits for its next operand halves to be marked full (R219). -/
def Cube.waits (c : Cube) : Bool := match c.op with
  | some d => decide (c.runsDone < d.runs) && !((c.halfA c.runsDone).full && (c.halfB c.runsDone).full)
  | none => false

/-- Whether the request is held back by an ordered wait, whose watchdog has not begun (R30): a window open on the tile, operand halves not yet
full, or the partitions that would make the request suspended. -/
def Dev.orderedWait (m : Dev) (d : DieId) (cls index : Nat) : Bool :=
  let x := m.die d
  match cls with
  | 0 => (x.tile index).win.isSome || m.ownerAsleep (resTile d index)
  | 1 => (x.cube index).waits || m.ownerAsleep (resGroup d (index / 16))
  | 2 => m.ownerAsleep (resWunit d index)
  | 4 => !(m.partsOn d).isEmpty && (m.partsOn d).all (fun p => (m.part p).susp.isSome)
  | _ => false

/-- HANDSHAKE_STALL (R362): by the channel class. `index` names the tile, cube, W-unit or sequencer; for HS7 the port, 4 for the bridge
link. HS6 is retried; HS6_RETRY_EXPIRY settles it. -/
def Dev.handshakeStall (m : Dev) (d : DieId) (cls : HsClass) (index : Nat) : Dev :=
  if !m.inService d || m.orderedWait d cls.val index then m
  else match cls.val with
    | 0 => if index < 4160 then m.stallTile d index else m
    | 1 => if index < 1024 then m.unitFault d true false index else m
    | 2 => if index < 64 then m.unitFault d false false index else m
    | 4 => if index < 32 then m.stallRollback d 4 index (m.partsOn d) else m
    | 6 => m.stallEvent d 6 6 0 []
    | 7 => if index < 4 then m.stallRollback d 7 index (m.owner (resPort d index)).toList else m.stallRollback d 7 index (m.partsOn d)
    | c => m.stallRollback d c index (m.partsOn d)

/-- After an HS1, HS2 or other stall that the test hooks withheld, the class's withholding ends (R455). -/
def execHandshakeStall (d : DieId) (cls : HsClass) (index : Nat) (s : State) : Res :=
  s.go fun m => (m.handshakeStall d cls index).modDie d (fun x => { x with stallSet := tset 0#32 x.stallSet cls.val 0 })

/-- Partitions with a resource on either die. -/
def Dev.partsOnPair (m : Dev) (a b : DieId) : List Pid := partIds.filter (fun p => m.hasOn p a || m.hasOn p b)

/-- The die fenced where both ends acknowledge all their other links (R44): the one that the loaded almanacs carry, else the
higher-numbered. -/
def Dev.pairChoice (m : Dev) (a b : DieId) : DieId :=
  let as := (m.partsOnPair a b).filterMap (fun p => (m.part p).almanac)
  let carried (d : DieId) : Bool := !as.isEmpty && as.all (fun c => carriesLoss c d)
  if carried a && !carried b then a else if carried b && !carried a then b else if a.val < b.val then b else a

/-- Two dies lost at once are handled as in R49: every affected job stops. -/
def Dev.fenceBoth (m : Dev) (a b : DieId) : Dev :=
  let m1 := (m.partsOnPair a b).foldl (fun n p => n.endJob p) m
  (m1.fence a).fence b

/-- HS6_RETRY_EXPIRY (R44). -/
def execHs6RetryExpiry (a b : DieId) (acked stalledA stalledB : Bool) (s : State) : Res :=
  s.go fun m =>
    if a = b || !m.inService a || !m.inService b then m
    else if acked then m.rollback (some a) (m.partsOnPair a b) 6
    else if stalledA && stalledB then m.fenceBoth a b
    else if stalledB then m.fence b
    else if stalledA then m.fence a
    else m.fence (m.pairChoice a b)

/-- ROLLBACK_RESUME (R356): the end of an interruption by a fault. -/
def execRollbackResume (p : Pid) (s : State) : Res :=
  s.go fun m => if ((m.part p).intr.any (fun i => !i.storm)) then ((m.resumePart p).drainStep p).askAgain p else m

/-- REFCLK_LOSS (R39): REFCLK_OK falls, HOLDOVER rises, EV-CAL-07; the converters run in holdover too (R178). -/
def execRefclkLoss (d : DieId) (s : State) : Res :=
  s.go fun m =>
    if (m.die d).booted && (m.die d).refclkOk then
      (m.modDie d (fun x => { x with refclkOk := false, holdover := true, calWin := false })).raise (some d) (evDie (.cal 7) d)
    else m

/-- REFCLK_RETURN (R39): the first edge after a loss sets REFCLK_OK and starts a calibration window; it ends the wait of R450. -/
def execRefclkReturn (d : DieId) (s : State) : Res :=
  s.go fun m => m.modDie d (fun x => if x.booted && !x.refclkOk then { x with refclkOk := true, refWait := false, calWin := true } else x)

/-- DCNT_CALIBRATION_START (R37): the CAL_INTERVAL timer opens a window while REFCLK is present. -/
def execDcntCalibrationStart (d : DieId) (s : State) : Res :=
  s.go fun m => m.modDie d (fun x => if x.booted && x.refclkOk then { x with calWin := true } else x)

/-- DCNT_CALIBRATION_END (R37, R39): the measured trim takes effect and a holdover ends. -/
def execDcntCalibrationEnd (d : DieId) (trim : BitVec 16) (s : State) : Res :=
  s.go fun m => m.modDie d (fun x => if x.calWin then { x with calWin := false, trim := trim, holdover := false } else x)

/-- BRIDGE_ECC_CORRECTED (R53). -/
def execBridgeEccCorrected (s : State) : Res := s.go fun m => m.raise none (ev (.saf 16))

/-- BRIDGE_ECC_UNCORRECTABLE (R53): the module leaves service; the record is entered in the log whichever section failed, and
cannot be sent while the management section is the one (DERPOL_RECORD_SEND). -/
def execBridgeEccUncorrectable (sect : BridgeSection) (s : State) : Res :=
  s.go fun m =>
    let m1 := m.raise none (ev (.saf 13))
    match sect with
    | .hostFacing => { m1 with board := { m1.board with hostFail := true } }
    | .management => { m1 with board := { m1.board with mgmtFail := true } }

end Sys2Proof.Machine
end

