-- ==== Sys2Proof/Machine/Hooks.lean ====
section
/-! DEFINITION. The test port (R453) and the deadlines of overlap segments (R220). -/

namespace Sys2Proof.Machine

/-! ### Test port -/

/-- An instruction takes effect: EXTEST and CLAMP drive the low-speed pins from the boundary register, HIGHZ floats them. -/
def Dev.loadIr (m : Dev) (i : JtagIr) : Dev :=
  { m with board := { m.board with ir := i, pinsDriven := decide (i = .extest) || decide (i = .clamp), pinsFloat := decide (i = .highz) } }

/-- An instruction that only TEST_EN high allows: with it low, BYPASS is loaded. -/
def Dev.complianceIr (m : Dev) (i : JtagIr) : Dev := if m.board.testEn then m.loadIr i else m.loadIr .bypass

/-- The test port is in the standby domain (R438). -/
def Dev.jtag (m : Dev) (f : Dev → Dev) : Dev := if m.board.standby then f m else m

def execBypass (s : State) : Res := s.go fun m => m.jtag (fun m => m.loadIr .bypass)

/-- IDCODE: version 1, part 0x8A10, manufacturer 0x279. -/
def execIdcode (s : State) : Res := s.go fun m => m.jtag (fun m => (m.loadIr .idcode).emit (.tdo 0x18A104F3#32))

/-- SAMPLE/PRELOAD: the pins captured are shifted out, the preload into the boundary register. -/
def execSamplePreload (capture preload : BitVec 64) (s : State) : Res :=
  s.go fun m => m.jtag (fun m =>
    let m1 := m.complianceIr .sample
    if m.board.testEn then ({ m1 with board := { m1.board with boundary := preload } }).emit (.boundary capture) else m1)

def execExtest (s : State) : Res := s.go fun m => m.jtag (fun m => m.complianceIr .extest)
def execClamp (s : State) : Res := s.go fun m => m.jtag (fun m => m.complianceIr .clamp)
def execHighz (s : State) : Res := s.go fun m => m.jtag (fun m => m.complianceIr .highz)

/-- PRIVATE_INSTRUCTION: it works under an unlock with PRIVATE and TEST_EN low, and the spec does not say what it does; it loads BYPASS
otherwise. -/
def execPrivateInstruction (_code : Nat) (s : State) : Res :=
  if !s.dev.board.testEn && s.dev.board.standby && s.dev.board.unlock.any (fun u => u.priv) then .refused .privateInstruction
  else s.go fun m => m.jtag (fun m => m.loadIr .bypass)

/-! ### Overlap segments -/

/-- SEGMENT_DEADLINE_EXPIRY (R220): a missed deadline is a fault, and rolls back as a missed frame deadline does (R356, log entry 33). The
record names the die: a segment has no sequencer of its own (R9, R220). -/
def execSegmentDeadlineExpiry (p : Pid) (d : DieId) (segment : Nat) (s : State) : Res :=
  s.go fun m => match (m.part p).run, (m.part p).almanac with
    | some _, some a =>
      let v := (m.part p).form
      if m.inService d && (m.part p).st = .running
          && a.deadlines.any (fun e => serves e.variant v && e.kind = 0 && e.index = segment) then
        let m1 := m.raiseP (some d) p (evDie (.cdm 5) d)
        m1.interrupt (some d) p (m1.plainIntr 6)
      else m
    | _, _ => m

end Sys2Proof.Machine
end

