-- ==== Sys2Proof/Machine/Power.lean ====
section
/-! DEFINITION. Power commands: state requests, Vigil's wakes, levels, caps, and temperature (R413 to R436). -/

namespace Sys2Proof.Machine

/-! ### Requests -/

def execPowerRequestRun (src : Source) (s : State) : Res := s.go fun m => m.powerGo src 0
def execPowerRequestVigil (src : Source) (s : State) : Res := s.go fun m => m.powerGo src 1
def execPowerRequestRepose (src : Source) (s : State) : Res := s.go fun m => m.powerGo src 2
def execPowerRequestOff (src : Source) (s : State) : Res := s.go fun m => m.powerGo src 3

/-- POWER_DEFER_RETRY: the deferring blocks are asked again, `n` times 100 µs after their first answer; one that still defers at DEFER_MAX
is the refuser (R422). -/
def execPowerDeferRetry (n : Nat) (s : State) : Res :=
  s.go fun m => match m.power.req with
    | some r =>
      if r.accepted || r.exiting then m
      else match m.askBlocks r.target r.deferring with
        | (some b, _) => m.refusePower r.src r.target b (Config.refuseReason b r.target)
        | (none, b :: ds) =>
          if 10 * bits (m.reg pwrLimitCfg) 9 0 ≤ n then m.refusePower r.src r.target b (Config.refuseReason b r.target)
          else { m with power := { m.power with req := some { r with deferring := b :: ds } } }
        | (none, []) => { m with power := { m.power with req := some { r with accepted := true, deferring := [] } } }
    | none => m

/-- POWER_STATE_REACHED: the state all blocks accepted is entered, or the exit to Run completes. An exit out of Vigil waits for a wake
(R427, R429), which clears `exitAsked`. -/
def execPowerStateReached (s : State) : Res :=
  s.go fun m => match m.power.req with
    | some r =>
      if !r.accepted || (r.exiting && m.power.exitAsked) then m
      else
        let m1 := ({ m with power := { m.power with req := none } }).setPowerResult r.src 0
        match r.target with
        | 0 => m1.enterRun
        | 1 => m1.enterVigil false
        | 2 => m1.enterRepose
        | _ =>
          (m1.healthy.foldl (fun n d => n.writeStore d) m1).flushLog.removeRails 5
    | none => m

/-- AUTO_VIGIL_EXPIRY (R428). -/
def execAutoVigilExpiry (s : State) : Res :=
  s.go fun m =>
    if m.power.st = .run && bits (m.reg pwrVigilCfg) 31 16 ≠ 0 && m.unasked = 0 && m.power.req.isNone && !m.workHeld
    then m.handshake none 1 powerBlocks else m

/-- IDLE_TIMER_EXPIRY (R426): Vigil without a handshake, counted. -/
def execIdleTimerExpiry (s : State) : Res :=
  s.go fun m =>
    if m.power.st = .run && bits (m.reg pwrIdle) 13 0 ≠ 0 && m.unasked ≠ 0 && m.power.req.isNone && !m.workHeld then
      let m1 := m.enterVigil true
      { m1 with power := { m1.power with timerEntries := BitVec.ofNat 15 (min (m1.power.timerEntries.toNat + 1) 0x7FFF) } }
    else m

/-! ### Vigil's wakes (R429) -/

/-- A placed leaf whose T_cal the sensor has left by more than VIG_DT, or a frozen one by FROZEN_DT where smaller, falls due. -/
def Tile.vigilFeel (temp : Int) (dt frozenDt : Nat) (y : Tile) : Tile :=
  { y with leaves := tmapv Leaf.reset (fun f =>
    { f with runDue := f.runDue || (f.placed && decide (16 * (if f.frozen then min dt frozenDt else dt) < (temp - f.cal.tcal.toInt).natAbs)) }) y.leaves }

def Die.vigilFeel (x : Die) (dt : Nat) : Die :=
  (x.tiles.map (fun e => e.1)).foldl (fun x t => x.modTile t (Tile.vigilFeel (x.tempAt t) dt (bits (x.reg calCfg) 4 0))) x

/-- A kept snoop shows a new descriptor. -/
def Dev.snoopWaits (m : Dev) : Bool := setIds.any (fun k => (m.ring k).enabled && (match (m.ring k).kept with
  | some l => decide (l.subTail ≠ (m.ring k).accepted)
  | none => false))

/-- VIGIL_WAKE: one monitor round and one comparison, then the table of R429. -/
def execVigilWake (d : DieId) (rs : List Int) (refv band vref : Nat) (s : State) : Res :=
  s.go fun m =>
    if m.power.st ≠ .vigil || !m.inService d || (m.die d).awake then m
    else
      let m1 := m.modDie d (fun x => { x with awake := true })
      let m2 := if (m1.die d).mon.fail then m1 else (m1.takeRound d rs).compareRefs d refv band vref
      let m3 := m2.modDie d (fun x => x.vigilFeel (bits (m.reg pwrLimitCfg) 21 17))
      if m3.power.exitAsked then { m3 with power := { m3.power with exitAsked := false } }
      else if m3.snoopWaits then
        let m4 := m3.abortEntry 0x0A
        if m4.power.req.isNone then m4.startExit none else m4
      else m3

/-- Something a wake does on a die is due or running. -/
def Die.wakeBusy (x : Die) : Bool :=
  x.tiles.any (fun e => e.2.win.isSome || e.2.leaves.any (fun f => (f.2.placed && f.2.runDue) || f.2.refresh.isSome))

/-- VIGIL_SLEEP. -/
def execVigilSleep (d : DieId) (s : State) : Res :=
  s.go fun m => if m.power.st = .vigil && (m.die d).awake && !(m.die d).wakeBusy then m.modDie d (fun x => { x with awake := false }) else m

/-! ### Levels and caps -/

/-- PL_WRITE: the level takes effect at the start of its ramp (R418, R436). A die at 105 °C keeps its voltage until it recovers (R421);
in Vigil and Repose the cores follow at the exit. -/
def Dev.plWrite (m : Dev) (v : Word) : Dev :=
  if m.power.st = .off then m
  else
    let m1 := { m with power := { m.power with pl := bits v 2 0 } }
    if m1.power.st = .run then m1.rampCores else m1

def execPlWrite (v : Word) (s : State) : Res := s.go fun m => m.plWrite v

def sumNat (xs : List Nat) : Nat := xs.foldl (· + ·) 0

/-- POWER_SAMPLE: one measurement of input power and voltage; the last hundred are kept. -/
def execPowerSample (watts : Nat) (vin : Nat) (s : State) : Res :=
  s.go fun m =>
    if m.power.st = .off then m
    else
      let l := m.power.samples ++ [watts]
      let w := m.power
      { m with power := { w with samples := l.drop (l.length - 100), since := w.since + 1, sinceRaise := w.sinceRaise + 1,
                                 vin := BitVec.ofNat 11 (min vin 0x7FF) } }

/-- CAP_CHECK: the mean of the interval's ten samples above CAP_W lowers c_op; EV-PWR-03 when it first falls below 64/64. -/
def execCapCheck (s : State) : Res :=
  s.go fun m =>
    let w := m.power
    if w.since < 10 then m
    else
      let above := decide (10 * bits (m.reg pwrCap) 10 0 < sumNat (w.samples.drop (w.samples.length - 10))) && decide (1 < w.cOp)
      let m1 := { m with power := { w with since := 0, cOp := if above then w.cOp - 1 else w.cOp, changed := w.changed || above } }
      when (above && decide (w.cOp = 64)) (fun n => n.raise none (ev (.pwr 3))) m1

/-- CAP_RAISE_CHECK: 10 ms without a change and with the mean of the hundred samples below 0.97 CAP_W raises c_op. -/
def execCapRaiseCheck (s : State) : Res :=
  s.go fun m =>
    let w := m.power
    if w.sinceRaise < 100 then m
    else
      let up := !w.changed && decide (sumNat w.samples < 97 * bits (m.reg pwrCap) 10 0) && decide (w.cOp < 64)
      { m with power := { w with sinceRaise := 0, cOp := if up then w.cOp + 1 else w.cOp, changed := false } }

/-- THERMAL_CAP_FALL (R420). -/
def execThermalCapFall (d : DieId) (s : State) : Res :=
  s.go fun m =>
    let x := m.die d
    if m.inService d && !x.hot && x.sensors.any (fun t => decide (16 * (bits (m.reg pwrLimitCfg) 16 10 : Int) ≤ t)) then
      m.modDie d (fun x => { x with thermCap := max 16 (x.thermCap - 8) })
    else m

/-- THERMAL_CAP_RISE. -/
def execThermalCapRise (d : DieId) (s : State) : Res :=
  s.go fun m =>
    let x := m.die d
    if m.inService d && !x.hot && x.sensors.all (fun t => decide (t < 16 * ((bits (m.reg pwrLimitCfg) 16 10 : Int) - 2))) then
      m.modDie d (fun x => { x with thermCap := min 64 (x.thermCap + 8) })
    else m

/-- OVERTEMP_RECOVERED (R421): below 100 °C for 10 ms; the core ramps to the level's voltage, and the tiles return at a window. -/
def execOvertempRecovered (d : DieId) (s : State) : Res :=
  s.go fun m =>
    let x := m.die d
    if m.inService d && x.hot && x.sensors.all (fun t => decide (t < 1600)) then
      m.modDie d (fun x => { x with hot := false, vddMv := if !x.rails then 0 else if m.power.st = .vigil then 650 else plVolts m.power.pl })
    else m

/-- THERMAL_TRIP_115 (R421): every rail goes down, and the thermal alert stands (R440). -/
def execThermalTrip115 (d : DieId) (s : State) : Res :=
  s.go fun m =>
    let x := m.die d
    if m.power.st ≠ .off && x.rails && x.sensors.any (fun t => decide (1840 ≤ t)) then
      let m1 := m.removeRails 3
      { m1 with board := { m1.board with thermTrip := true } }
    else m

/-! ### Clears (R97, R425) -/

def execPwrClearAll (s : State) : Res := s.go fun m => if m.regsUp then { m with power := { m.power with refusals := [], aborts := 0 } } else m

/-- PWR_CLEAR_SEL: the refusal counter that PWR_REF_SEL selects. -/
def execPwrClearSel (s : State) : Res :=
  s.go fun m =>
    let w := m.reg pwrRefSel
    if !m.regsUp then m
    else { m with power := { m.power with refusals := tset 0#32 m.power.refusals (bits w 5 4 * 16 + bits w 3 0) 0 } }

end Sys2Proof.Machine
end

