-- ==== Sys2Proof/Machine/Startup.lean ====
section
/-! DEFINITION. The module at the board: supply, resets, the CXL link and start-up to job ready (R438 to R452, R458, R203, R407). -/

namespace Sys2Proof.Machine

/-! ### Supply and module-level resets -/

/-- STANDBY_POWER_LOSS (R438): J1 below 40 V. Module flash alone is kept. -/
def execStandbyPowerLoss (s : State) : Res :=
  s.go fun m => { Dev.reset with board := { Board.reset with standby := false }, sec := m.sec.kept, flash := m.flash, out := m.out, free := m.free }

/-- STANDBY_POWER_GOOD: the standby domain comes up, the module in Off. -/
def execStandbyPowerGood (s : State) : Res :=
  s.go fun m => if m.board.standby then m else { m with board := { m.board with standby := true, upNs := 0 } }

/-- J1_OUT_OF_RANGE (R438, R458): the rails go and the fault alert stands (J1 in mV). -/
def execJ1OutOfRange (mV : Nat) (s : State) : Res :=
  s.go fun m =>
    if !m.board.standby || (decide (54000 ≤ mV) && decide (mV ≤ 66000)) then m
    else
      let m1 := if m.power.st = .off then m else m.removeRails (if mV < 54000 then 1 else 2)
      { m1 with board := { m1.board with j1Latch := true } }

/-- POWER_ON_START (R438, R447, R451): J1 has held in range for 100 ms with PWR_EN high; with TEST_EN high the module stays at standby good
(R453). -/
def execPowerOnStart (testEn : Bool) (s : State) : Res :=
  s.go fun m =>
    if !m.board.standby || m.power.st ≠ .off then m
    else
      let m1 := { m with board := { m.board with j1Latch := false, pwrEn := true, testEn := testEn } }
      if m1.board.mayStart then m1.boot else m1

/-- PWR_EN_LOW (R439, R451): with the next rise a module-level reset; until then Off. -/
def execPwrEnLow (s : State) : Res :=
  s.go fun m =>
    let m1 := if m.power.st = .off then m else m.beforeReset.removeRails 4
    { m1 with board := { m1.board with pwrEn := false } }

/-- MOD_RST_N_ASSERT (R451); a pulse ends the thermal alert of a 115 °C trip (R440). -/
def execModRstNAssert (testEn : Bool) (s : State) : Res :=
  s.go fun m =>
    if m.board.standby then ({ m with board := { m.board with thermTrip := false } }).moduleReset testEn else m

/-- A write of SAF_RESET (R459): it acts only with KEY 0xA5, PARTIAL only from the management path. -/
def Dev.safResetWrite (m : Dev) (src : Source) (v : Word) (testEn : Bool) : Dev :=
  if bits v 15 8 ≠ 0xA5 then m
  else if v.getLsbD 31 then m.moduleReset testEn
  else
    let m1 := m.setReg safReset (v &&& 0x00070000#32)
    if v.getLsbD 30 && src = .mgmt then m1.partialReset (Fin.ofNat 8 (bits v 18 16)) else m1

/-- SAF_RESET_MODULE and SAF_RESET_PARTIAL; the block is the primary's (R457). -/
def execSafResetModule (v : Word) (testEn : Bool) (s : State) : Res :=
  s.go fun m => if m.map.primary.isNone || !v.getLsbD 31 then m else m.safResetWrite .mgmt v testEn
def execSafResetPartial (v : Word) (s : State) : Res :=
  s.go fun m => if m.map.primary.isNone || v.getLsbD 31 || !v.getLsbD 30 then m else m.safResetWrite .mgmt v m.board.testEn

/-! ### The CXL link -/

/-- A partition at a host-link reset (R452, R458): recovery and a decided commit complete first, any other running step is aborted. -/
def Dev.hostResetPart (m : Dev) (p : Pid) : Dev :=
  let m1 := m.resumePart p
  let x := m1.part p
  let m2 := match x.run, x.almanac with
    | some r, some a =>
      if r.decided then (m1.closeWindows p).commit p a r
      else if x.st = PState.running then m1.abortStep p .hostReset
      else m1
    | _, _ => m1
  m2.modPart p (fun y => { y with st := if y.st = PState.running then .loaded else y.st, armed := none, loading := none, bufs := [] })

/-- A ring set with everything the host gave it discarded. -/
def RingSet.discard (r : RingSet) : RingSet :=
  { r with enabled := false, disabling := false, kept := none, held := [], slots := [] }

/-- The slots that a snoop must cover before they turn not-ready (R443). -/
def RingSet.readySlots (r : RingSet) : List Nat := if r.enabled then r.slots.map (fun e => e.1) else []

/-- HOST_LINK_RESET. Snoops reach the host only where the link itself stays up. -/
def execHostLinkReset (kind : HostResetKind) (s : State) : Res :=
  s.go fun m =>
    let stays := decide (kind = .flr) || decide (kind = .cxlReset)
    let m1 := partIds.foldl (fun n p => n.hostResetPart p) m
    let m2 := when stays (fun n => setIds.foldl (fun n k => (n.ring k).readySlots.foldl (fun n i => n.emit (.backInvalidate k.val i)) n) n) m1
    let m3 := setIds.foldl (fun n k => n.modRing k RingSet.discard) m2
    let b := m3.board
    { m3 with
      sec := { m3.sec with ide := [] }
      board := { b with linkUp := b.linkUp && stays, memActive := false, cacheEn := false, perst := b.perst || decide (kind = .perst),
                        stage := if b.stage = 4 then 3 else b.stage } }

/-- PERST_RELEASE (R442): half 0 is trained. -/
def execPerstRelease (s : State) : Res :=
  s.go fun m => if m.board.perst then { m with board := { m.board with perst := false, half := 0 } } else m

/-- CXL_HALF0_TIMEOUT (R442). -/
def execCxlHalf0Timeout (s : State) : Res :=
  s.go fun m => if m.board.bifurcated && !m.board.perst && !m.board.linkUp then { m with board := { m.board with half := 1 } } else m

/-- CXL_LINK_UP. -/
def execCxlLinkUp (s : State) : Res :=
  s.go fun m => if decide (1 ≤ m.board.stage) && !m.board.perst then { m with board := { m.board with linkUp := true } } else m

/-- CXL_CONFIG_REQUEST (R448): retried until CXL ready. `cache` is what a write gives Cache_Enable (R307). -/
def execCxlConfigRequest (tag : Nat) (cache : Option Bool) (s : State) : Res :=
  s.go fun m =>
    if !m.board.linkUp then m
    else if !m.board.memActive then m.emit (.configReply tag true)
    else ({ m with board := { m.board with cacheEn := cache.getD m.board.cacheEn } }).emit (.configReply tag false)

/-- CXL_READY (R448): with the link up and a primary elected, or with no die that could hold it. -/
def execCxlReady (s : State) : Res :=
  s.go fun m =>
    if m.board.linkUp && decide (3 ≤ m.board.stage) && dieIds.all (fun d => decide ((m.die d).cls ≠ .unclassified))
        && (m.map.primary.isSome || m.healthy.isEmpty) then
      { m with board := { m.board with memActive := true, stage := max 4 m.board.stage } }
    else m

/-! ### Rails to classification -/

/-- A die fails its start-up test: fenced, EV-SAF-02. -/
def Dev.failDie (m : Dev) (d : DieId) : Dev :=
  if m.fencedDie d then m
  else (m.modDie d (fun x => { x.drop with warmup := false, refWait := false })).raise none (evDie (.saf 2) d)

/-- The test stage begins once every die that has not failed has its rails and has warmed up. -/
def Dev.toTests (m : Dev) : Dev :=
  if m.board.stage = 2 && dieIds.all (fun d => m.fencedDie d || ((m.die d).rails && !(m.die d).warmup && !(m.die d).refWait))
  then { m with board := { m.board with stage := 3 } } else m

/-- The copies of a record that are there and do not read as valid are discarded: erased, counted, EV-CAL-02 for each (R203). -/
def Dev.discardCopies (m : Dev) (errs : List FlashError) (d : DieId) (k : StoreKind) (t : Nat) (l : LeafId) : Dev :=
  [false, true].foldl (fun n second => match m.readCopy errs d k t l.val second with
    | some none => ((n.eraseCopy d k t l second).modDie d (fun x => { x with discarded := if x.discarded = 0xFFFF#16 then x.discarded else x.discarded + 1 })).raise
        (some d) (if k = .die then evDie (.cal 2) d else evUnit (.cal 2) d 1 t (if byLeaf k then l.val else 0))
    | _ => n) m

/-- The VREF_D trim at start-up (R186, R200): against REFV, with its record written, or from the DIE record; with neither the die fails. -/
def Dev.trimVref (m : Dev) (d : DieId) (f : RailsFound) : Dev :=
  let set (trim : Int) (ratio : Nat) (ts : List Int) (o : BitVec 12) (g : BitVec 16) (m : Dev) : Dev := m.modDie d (fun x =>
    { x with vrefTrim := trim, bandRatio := ratio,
             mon := { x.mon with refvOk := f.refvOk, refv := BitVec.ofNat 17 f.refv, trims := tsetAll 0 [] (ts.zipIdx.map (fun e => (e.2, e.1))), o := o, g := g } })
  if f.refvOk then (set f.vrefTrim f.ratio f.trims f.monO f.monG m).storeRecord d .die 0 0
  else match (m.readStore f.errors d .die 0 0).map StoreRec.payload with
    | some (.die trim ratio ts o g) => set trim ratio ts o g (m.discardCopies f.errors d .die 0 0)
    | _ => (m.discardCopies f.errors d .die 0 0).failDie d

/-- RAILS_GOOD (R450, R186). -/
def execRailsGood (d : DieId) (f : RailsFound) (s : State) : Res :=
  s.go fun m =>
    if !(m.die d).booted || (m.die d).cls ≠ .unclassified || (m.die d).rails then m
    else
      let m1 := m.modDie d (fun x => { x with rails := true, analog := true, vddMv := 800, warmup := f.cold, refclkOk := f.refclk, refWait := !f.refclk })
      (({ m1 with board := { m1.board with stage := max 2 m1.board.stage } }).trimVref d f).toTests

/-- WARMUP_END (R450). -/
def execWarmupEnd (d : DieId) (reached : Bool) (s : State) : Res :=
  s.go fun m =>
    if !(m.die d).warmup then m
    else if reached then (m.modDie d (fun x => { x with warmup := false })).toTests
    else (m.failDie d).toTests

/-- REFCLK_WAIT_TIMEOUT (R450). -/
def execRefclkWaitTimeout (d : DieId) (s : State) : Res :=
  s.go fun m => if (m.die d).refWait then (m.failDie d).toTests else m

/-- A die classified in service. Retired cubes and W-units stay out unless their start-up test passed (R364, R366). -/
def Dev.classify (m : Dev) (d : DieId) (unitsPassed : Bool) : Dev :=
  let mine (n : Nat) (t : Tab Bool) : List Nat := (t.filter (fun e => decide (e.1 / n = d.val))).map (fun e => e.1 % n)
  let cs := if unitsPassed then [] else mine 1024 m.flash.cubesRet
  let us := if unitsPassed then [] else mine 64 m.flash.wunitsRet
  let m1 := m.modDie d (fun x =>
    let y := cs.foldl (fun x c => x.modCube c (fun u => { u with st := .retired })) x
    let z := us.foldl (fun x c => x.modWunit c (fun u => { u with st := .retired })) y
    { z with cls := .inService, awake := true, stack := { z.stack with trained := true } })
  if unitsPassed then
    { m1 with flash := { m1.flash with cubesRet := tkeep m1.flash.cubesRet (fun k => decide (k / 1024 ≠ d.val)),
                                       wunitsRet := tkeep m1.flash.wunitsRet (fun k => decide (k / 64 ≠ d.val)) } }
  else m1

/-- STARTUP_TEST_DONE (R43, R45, R50): every die in service or fenced. A die whose stack does not train raises EV-STK-09 too. The dies in
service detect the failures of the others (R376). -/
def execStartupTestDone (passed stackTrained : BitVec 8) (unitsPassed : Bool) (s : State) : Res :=
  s.go fun m =>
    let ds := dieIds.filter (fun d => decide ((m.die d).cls = .unclassified))
    if m.board.stage ≠ 3 || ds.isEmpty then m
    else
      let one (n : Dev) (d : DieId) : Dev :=
        if !stackTrained.getLsbD d.val then (n.raise none (evStk 9 d)).failDie d
        else if passed.getLsbD d.val then n.classify d unitsPassed
        else n.failDie d
      let ok (d : DieId) : Bool := stackTrained.getLsbD d.val && passed.getLsbD d.val
      (((ds.filter ok ++ ds.filter (fun d => !ok d)).foldl one m).tooFew).publishIfCalm

/-! ### Store and job ready -/

/-- Recalibrated corrections of `k` converters or columns: free draws (log entry 2). -/
def freeTab (w n k : Nat) : Tab (BitVec w) := tsetAll 0 [] ((List.range k).map (fun i => (i, (Config.freeWord (n + i)).setWidth w)))

/-- A tile with what its store records give it, its nearest sensor at `temp`; a tile with no TILE record is as manufactured. -/
def Tile.fromStore (t : Nat) (temp : Int) (pay : StoreKind → Nat → Option StoreRec) : Tile :=
  let y0 : Tile := { Tile.reset with st := if t < 4096 then .analog else .spareFree }
  let y1 : Tile := match (pay .tile 0).map StoreRec.payload with
    | some (.tile st link spare bad) =>
      { y0 with st := if st = .remapPending || st = .programming then .analog else st, link := link, spareMap := spare, refBad := bad }
    | _ => y0
  let y2 : Tile := match (pay .cnv 0).map StoreRec.payload with
    | some (.cnv o g) => { y1 with convO := o, convG := g }
    | _ => y1
  leafIds.foldl (fun y l => y.modLeaf l (fun f =>
    let f1 : Leaf := match (pay .col l.val).map StoreRec.payload with
      | some (.col o g) => { f with colO := o, colG := g }
      | _ => f
    let f2 : Leaf := match pay .trk l.val with
      | some r => (match r.payload with
        | .trk c => { f1 with cal := c, frozen := r.frozen }
        | _ => f1)
      | none => f1
    { f2 with runDue := true, cal := { f2.cal with tw := BitVec.ofInt 12 temp } })) y2

/-- A kind by its TYPE code. -/
def kindOfCode : Nat → Option StoreKind
  | 1 => some .die
  | 2 => some .cnv
  | 3 => some .col
  | 4 => some .trk
  | 5 => some .tile
  | 6 => some .wear
  | _ => none

/-- The records that a die's part of the store holds a copy of, in order of tile. -/
def Flash.recordsOf (f : Flash) (d : DieId) : List (StoreKind × Nat × LeafId) :=
  ((f.store.filter (fun e => decide (e.1 / 65536 % 8 = d.val))).filterMap (fun e =>
    (kindOfCode (e.1 / 524288)).map (fun k => (k, e.1 / 8 % 8192, (Fin.ofNat 4 (e.1 / 2 % 4) : LeafId))))).eraseDups

/-- The wear recorded for a tile: of each leaf the largest count of a row and lane, and the leaf-wide count. -/
def Dev.wearOf (m : Dev) (errs : List FlashError) (d : DieId) (t : Nat) : Option (List (Nat × Nat)) :=
  match (m.readStore errs d .wear t 0).map StoreRec.payload with
  | some (.wear ls) => some ls
  | _ => none

/-- The largest counts recorded for any leaf of a die (R203). -/
def Dev.worstWear (m : Dev) (errs : List FlashError) (d : DieId) : Nat × Nat :=
  (m.flash.recordsOf d).foldl (fun w e => if e.1 = .wear
    then ((m.wearOf errs d e.2.1).getD []).foldl (fun w l => (max w.1 l.1, max w.2 l.2)) w else w) (0, 0)

/-- Every count of a leaf set (R164). -/
def Leaf.setWear (top wide : Nat) (f : Leaf) : Leaf :=
  { f with wear := [], wearBase := BitVec.ofNat 24 top, leafWear := BitVec.ofNat 32 wide }

/-- A tile's counts set, with its band and what its registers show (R164, R165). -/
def Dev.setWear (m : Dev) (d : DieId) (t : Nat) (ls : List (Nat × Nat)) : Dev :=
  m.modDie d (fun x => (x.modTile t (fun y =>
    let y1 := ls.zipIdx.foldl (fun y w => y.modLeaf (Fin.ofNat 4 w.2) (Leaf.setWear w.1.1 w.1.2)) y
    { y1 with band := bandOf y1.maxWear.toNat })).showTile t)

/-- Converter correction of a tile at start-up: 1,296 new pairs. A pipeline converter outside its bounds retires the tile (R188). -/
def Dev.recalConv (m : Dev) (d : DieId) (t : Nat) : Dev :=
  let o : Tab (BitVec 12) := freeTab 12 m.free 1296
  let g : Tab (BitVec 16) := freeTab 16 (m.free + 1296) 1296
  let bad := (List.range 144).any (fun i => convOutside (tget 0 o (1152 + i), tget 0 g (1152 + i)))
  let m1 := (m.modDie d (fun x => (x.modTile t (fun y => { y with convO := o, convG := g, retireDue := y.retireDue || bad })).recordDue .cnv t 0)).drawn 2592
  when bad (fun n => n.raise (some d) { evUnit (.cnv 1) d 7 t 0 with part := (m.owner (resTile d t)).map (fun p => p.val) }) m1

/-- Column calibration of a leaf at start-up: 1,120 new pairs. A column outside its bounds is retired (R133). -/
def Dev.recalCols (m : Dev) (d : DieId) (t : Nat) (l : LeafId) : Dev :=
  let o : Tab (BitVec 12) := freeTab 12 m.free 1120
  let g : Tab (BitVec 16) := freeTab 16 (m.free + 1120) 1120
  let m1 := (m.modDie d (fun x => (x.modLeaf t l (fun f => { f with colO := o, colG := g })).recordDue .col t l.val)).drawn 2240
  let y := (m1.die d).tile t
  ((List.range 1120).filter (fun c => y.pathOutside (y.leaf l) c)).foldl (fun n c => n.failCol d t c) m1

/-- A reference read of a leaf at start-up: K and z measured, κ at its default. -/
def Dev.recalTrack (m : Dev) (d : DieId) (t : Nat) (l : LeafId) : Dev :=
  let w := Config.freeWord m.free
  (m.modDie d (fun x =>
    let temp : BitVec 12 := BitVec.ofInt 12 (x.tempAt t)
    (x.modLeaf t l (fun f => { f with cal := { LeafCal.reset with k := w.setWidth 16, z := (w >>> 16).setWidth 12, tcal := temp, tw := temp } })).recordDue
      .trk t l.val)).drawn 1

/-- What a record held, where no copy of it is valid, is measured again (R203). Of a TILE record that takes converter correction and column
calibration of every leaf; a WEAR record leaves the largest counts recorded for any tile of the die. -/
def Dev.recalibrate (m : Dev) (errs : List FlashError) (d : DieId) (k : StoreKind) (t : Nat) (l : LeafId) : Dev :=
  match k with
  | .die => m.modDie d (fun x => x.recordDue .die 0 0)
  | .cnv => m.recalConv d t
  | .col => m.recalCols d t l
  | .trk => m.recalTrack d t l
  | .tile => (leafIds.foldl (fun n l => n.recalCols d t l) (m.recalConv d t)).modDie d (fun x => x.recordDue .tile t 0)
  | .wear => m.setWear d t (leafIds.map (fun _ => m.worstWear errs d))

/-- STORE_READY (R203): every record of the die is read, and used or discarded; every placed leaf then receives a reference read. -/
def execStoreReady (d : DieId) (errs : List FlashError) (s : State) : Res :=
  s.go fun m =>
    if !m.inService d || (m.die d).storeReady then m
    else
      let rs := m.flash.recordsOf d
      let ts := (List.range 4160).map (fun t => (t, Tile.fromStore t ((m.die d).tempAt t) (fun k l => m.readStore errs d k t l)))
      let m1 := m.modDie d (fun x => { x with tiles := tsetAll Tile.reset x.tiles ts })
      let m2 := rs.foldl (fun n r => n.discardCopies errs d r.1 r.2.1 r.2.2) m1
      let m3 := (rs.filter (fun r => (m.readStore errs d r.1 r.2.1 r.2.2.val).isNone)).foldl (fun n r => n.recalibrate errs d r.1 r.2.1 r.2.2) m2
      m3.modDie d (fun x => { (List.range 4160).foldl (fun x t => x.showTile t) x with storeReady := true })

/-- Wear counts of a die's tiles restored from their WEAR records (R164). -/
def Dev.restoreWear (m : Dev) (d : DieId) : Dev :=
  (m.flash.recordsOf d).foldl (fun n r => if r.1 = .wear then (match m.wearOf [] d r.2.1 with
    | some ls => n.setWear d r.2.1 ls
    | none => n) else n) m

/-- Recorded leaf bindings are in force again, with their partitions and device sets (R388). -/
def Dev.restoreBinds (m : Dev) : Dev :=
  m.flash.leafBinds.foldl (fun n e =>
    let p : Pid := Fin.ofNat 16 (e.2 - 1)
    let set := tget 0 n.flash.leafSets e.1
    let n1 := n.comeToBe p
    { n1.modPart p (fun x => if set = 0 then x else { x with setId := set, slot := n1.slotOf set }) with
      binds := { n1.binds with owners := tset 0 n1.binds.owners e.1 e.2, leafSets := tset 0 n1.binds.leafSets e.1 set } }) m

/-- JOB_READY (R449, R388, R346, R164, R459). -/
def execJobReady (s : State) : Res :=
  s.go fun m =>
    if decide (m.board.stage < 3) || decide (5 ≤ m.board.stage) || decide (m.healthy.length < 2) || !m.healthy.all (fun d => (m.die d).storeReady)
        || dieIds.any (fun d => decide ((m.die d).cls = .unclassified)) then m
    else
      let m1 := m.healthy.foldl (fun n d => (n.restoreWear d).modDie d (fun x => { x with stack := { x.stack with table := tget [] m.flash.retired d.val } })) m.restoreBinds
      { m1 with board := { m1.board with stage := 5, startMs := BitVec.ofNat 24 (min (m1.board.upNs / 1000000) 0xFFFFFF) } }

end Sys2Proof.Machine
end

