-- ==== Sys2Proof/Machine/RegWrite.lean ====
section
/-! DEFINITION. Register writes (R455 to R460): the RW fields of set-up registers, each written only with a value in its range, and the
registers whose writes are commands of their own. -/

namespace Sys2Proof.Machine

/-! ### Fields -/

/-- A field's rule: its bits, and the values it takes. -/
structure FieldRule where
  hi : Nat
  lo : Nat
  least : Nat
  most : Nat
  deriving DecidableEq, Repr

/-- A written word's fields, each kept as it was where the value is outside its range. -/
def applyFields (old v : Word) (fs : List FieldRule) : Word :=
  fs.foldl (fun w f => field w v f.hi f.lo (fun n => decide (f.least ≤ n) && decide (n ≤ f.most))) old

/-- A field that takes any value it can hold. -/
def whole (hi lo : Nat) : FieldRule := { hi := hi, lo := lo, least := 0, most := 2 ^ (hi + 1 - lo) - 1 }
def upTo (hi lo most : Nat) : FieldRule := { hi := hi, lo := lo, least := 0, most := most }
def range (hi lo least most : Nat) : FieldRule := { hi := hi, lo := lo, least := least, most := most }

def layerSel : List FieldRule := [whole 31 28, whole 27 16, whole 1 0]

/-- The RW registers of a die that hold their fields and do nothing else. -/
def dieFields : List (RegDef × List FieldRule) :=
  [(calDcntCtrl, [range 7 0 1 100]), (calCfg, [range 25 16 1 1000, range 4 0 1 16]), (calLeafSel, [whole 14 13, whole 12 0]),
   (clvTileSel, [whole 12 0]), (clvRetCfg, [upTo 15 8 96, range 3 0 4 10]), (clvAniSel, layerSel), (clvWrSel, layerSel),
   (clvWrCfg, [range 28 16 64 4160, range 15 0 1 65535]), (cnvDiagTgt, [upTo 21 13 144, upTo 12 0 4159]), (cnvMonSel, [whole 4 0]),
   (mceCubeSel, [whole 9 0]), (mceCntSel, [whole 1 0]), (mceSmpSel, layerSel)] ++
  [(wunUnitSel, [whole 5 0]), (wunRngSel, [whole 3 0]), (wunOvfSel, [whole 31 28, whole 27 16, whole 10 8, whole 1 0]), (wunPartSel, [whole 3 0]),
   (wunStepCntSel, [whole 2 0]), (stkCfg, [range 31 16 1 65535, range 15 8 1 168, range 7 0 80 100]), (stkErrSel, [whole 2 0]),
   (stkRetireLo, [whole 31 16]), (stkRetireHi, [whole 4 0]), (cdmPortSel, [whole 1 0]), (cdmCntSel, [whole 3 0])]

/-- The module-wide ones. -/
def modFields : List (RegDef × List FieldRule) :=
  [(ringSetSel, [whole 5 0]), (partSel, [whole 3 0]), (partCntSel, [upTo 31 28 6, whole 27 25]), (pwrCap, [range 10 0 600 1800]),
   (pwrVigilCfg, [upTo 31 16 60000, range 9 0 1 1000]), (pwrLimitCfg, [range 21 17 1 16, range 16 10 85 104, range 9 0 1 1000]),
   (pwrIdle, [upTo 13 0 10000]), (pwrDieSel, [whole 2 0]), (pwrRefSel, [whole 5 4, upTo 3 0 12])] ++
  [(safTestCfg, [whole 15 8, whole 2 2, whole 1 0]), (safDigestSel, [whole 1 0])]

/-- The RW fields of PART_BIND_REQ. -/
def bindReqFields : List FieldRule := [upTo 31 28 7, whole 27 25, whole 24 12, whole 11 10, whole 9 5]

def findReg (t : List (RegDef × List FieldRule)) (off : Nat) : Option (RegDef × List FieldRule) := t.find? (fun e => decide (e.1.off = off))

/-! ### Registers with effects -/

/-- A write that is a command of its own has that command's effect. -/
def Dev.asCommand (f : State → Res) (m : Dev) : Dev := match f { dev := m, pending := [] } with
  | .next s => s.dev
  | _ => m

/-- A clear register: CLEAR_ALL in bit 1, CLEAR_SEL in bit 0. -/
def Dev.clears (m : Dev) (v : Word) (all sel : State → Res) : Dev :=
  when (v.getLsbD 0) (Dev.asCommand sel) (when (v.getLsbD 1) (Dev.asCommand all) m)

/-- A perturbation setting of the class selected: written only under an open unlock that permits the class (R455). -/
def Dev.tstWrite (m : Dev) (d : DieId) (r : RegDef) (fs : List FieldRule) (v : Word) : Dev :=
  let c := bits ((m.die d).reg tstClassSel) 2 0
  if m.dieRegs d && m.board.unlock.any (fun u => u.mask.getLsbD c) then
    m.modDie d (fun x => x.setReg (banked r c) (applyFields (x.reg (banked r c)) v fs))
  else m

def ackDelayFields : List FieldRule := [whole 31 31, whole 15 0]
def stretchFields : List FieldRule := [whole 31 31, range 9 0 16 1023]
def backpressFields : List FieldRule := [whole 31 31, upTo 25 16 1000, whole 15 0]
def patternFields : List FieldRule := [whole 31 31, range 15 0 1 65535]

/-- GO of TST_STALL: the class's next acknowledgement is withheld until its watchdog expires. -/
def Dev.stallWrite (m : Dev) (d : DieId) (v : Word) : Dev :=
  let c := bits ((m.die d).reg tstClassSel) 2 0
  if m.dieRegs d && v.getLsbD 31 && (m.die d).stallSet.isEmpty && m.board.unlock.any (fun u => u.mask.getLsbD c) then
    m.modDie d (fun x => { x with stallSet := tset 0#32 x.stallSet c 1 })
  else m

/-- CLOSE of TST_UNLOCK_STATUS (R454). -/
def Dev.unlockWrite (m : Dev) (v : Word) : Dev := if v.getLsbD 30 then m.closeUnlock else m

/-- Bases of the selected ring set, kept while it is enabled (R306). -/
def Dev.writeBase (m : Dev) (i : Nat) (mask v : Word) : Dev :=
  m.modRing m.selSet (fun r => if r.enabled then r else { r with bases := tset 0 r.bases i (v &&& mask) })

/-- PART_BIND_REQ through its copy. -/
def Dev.writeBindReq (m : Dev) (src : Source) (v : Word) : Dev :=
  { m with binds := match src with
    | .host => { m.binds with hostReq := applyFields m.binds.hostReq v bindReqFields }
    | .mgmt => { m.binds with mgmtReq := applyFields m.binds.mgmtReq v bindReqFields } }

/-- PWR_CTRL through its copy. -/
def Dev.writePwrCtrl (m : Dev) (src : Source) (v : Word) : Dev :=
  let m1 := m.setTarget src (bits v 27 26)
  if v.getLsbD 31 then m1.powerGo src (bits v 27 26) else m1

/-- SAF_XCHK_CFG: CLEAR, and the fields. -/
def Dev.writeXchk (m : Dev) (v : Word) : Dev :=
  let m1 := m.setReg safXchkCfg (applyFields (m.reg safXchkCfg) v [range 12 8 1 16, range 7 0 1 255])
  if v.getLsbD 31 then { m1 with digest := { m1.digest with xchkCount := 0 } } else m1

/-! ### Dispatch by offset -/

/-- The WO, GO and banked registers of a die. -/
def Dev.writeDieCmd (m : Dev) (d : DieId) (off : Nat) (v : Word) : Option Dev :=
  match off with
  | 0x1028 => some (m.clears v (execAniClearAll d) (execAniClearSel d))
  | 0x1050 => some (m.clears v (execWrClearAll d) (execWrClearSel d))
  | 0x2004 => some (m.asCommand (execCnvDiagGo d v))
  | 0x201C => some (when (v.getLsbD 0) (Dev.asCommand (execCnvClipClear d)) m)
  | 0x3018 => some (m.clears v (execMceClearAll d) (execMceClearSel d))
  | 0x3100 => some (m.asCommand (execSmpCfgWrite d v))
  | 0x3110 => some (m.clears v (execSmpClearAll d) (execSmpClearSel d))
  | 0x4208 => some (m.clears v (execOvfClearAll d) (execOvfClearSel d))
  | 0x4210 => some (when (v.getLsbD 0) (Dev.asCommand (execForceWarmup d)) m)
  | 0x4320 => some (m.clears v (execStepCntClearAll d) (execStepCntClearSel d))
  | 0x5010 => some (m.clears v (execStkClearAll d) (execStkClearSel d))
  | 0x5024 => some (m.retireCtrl d v)
  | 0x5028 => some (m.marginWrite d v)
  | 0x6004 => some (m.asCommand (execPortEnable d v))
  | 0x6010 => some (m.modDie d (fun x =>
      let r := banked cdmLaneCfg x.selPortNo.val
      x.setReg r (applyFields (x.reg r) v [range 15 0 1 65535])))
  | 0x601C => some (m.clears v (execCdmClearAll d) (execCdmClearSel d))
  | 0x6024 => some (m.asCommand (execDigestCfgWrite d v))
  | 0x8000 => some (if m.board.unlock.isSome then m.modDie d (fun x => x.setReg tstClassSel (v &&& 0x7#32)) else m)
  | 0x8004 => some (m.tstWrite d tstAckDelay ackDelayFields v)
  | 0x8008 => some (m.tstWrite d tstStretch stretchFields v)
  | 0x800C => some (m.tstWrite d tstBackpress backpressFields v)
  | 0x8010 => some (m.tstWrite d tstPattern patternFields v)
  | 0x8014 => some (m.stallWrite d v)
  | _ => none

/-- The module-wide ones; those of the SAF_ block are the primary's. -/
def Dev.writeModCmd (m : Dev) (src : Source) (off : Nat) (v : Word) : Option Dev :=
  match off with
  | 0x80008 => some (m.writeRingCtrl v)
  | 0x80010 => some (m.writeBase 0 0xFFFFF000#32 v)
  | 0x80014 => some (m.writeBase 1 0xFFFFFFFF#32 v)
  | 0x80018 => some (m.writeBase 2 0xFFFFF000#32 v)
  | 0x8001C => some (m.writeBase 3 0xFFFFFFFF#32 v)
  | 0x80020 => some (m.writeBase 4 0xFFFFFFC0#32 v)
  | 0x80024 => some (m.writeBase 5 0xFFFFFFFF#32 v)
  | 0x80038 => some (when (v.getLsbD 0) (Dev.asCommand execRingHaltClear) m)
  | 0x80044 => some (when (v.getLsbD 0) (Dev.asCommand execRingBadClear) m)
  | 0x81000 => some (m.writeBindReq src v)
  | 0x81004 => some (when (v.getLsbD 31) (fun n => n.bindGo src) m)
  | 0x81020 => some (m.partSetWrite v)
  | 0x82000 => some (m.writePwrCtrl src v)
  | 0x82008 => some (m.plWrite v)
  | 0x82034 => some (m.clears v execPwrClearAll execPwrClearSel)
  | 0x83130 => some (m.writeXchk v)
  | 0x83144 => some (when (v.getLsbD 0) (Dev.asCommand execAlertClear) m)
  | 0x831A0 => some (m.safResetWrite src v m.board.testEn)
  | 0x84000 => some (m.unlockWrite v)
  | _ => none

/-- Write a die's register: `none` where the offset holds nothing to write. -/
def Dev.writeDie (m : Dev) (d : DieId) (off : Nat) (v : Word) : Option Dev :=
  match findReg dieFields off with
  | some e => some (m.modDie d (fun x => x.setReg e.1 (applyFields (x.reg e.1) v e.2)))
  | none => m.writeDieCmd d off v

def Dev.writeMod (m : Dev) (src : Source) (off : Nat) (v : Word) : Option Dev :=
  match findReg modFields off with
  | some e => some (m.setReg e.1 (applyFields (m.reg e.1) v e.2))
  | none => m.writeModCmd src off v

/-- An aligned 32-bit write to BAR0 (R456, R457), `none` where there is nothing to write. A die that is fenced takes none, nor does the
module-wide SAF_ block while no primary is elected. -/
def Dev.writeReg (m : Dev) (src : Source) (off : Nat) (v : Word) : Option Dev :=
  if off < 0x80000 then
    let d : DieId := Fin.ofNat 8 (off / 0x10000)
    (m.writeDie d (off % 0x10000) v).map (fun n => if m.dieRegs d then n else m)
  else (m.writeMod src off v).map (fun n => if off / 0x1000 = 0x83 && m.map.primary.isNone then m else n)

end Sys2Proof.Machine
end

