-- ==== Sys2Proof/Machine/Management.lean ====
section
/-! DEFINITION. The management path: registers, objects, the log and the destination address over MCTP (R445, R446), and the objects' checks
(R135, R367, R396 to R398, R402, R406, R454). -/

namespace Sys2Proof.Machine

/-- The endpoint answers: standby good and its section of the bridge in service. -/
def Dev.mgmtUp (m : Dev) : Bool := m.board.standby && !m.board.mgmtFail

/-- A message's status and value. -/
def Dev.reply (m : Dev) (code status : Nat) (v : Word) : Dev := m.emit (.mctp code status v)

/-! ### Registers (R445) -/

/-- REG_READ: answered in Off as well, where PWR_START and PWR_STATUS say so (R431, R459); at an unaligned offset, status 2 (log
entry 31). -/
def execRegRead (off : BitVec 20) (s : State) : Res :=
  s.go fun m =>
    if !m.mgmtUp then m
    else if decide (off.toNat % 4 ≠ 0) then m.reply 0x01 2 0
    else m.readReg .mgmt off.toNat (fun v => .mctp 0x01 0 v)

/-- REG_WRITE: the RING_ block, and what is neither RW nor WO, are refused, and every write in Off (log entry 31). -/
def execRegWrite (off : BitVec 20) (v : Word) (s : State) : Res :=
  s.go fun m =>
    if !m.mgmtUp then m
    else if !m.regsUp || decide (off.toNat % 4 ≠ 0) || decide (off.toNat / 0x1000 = 0x80) then m.reply 0x02 2 0
    else match m.writeReg .mgmt off.toNat v with
      | some n => n.reply 0x02 0 0
      | none => m.reply 0x02 2 0

/-! ### Object checks -/

/-- ASCII NV8FWIM1, NV8PTPK1 and NV8CFGR1 as little-endian fields. -/
def magicFirmware : Dbl := 0x314D49574638564E#64
def magicPack : Dbl := 0x314B50545038564E#64
def magicRecord : Dbl := 0x315247464338564E#64

/-- Both signatures verify under Svaontas, or under the owner; an unowned module has no owner's objects (R396). -/
def Dev.byVendor (m : Dev) (g : Signature) : Bool := g.rsaOk && g.slhOk && decide (m.sec.svendor = (g.rsaKeyId, g.slhKeyId))
def Dev.byOwner (m : Dev) (g : Signature) : Bool := g.rsaOk && g.slhOk && decide (m.sec.owner = some (g.rsaKeyId, g.slhKeyId))

/-- 16 MiB, the longest record or pack. -/
def objectMost : Nat := 16 * 1024 * 1024

/-- EV-PART-04: a signed object refused. -/
def Dev.objectRefused (m : Dev) : Dev := m.raise none (ev (.part 4))

/-- A firmware image (R402, R406): pending until the next module-level reset. -/
def Dev.takeFirmware (m : Dev) (magic : Dbl) (format component svn : Nat) (digest : BitVec 384) (g : Signature) : Option Dev :=
  if magic = magicFirmware && decide (format = 1) && decide (2 ≤ component) && decide (component ≤ 5)
      && decide (tget 0 m.sec.svnMin component ≤ svn) && m.byVendor g then
    some { m with sec := { m.sec with pending := tset (0, 0) m.sec.pending component (svn, digest) } }
  else none

/-- Every field of a pack in its range (R367). -/
def packFields (magic : Dbl) (format cls slot patterns slices length rsvd : Nat) : Bool :=
  magic = magicPack && decide (format = 1) && decide (1 ≤ cls) && decide (cls ≤ 4) && decide (slot < 8) && decide (1 ≤ patterns)
    && decide (patterns ≤ 65535) && decide (1 ≤ slices) && decide (slices ≤ 4096) && decide (length ≤ objectMost) && decide (rsvd = 0)

/-- The same pack is loaded in this version or a later one. -/
def Dev.packOld (m : Dev) (packId : Dbl) (version : Nat) : Bool := m.sec.packs.any (fun e => match e.2 with
  | some k => decide (k.packId = packId) && decide (version ≤ k.version)
  | none => false)

/-- A signature of one of the vendor's configuration records, or of one of the owner's (R396). -/
def Dev.recordSigned (m : Dev) (g : Signature) : RecordBody → Bool
  | .owner _ _ => m.byVendor g
  | .retireClear _ _ => m.byVendor g
  | .testUnlock _ _ _ _ => m.byVendor g
  | .devset _ _ _ _ _ => m.byOwner g
  | .svnMin _ => m.byOwner g
  | .bindSrc _ => m.byOwner g

/-- TYPE of R397. -/
def recordType : RecordBody → Nat
  | .owner _ _ => 1
  | .devset _ _ _ _ _ => 2
  | .svnMin _ => 3
  | .bindSrc _ => 4
  | .retireClear _ _ => 5
  | .testUnlock _ _ _ _ => 6

def Dev.lastSetSeq (m : Dev) (set : Dbl) : Dbl := ((m.sec.setSeq.find? (fun e => decide (e.1 = set))).map (fun e => e.2)).getD 0

/-- SEQ is above the last accepted of its TYPE, or of its SET_ID for a DEVSET, and IDTAG names this module, or is 0 for a DEVSET. -/
def Dev.recordFresh (m : Dev) (seq idtag : Dbl) (b : RecordBody) : Bool := match b with
  | .devset set _ _ _ _ => decide (idtag = 0) && decide (m.lastSetSeq set < seq)
  | _ => decide (idtag = m.sec.idtag) && decide (tget 0 m.sec.seqAcc (recordType b) < seq)

/-- Whether a partition exists. -/
def Dev.anyPart (m : Dev) : Bool := partIds.any (fun p => (m.part p).inBeing)

/-- Fields of a record's body in range, and what its type asks beyond (R396, R398, R454). -/
def Dev.bodyOk (m : Dev) : RecordBody → Bool
  | .owner _ _ => !m.anyPart
  | .devset _ slot count member rsvd => decide (slot < 16) && decide (1 ≤ count) && decide (count ≤ 4096) && member && decide (rsvd = 0)
  | .svnMin _ => true
  | .bindSrc src => decide (src ≤ 2)
  | .retireClear d t => decide (d < 8) && decide (t < 4160)
  | .testUnlock dur _ flags rsvd => decide (1 ≤ dur) && decide (dur ≤ 86400) && decide (flags.toNat < 4) && decide (rsvd = 0) && !m.anyPart

/-- Rewrite both copies of a tile's record, where they are valid, with another state and no LINK. -/
def Flash.putState (idtag : Dbl) (f : Flash) (d : DieId) (t : Nat) (st : TileState) : Flash :=
  [false, true].foldl (fun f second =>
    let k := copyKey d .tile t 0 second
    match readRecord idtag d .tile t 0 (tget [] f.store k) with
    | some r => (match r.payload with
      | .tile _ _ s b => { f with store := tset [] f.store k (recordBytes idtag d .tile t 0 { r with payload := .tile st 0x1FFF#13 s b }) }
      | _ => f)
    | none => f) f

/-- The retirement record of a tile, and of the spare that took its place, cleared: they are in service and free from the next start-up on
(R135, log entry 32). -/
def Dev.clearRetired (m : Dev) (d : DieId) (t : Nat) : Flash :=
  let link : Nat := match (m.readStore [] d .tile t 0).map StoreRec.payload with
    | some (.tile .retiredSpare l _ _) => l.toNat
    | _ => 0x1FFF
  let f := m.flash.putState m.sec.idtag d t .analog
  if link < 4160 then f.putState m.sec.idtag d link .spareFree else f

/-- An accepted record takes effect. -/
def Dev.applyRecord (m : Dev) (seq : Dbl) (b : RecordBody) (digest : BitVec 384) : Dev :=
  let x := { m.sec with recDigests := m.sec.recDigests ++ [digest] }
  let byType : Tab Dbl := tset 0 x.seqAcc (recordType b) seq
  match b with
  | .owner r k => { m with sec := { x with seqAcc := byType, owner := some (r, k) } }
  | .devset set slot _ _ _ =>
    { m with sec := { x with setSeq := (set, seq) :: x.setSeq.filter (fun e => decide (e.1 ≠ set)), devsets := tset none x.devsets slot (some set) } }
  | .svnMin mins => { m with sec := { x with seqAcc := byType, svnMin := tsetAll 0 x.svnMin mins } }
  | .bindSrc src => { m with sec := { x with seqAcc := byType, bindSrc := src } }
  | .retireClear d t => { m with sec := { x with seqAcc := byType }, flash := m.clearRetired (Fin.ofNat 8 d) t }
  | .testUnlock dur mask flags _ =>
    ({ m with
      sec := { x with seqAcc := byType }
      board := { m.board with unlock := some { openedAt := m.stamps, durationS := dur, mask := mask, margin := flags.getLsbD 0, priv := flags.getLsbD 1 } } }).raise
        none (ev (.tst 1))

/-- A TEST_UNLOCK record has an event of its own when it is refused. -/
def isUnlock : RecordBody → Bool
  | .testUnlock _ _ _ _ => true
  | _ => false

/-- A configuration record (R397): EV-PART-04 where a signature fails or another record is refused, EV-TST-02 for a refused unlock. -/
def Dev.takeRecord (m : Dev) (magic : Dbl) (format length : Nat) (seq idtag : Dbl) (rsvd : Nat) (b : RecordBody) (digest : BitVec 384)
    (g : Signature) : Dev × Bool :=
  let shape := decide (magic = magicRecord) && decide (format = 1) && decide (length ≤ objectMost) && decide (rsvd = 0)
  if shape && m.recordSigned g b && m.recordFresh seq idtag b && m.bodyOk b then (m.applyRecord seq b digest, true)
  else
    let m1 := if !isUnlock b || !m.recordSigned g b then m.objectRefused else m
    (if isUnlock b then m1.raise none (ev (.tst 2)) else m1, false)

/-- Check and take an object: the module after, and whether it was accepted. -/
def Dev.takeObject (m : Dev) (kind : Nat) : Option MgmtObject → Dev × Bool
  | some (.firmware magic format component svn digest g) =>
    if kind ≠ 1 then (m.objectRefused, false)
    else match m.takeFirmware magic format component svn digest g with
      | some n => (n, true)
      | none => (m.objectRefused, false)
  | some (.pack magic format cls slot patterns packId version slices length rsvd digest g) =>
    let ok := packFields magic format cls slot patterns slices length rsvd && !m.packOld packId version
    if kind = 2 && ok && m.byVendor g then
      ({ m with sec := { m.sec with packs := tset none m.sec.packs slot (some { packId := packId, cls := cls, version := version, slices := slices, digest := digest }) } }, true)
    else
      let m1 := m.raise none (ev (.saf 14))
      (if m.byVendor g then m1 else m1.objectRefused, false)
  | some (.record magic format length seq idtag rsvd b digest g) =>
    if kind ≠ 3 then (m.objectRefused, false) else m.takeRecord magic format length seq idtag rsvd b digest g
  | none => (if kind = 2 then m.raise none (ev (.saf 14)) else m.objectRefused, false)

/-! ### Transfers (R445) -/

/-- OBJ_BEGIN: kinds 1 to 3; the handle is the lowest that is free. -/
def execObjBegin (kind length : Nat) (s : State) : Res :=
  s.go fun m =>
    if !m.mgmtUp then m
    else match (List.range 256).find? (fun h => !m.board.xfers.any (fun x => decide (x.handle = h))) with
      | some h =>
        if 1 ≤ kind && kind ≤ 3 then
          let x : Xfer := { handle := h, kind := kind, length := length, bytes := [] }
          (({ m with board := { m.board with xfers := m.board.xfers ++ [x] } }).reply 0x10 0 0).emit (.mctpHandle h)
        else m.reply 0x10 1 0
      | none => m.reply 0x10 2 0

/-- OBJ_DATA: bytes within the length announced. -/
def execObjData (handle offset : Nat) (data : List Byte) (s : State) : Res :=
  s.go fun m =>
    if !m.mgmtUp then m
    else match m.board.xfers.find? (fun x => decide (x.handle = handle)) with
      | some x =>
        if offset + data.length ≤ x.length then
          let xs := m.board.xfers.map (fun y => if y.handle = handle then { y with bytes := mwriteBytes y.bytes offset data } else y)
          ({ m with board := { m.board with xfers := xs } }).reply 0x11 0 0
        else m.reply 0x11 1 0
      | none => m.reply 0x11 1 0

/-- OBJ_END: 0 accepted, 1 refused, 2 busy while no primary can check the object. `obj` is what the bytes spell, if anything. -/
def execObjEnd (handle : Nat) (obj : Option MgmtObject) (s : State) : Res :=
  s.go fun m =>
    if !m.mgmtUp then m
    else match m.board.xfers.find? (fun x => decide (x.handle = handle)) with
      | some x =>
        if m.map.primary.isNone then m.reply 0x12 2 0
        else
          let m1 := { m with board := { m.board with xfers := m.board.xfers.filter (fun y => decide (y.handle ≠ handle)) } }
          let r := m1.takeObject x.kind obj
          r.1.reply 0x12 (if r.2 then 0 else 1) 0
      | none => m.reply 0x12 1 0

/-- LOG_READ: the record with that SEQ, or the next one held; status 3 when none. -/
def execLogRead (seq : Dbl) (s : State) : Res :=
  s.go fun m =>
    if !m.mgmtUp then m
    else match m.flash.log.find? (fun r => decide (seq ≤ r.seq)) with
      | some r => (m.reply 0x20 0 0).emit (.mctpRec (some (derpolBytes m.sec.idtag r)))
      | none => (m.reply 0x20 3 0).emit (.mctpRec none)

/-- SET_DEST (R446). -/
def execSetDest (mac : BitVec 48) (s : State) : Res :=
  s.go fun m => if m.mgmtUp then ({ m with board := { m.board with mac := mac } }).reply 0x30 0 0 else m

end Sys2Proof.Machine
end

