-- ==== Sys2Proof/Machine/Registers.lean ====
section
/-! DEFINITION. Register commands: REGISTER_WRITE, unsupported accesses, the latching reads, and the test hooks' registers (R40, R270, R354,
R379, R454 to R460). -/

namespace Sys2Proof.Machine

/-- REGISTER_WRITE: by the host. Reserved offsets and RO registers take nothing. -/
def execRegisterWrite (off : BitVec 20) (v : Word) (s : State) : Res :=
  s.go fun m => if m.regsUp then (m.writeReg .host off.toNat v).getD m else m

/-- UNSUPPORTED_REGISTER_ACCESS (R457): an Unsupported Request, reported only through AER. -/
def execUnsupportedRegisterAccess (off : BitVec 20) (_bytes : Nat) (_isWrite : Bool) (s : State) : Res :=
  s.go fun m => if m.regsUp then ({ m with board := { m.board with aerUr := true } }).emit (.unsupportedRequest off.toNat) else m

/-- A host read of a register at a die's offset. -/
def Dev.hostRead (m : Dev) (off : Nat) : Dev := if m.regsUp then m.readReg .host off (.regValue off) else m

def execCalDcntLoRead (d : DieId) (s : State) : Res := s.go fun m => m.hostRead (d.val * 0x10000)
def execStepCountLoRead (d : DieId) (s : State) : Res := s.go fun m => m.hostRead (d.val * 0x10000 + 0x4304)
def execNormLoRead (d : DieId) (s : State) : Res := s.go fun m => m.hostRead (d.val * 0x10000 + 0x4324)
def execLastAgreeLoRead (s : State) : Res := s.go fun m => m.hostRead 0x83114
def execUeAddrLoRead (d : DieId) (s : State) : Res := s.go fun m => m.hostRead (d.val * 0x10000 + 0x5014)

/-! ### Test hooks (R454, R455) -/

def execUnlockCloseWrite (v : Word) (s : State) : Res := s.go fun m => if m.regsUp then m.unlockWrite v else m

/-- UNLOCK_EXPIRY: DURATION_S has elapsed on the primary's counter. -/
def execUnlockExpiry (s : State) : Res :=
  s.go fun m => match m.board.unlock with
    | some u => if u.durationS * 1000000000 ≤ (m.elapsed u.openedAt).toNat then m.closeUnlock else m
    | none => m

def execAckDelayWrite (d : DieId) (v : Word) (s : State) : Res := s.go fun m => m.tstWrite d tstAckDelay ackDelayFields v
def execStretchWrite (d : DieId) (v : Word) (s : State) : Res := s.go fun m => m.tstWrite d tstStretch stretchFields v
def execBackpressWrite (d : DieId) (v : Word) (s : State) : Res := s.go fun m => m.tstWrite d tstBackpress backpressFields v
def execPatternWrite (d : DieId) (v : Word) (s : State) : Res := s.go fun m => m.tstWrite d tstPattern patternFields v
def execStallGo (d : DieId) (v : Word) (s : State) : Res := s.go fun m => m.stallWrite d v

end Sys2Proof.Machine
end

