-- ==== Sys2Proof/Machine/Dispatch.lean ====
section
/-! DEFINITION. The dispatcher: one arm per command, each a direct call of its meaning. -/

namespace Sys2Proof.Machine

/-- What a command does to everything but the queue. -/
def exec (i : Instr) (s : State) : Host.Outcome State Fault Refusal :=
  match i with
  | .registerWrite off val => Sys2Proof.Machine.execRegisterWrite off val s
  | .unsupportedRegisterAccess off bytes isWrite => Sys2Proof.Machine.execUnsupportedRegisterAccess off bytes isWrite s
  | .calDcntLoRead die => Sys2Proof.Machine.execCalDcntLoRead die s
  | .stepCountLoRead die => Sys2Proof.Machine.execStepCountLoRead die s
  | .normLoRead die => Sys2Proof.Machine.execNormLoRead die s
  | .lastAgreeLoRead => Sys2Proof.Machine.execLastAgreeLoRead s
  | .ueAddrLoRead die => Sys2Proof.Machine.execUeAddrLoRead die s
  | .handshakeStall die cls index => Sys2Proof.Machine.execHandshakeStall die cls index s
  | .hs6RetryExpiry a b retryAcked probesAStalled probesBStalled => Sys2Proof.Machine.execHs6RetryExpiry a b retryAcked probesAStalled probesBStalled s
  | .rollbackResume pid => Sys2Proof.Machine.execRollbackResume pid s
  | .refclkLoss die => Sys2Proof.Machine.execRefclkLoss die s
  | .refclkReturn die => Sys2Proof.Machine.execRefclkReturn die s
  | .dcntCalibrationStart die => Sys2Proof.Machine.execDcntCalibrationStart die s
  | .dcntCalibrationEnd die trim => Sys2Proof.Machine.execDcntCalibrationEnd die trim s
  | .bridgeEccCorrected => Sys2Proof.Machine.execBridgeEccCorrected s
  | .bridgeEccUncorrectable sect => Sys2Proof.Machine.execBridgeEccUncorrectable sect s
  | .ovfClearAll die => Sys2Proof.Machine.execOvfClearAll die s
  | .ovfClearSel die => Sys2Proof.Machine.execOvfClearSel die s
  | .forceWarmup die => Sys2Proof.Machine.execForceWarmup die s
  | .doorbellSnoop set line => Sys2Proof.Machine.execDoorbellSnoop set line s
  | .descriptorAccept set desc => Sys2Proof.Machine.execDescriptorAccept set desc s
  | .preconditionCleared set => Sys2Proof.Machine.execPreconditionCleared set s
  | .nop set => Sys2Proof.Machine.execNop set s
  | .almanacLoad set obj => Sys2Proof.Machine.execAlmanacLoad set obj s
  | .almanacLoadComplete set => Sys2Proof.Machine.execAlmanacLoadComplete set s
  | .bufferBind set => Sys2Proof.Machine.execBufferBind set s
  | .weightLoad set obj => Sys2Proof.Machine.execWeightLoad set obj s
  | .leafProgram set => Sys2Proof.Machine.execLeafProgram set s
  | .step set inp => Sys2Proof.Machine.execStep set inp s
  | .forward set inp => Sys2Proof.Machine.execForward set inp s
  | .checkpointSave set written => Sys2Proof.Machine.execCheckpointSave set written s
  | .checkpointRestore set img => Sys2Proof.Machine.execCheckpointRestore set img s
  | .barrier set => Sys2Proof.Machine.execBarrier set s
  | .preempt set => Sys2Proof.Machine.execPreempt set s
  | .resume set => Sys2Proof.Machine.execResume set s
  | .preemptPointReached pid point => Sys2Proof.Machine.execPreemptPointReached pid point s
  | .preemptDrainComplete pid => Sys2Proof.Machine.execPreemptDrainComplete pid s
  | .completionWrite set => Sys2Proof.Machine.execCompletionWrite set s
  | .resultWindowRead addr => Sys2Proof.Machine.execResultWindowRead addr s
  | .resultWindowWrite addr => Sys2Proof.Machine.execResultWindowWrite addr s
  | .ringEnable val => Sys2Proof.Machine.execRingEnable val s
  | .ringDisable val => Sys2Proof.Machine.execRingDisable val s
  | .ringHaltClear => Sys2Proof.Machine.execRingHaltClear s
  | .ringBadClear => Sys2Proof.Machine.execRingBadClear s
  | .blockRowConversion pid die layer row block src => Sys2Proof.Machine.execBlockRowConversion pid die layer row block src s
  | .tilePass pid die tile leaf layer row groups samples => Sys2Proof.Machine.execTilePass pid die tile leaf layer row groups samples s
  | .cubeOperation die cube op => Sys2Proof.Machine.execCubeOperation die cube op s
  | .operandHalfFull die cube sideB half src => Sys2Proof.Machine.execOperandHalfFull die cube sideB half src s
  | .cubeOperationComplete out segments use => Sys2Proof.Machine.execCubeOperationComplete out segments use s
  | .wUnitOperation die unit pid op => Sys2Proof.Machine.execWUnitOperation die unit pid op s
  | .gather pid die gatherId table src dst => Sys2Proof.Machine.execGather pid die gatherId table src dst s
  | .unitParityError die isCube index => Sys2Proof.Machine.execUnitParityError die isCube index s
  | .stashPrefetch pid layer => Sys2Proof.Machine.execStashPrefetch pid layer s
  | .shadowComparison pid die layer row out => Sys2Proof.Machine.execShadowComparison pid die layer row out s
  | .stormReplayStart pid => Sys2Proof.Machine.execStormReplayStart pid s
  | .lossTotalCheck pid => Sys2Proof.Machine.execLossTotalCheck pid s
  | .bucketArm pid bucket => Sys2Proof.Machine.execBucketArm pid bucket s
  | .exchangeCompletePoint pid => Sys2Proof.Machine.execExchangeCompletePoint pid s
  | .commitDecision pid => Sys2Proof.Machine.execCommitDecision pid s
  | .commitPoint pid => Sys2Proof.Machine.execCommitPoint pid s
  | .almanacWindowOpen die tile reads => Sys2Proof.Machine.execAlmanacWindowOpen die tile reads s
  | .idleWindowOpen die tile reads => Sys2Proof.Machine.execIdleWindowOpen die tile reads s
  | .writeTrainComplete die tile work trains fails => Sys2Proof.Machine.execWriteTrainComplete die tile work trains fails s
  | .windowClose die tile => Sys2Proof.Machine.execWindowClose die tile s
  | .refreshDue die tile leaf => Sys2Proof.Machine.execRefreshDue die tile leaf s
  | .refreshOverdue die tile leaf => Sys2Proof.Machine.execRefreshOverdue die tile leaf s
  | .leafProgramComplete die tile leaf => Sys2Proof.Machine.execLeafProgramComplete die tile leaf s
  | .leafScrubComplete die tile leaf => Sys2Proof.Machine.execLeafScrubComplete die tile leaf s
  | .wrClearAll die => Sys2Proof.Machine.execWrClearAll die s
  | .wrClearSel die => Sys2Proof.Machine.execWrClearSel die s
  | .aniClearAll die => Sys2Proof.Machine.execAniClearAll die s
  | .aniClearSel die => Sys2Proof.Machine.execAniClearSel die s
  | .monitorRound die readings => Sys2Proof.Machine.execMonitorRound die readings s
  | .referenceComparison die refv10uV bandgap10uV vrefd10uV => Sys2Proof.Machine.execReferenceComparison die refv10uV bandgap10uV vrefd10uV s
  | .converterRotationComplete die tile conv zero pfs nfs supRd supCnv diode => Sys2Proof.Machine.execConverterRotationComplete die tile conv zero pfs nfs supRd supCnv diode s
  | .analogSupplyFault die => Sys2Proof.Machine.execAnalogSupplyFault die s
  | .analogSupplyRecovered die => Sys2Proof.Machine.execAnalogSupplyRecovered die s
  | .trackingIntervalEnd die tile leaf => Sys2Proof.Machine.execTrackingIntervalEnd die tile leaf s
  | .trackingValueReady die tile leaf => Sys2Proof.Machine.execTrackingValueReady die tile leaf s
  | .trackingAgeExpired die tile leaf => Sys2Proof.Machine.execTrackingAgeExpired die tile leaf s
  | .storeRecordWrite die kind tile leaf failures => Sys2Proof.Machine.execStoreRecordWrite die kind tile leaf failures s
  | .cnvDiagGo die val => Sys2Proof.Machine.execCnvDiagGo die val s
  | .cnvDiagDone die codes => Sys2Proof.Machine.execCnvDiagDone die codes s
  | .cnvClipClear die => Sys2Proof.Machine.execCnvClipClear die s
  | .mceClearAll die => Sys2Proof.Machine.execMceClearAll die s
  | .mceClearSel die => Sys2Proof.Machine.execMceClearSel die s
  | .stepCntClearAll die => Sys2Proof.Machine.execStepCntClearAll die s
  | .stepCntClearSel die => Sys2Proof.Machine.execStepCntClearSel die s
  | .smpCfgWrite die val => Sys2Proof.Machine.execSmpCfgWrite die val s
  | .smpClearAll die => Sys2Proof.Machine.execSmpClearAll die s
  | .smpClearSel die => Sys2Proof.Machine.execSmpClearSel die s
  | .laneFail die port lane => Sys2Proof.Machine.execLaneFail die port lane s
  | .laneFailoverComplete die port => Sys2Proof.Machine.execLaneFailoverComplete die port s
  | .flitReceive die port flit => Sys2Proof.Machine.execFlitReceive die port flit s
  | .linkFlitReceive die port msg => Sys2Proof.Machine.execLinkFlitReceive die port msg s
  | .ackTimer die port => Sys2Proof.Machine.execAckTimer die port s
  | .reduceFrame die port frame => Sys2Proof.Machine.execReduceFrame die port frame s
  | .gatherFrame die port frame => Sys2Proof.Machine.execGatherFrame die port frame s
  | .closeReduceFrame die port frame => Sys2Proof.Machine.execCloseReduceFrame die port frame s
  | .closeGatherFrame die port frame => Sys2Proof.Machine.execCloseGatherFrame die port frame s
  | .transferFrame die port frame => Sys2Proof.Machine.execTransferFrame die port frame s
  | .markFrame die port frame => Sys2Proof.Machine.execMarkFrame die port frame s
  | .digestFrame die port frame => Sys2Proof.Machine.execDigestFrame die port frame s
  | .resendFrame die port frame => Sys2Proof.Machine.execResendFrame die port frame s
  | .extendFrame die port frame => Sys2Proof.Machine.execExtendFrame die port frame s
  | .frameDeadlineExpiry pid die port kind bucket chunk => Sys2Proof.Machine.execFrameDeadlineExpiry pid die port kind bucket chunk s
  | .digestWaitExpiry pid => Sys2Proof.Machine.execDigestWaitExpiry pid s
  | .digestCfgWrite die val => Sys2Proof.Machine.execDigestCfgWrite die val s
  | .portEnable die val => Sys2Proof.Machine.execPortEnable die val s
  | .cdmClearAll die => Sys2Proof.Machine.execCdmClearAll die s
  | .cdmClearSel die => Sys2Proof.Machine.execCdmClearSel die s
  | .linkKeyInstall die port peerNonce => Sys2Proof.Machine.execLinkKeyInstall die port peerNonce s
  | .stackCorrectedError die onDie => Sys2Proof.Machine.execStackCorrectedError die onDie s
  | .stackUncorrectable die pid region addr => Sys2Proof.Machine.execStackUncorrectable die pid region addr s
  | .patrolRead die pid addr corrected ue => Sys2Proof.Machine.execPatrolRead die pid addr corrected ue s
  | .stackFailure die => Sys2Proof.Machine.execStackFailure die s
  | .stackTempRead die temp16 flag => Sys2Proof.Machine.execStackTempRead die temp16 flag s
  | .pageRetire die val => Sys2Proof.Machine.execPageRetire die val s
  | .pageRetireApply die => Sys2Proof.Machine.execPageRetireApply die s
  | .retireClearTable die => Sys2Proof.Machine.execRetireClearTable die s
  | .marginRun die val => Sys2Proof.Machine.execMarginRun die val s
  | .marginRunDone die errors => Sys2Proof.Machine.execMarginRunDone die errors s
  | .stkClearAll die => Sys2Proof.Machine.execStkClearAll die s
  | .stkClearSel die => Sys2Proof.Machine.execStkClearSel die s
  | .farTierError pid duringSave => Sys2Proof.Machine.execFarTierError pid duringSave s
  | .testSliceStart die cls index => Sys2Proof.Machine.execTestSliceStart die cls index s
  | .testSliceComplete die cls passed pattern source => Sys2Proof.Machine.execTestSliceComplete die cls passed pattern source s
  | .eventLogEntry die => Sys2Proof.Machine.execEventLogEntry die s
  | .derpolRecordSend count => Sys2Proof.Machine.execDerpolRecordSend count s
  | .xchkClear => Sys2Proof.Machine.execXchkClear s
  | .alertClear => Sys2Proof.Machine.execAlertClear s
  | .bindRequest src => Sys2Proof.Machine.execBindRequest src s
  | .bindApply r => Sys2Proof.Machine.execBindApply r s
  | .resourceReady r => Sys2Proof.Machine.execResourceReady r s
  | .partSetWrite val => Sys2Proof.Machine.execPartSetWrite val s
  | .measurementRound meas => Sys2Proof.Machine.execMeasurementRound meas s
  | .saffronWatchdogExpiry die => Sys2Proof.Machine.execSaffronWatchdogExpiry die s
  | .partialResetDone die inMajority => Sys2Proof.Machine.execPartialResetDone die inMajority s
  | .getVersion path => Sys2Proof.Machine.execGetVersion path s
  | .getCapabilities path => Sys2Proof.Machine.execGetCapabilities path s
  | .negotiateAlgorithms path supported => Sys2Proof.Machine.execNegotiateAlgorithms path supported s
  | .getDigests path => Sys2Proof.Machine.execGetDigests path s
  | .getCertificate path slot offset length => Sys2Proof.Machine.execGetCertificate path slot offset length s
  | .challenge path nonce => Sys2Proof.Machine.execChallenge path nonce s
  | .getMeasurements path index nonce => Sys2Proof.Machine.execGetMeasurements path index nonce s
  | .keyExchange path => Sys2Proof.Machine.execKeyExchange path s
  | .finish path session verified => Sys2Proof.Machine.execFinish path session verified s
  | .endSession path session => Sys2Proof.Machine.execEndSession path session s
  | .heartbeat path session => Sys2Proof.Machine.execHeartbeat path session s
  | .keyUpdate path session => Sys2Proof.Machine.execKeyUpdate path session s
  | .chunkGet path handle seqNo => Sys2Proof.Machine.execChunkGet path handle seqNo s
  | .getSlhSignature path => Sys2Proof.Machine.execGetSlhSignature path s
  | .respondIfReady path => Sys2Proof.Machine.execRespondIfReady path s
  | .ideKeyProgram session kind stream refresh => Sys2Proof.Machine.execIdeKeyProgram session kind stream refresh s
  | .regRead off => Sys2Proof.Machine.execRegRead off s
  | .regWrite off val => Sys2Proof.Machine.execRegWrite off val s
  | .objBegin kind length => Sys2Proof.Machine.execObjBegin kind length s
  | .objData handle offset data => Sys2Proof.Machine.execObjData handle offset data s
  | .objEnd handle obj => Sys2Proof.Machine.execObjEnd handle obj s
  | .logRead seq => Sys2Proof.Machine.execLogRead seq s
  | .setDest mac => Sys2Proof.Machine.execSetDest mac s
  | .powerRequestRun src => Sys2Proof.Machine.execPowerRequestRun src s
  | .powerRequestVigil src => Sys2Proof.Machine.execPowerRequestVigil src s
  | .powerRequestRepose src => Sys2Proof.Machine.execPowerRequestRepose src s
  | .powerRequestOff src => Sys2Proof.Machine.execPowerRequestOff src s
  | .powerDeferRetry sinceFirst100us => Sys2Proof.Machine.execPowerDeferRetry sinceFirst100us s
  | .powerStateReached => Sys2Proof.Machine.execPowerStateReached s
  | .autoVigilExpiry => Sys2Proof.Machine.execAutoVigilExpiry s
  | .idleTimerExpiry => Sys2Proof.Machine.execIdleTimerExpiry s
  | .vigilWake die readings refv10uV bandgap10uV vrefd10uV => Sys2Proof.Machine.execVigilWake die readings refv10uV bandgap10uV vrefd10uV s
  | .vigilSleep die => Sys2Proof.Machine.execVigilSleep die s
  | .plWrite val => Sys2Proof.Machine.execPlWrite val s
  | .powerSample watts vin100mV => Sys2Proof.Machine.execPowerSample watts vin100mV s
  | .capCheck => Sys2Proof.Machine.execCapCheck s
  | .capRaiseCheck => Sys2Proof.Machine.execCapRaiseCheck s
  | .thermalCapFall die => Sys2Proof.Machine.execThermalCapFall die s
  | .thermalCapRise die => Sys2Proof.Machine.execThermalCapRise die s
  | .overtempRecovered die => Sys2Proof.Machine.execOvertempRecovered die s
  | .thermalTrip115 die => Sys2Proof.Machine.execThermalTrip115 die s
  | .pwrClearAll => Sys2Proof.Machine.execPwrClearAll s
  | .pwrClearSel => Sys2Proof.Machine.execPwrClearSel s
  | .j1OutOfRange mV => Sys2Proof.Machine.execJ1OutOfRange mV s
  | .powerOnStart testEn => Sys2Proof.Machine.execPowerOnStart testEn s
  | .pwrEnLow => Sys2Proof.Machine.execPwrEnLow s
  | .modRstNAssert testEn => Sys2Proof.Machine.execModRstNAssert testEn s
  | .safResetModule val testEn => Sys2Proof.Machine.execSafResetModule val testEn s
  | .safResetPartial val => Sys2Proof.Machine.execSafResetPartial val s
  | .hostLinkReset kind => Sys2Proof.Machine.execHostLinkReset kind s
  | .cxlHalf0Timeout => Sys2Proof.Machine.execCxlHalf0Timeout s
  | .cxlLinkUp => Sys2Proof.Machine.execCxlLinkUp s
  | .cxlConfigRequest tag cache => Sys2Proof.Machine.execCxlConfigRequest tag cache s
  | .warmupEnd die reached0C => Sys2Proof.Machine.execWarmupEnd die reached0C s
  | .refclkWaitTimeout die => Sys2Proof.Machine.execRefclkWaitTimeout die s
  | .startupTestDone passed stackTrained unitsPassed => Sys2Proof.Machine.execStartupTestDone passed stackTrained unitsPassed s
  | .cxlReady => Sys2Proof.Machine.execCxlReady s
  | .storeReady die errors => Sys2Proof.Machine.execStoreReady die errors s
  | .jobReady => Sys2Proof.Machine.execJobReady s
  | .unlockCloseWrite val => Sys2Proof.Machine.execUnlockCloseWrite val s
  | .unlockExpiry => Sys2Proof.Machine.execUnlockExpiry s
  | .ackDelayWrite die val => Sys2Proof.Machine.execAckDelayWrite die val s
  | .stretchWrite die val => Sys2Proof.Machine.execStretchWrite die val s
  | .backpressWrite die val => Sys2Proof.Machine.execBackpressWrite die val s
  | .patternWrite die val => Sys2Proof.Machine.execPatternWrite die val s
  | .stallGo die val => Sys2Proof.Machine.execStallGo die val s
  | .bypass => Sys2Proof.Machine.execBypass s
  | .idcode => Sys2Proof.Machine.execIdcode s
  | .samplePreload capture preload => Sys2Proof.Machine.execSamplePreload capture preload s
  | .extest => Sys2Proof.Machine.execExtest s
  | .clamp => Sys2Proof.Machine.execClamp s
  | .highz => Sys2Proof.Machine.execHighz s
  | .privateInstruction code => Sys2Proof.Machine.execPrivateInstruction code s
  | .segmentDeadlineExpiry pid die segment => Sys2Proof.Machine.execSegmentDeadlineExpiry pid die segment s
  | .perstRelease => Sys2Proof.Machine.execPerstRelease s
  | .railsGood die found => Sys2Proof.Machine.execRailsGood die found s
  | .portLinkUp die port peerDie peerPort peerIndex => Sys2Proof.Machine.execPortLinkUp die port peerDie peerPort peerIndex s
  | .portRetraining die port => Sys2Proof.Machine.execPortRetraining die port s
  | .standbyPowerLoss => Sys2Proof.Machine.execStandbyPowerLoss s
  | .standbyPowerGood => Sys2Proof.Machine.execStandbyPowerGood s

end Sys2Proof.Machine
end

