-- ==== Sys2Proof/Machine/Layout.lean ====
section
/-! DEFINITION. How objects lie byte by byte: the almanac container and its sections (R273 to R286, R320 to R324, R342), the heads of weight
packages (R400), checkpoint images (R350) and configuration records (R397), and frames and flits (R312, R315, R327, R334), all little-endian.
What is wrapped, encrypted or signed is given by its bytes (log entry 7); sections without a layout in the spec have none here (log entry
123). -/

namespace Sys2Proof.Machine

/-! ### The container's header and directory (R273, R274) -/

def headerBytes (a : Container) : List Byte :=
  leBytes a.magic 8 ++ leNat a.format 2 ++ leNat a.rsvd0 2 ++ leNat a.hdrLen 4 ++ leNat a.totalLen 8 ++ leNat a.dir.length 4
    ++ [a.baseSet, a.lossSet] ++ leBytes a.digitalSet 2 ++ leNat a.layers 2 ++ leNat a.rsvd1 2 ++ leNat a.shareMax 4
    ++ leBytes a.almanacId 16 ++ leBytes a.toolVersion 8 ++ leNat a.rsvd2 192

def dirBytes (e : DirEntry) : List Byte :=
  leNat e.typ 2 ++ leNat e.variant 1 ++ leNat e.die 1 ++ leNat e.rsvd0 4 ++ leNat e.offset 8 ++ leNat e.length 8 ++ leNat e.count 4
    ++ leNat e.rsvd1 4

/-! ### Sections -/

/-- The job header (R276); `wrapped` is J wrapped under SK, 40 bytes (R399). -/
def jobBytes (j : JobHeader) (wrapped : List Byte) : List Byte :=
  leNat j.accN 1 ++ leNat j.fbBudget 1 ++ leNat j.fbClean 2 ++ leNat j.stormClean 2 ++ leNat j.smpShift 1 ++ leNat j.prefetchLead 1
    ++ leBytes j.clipNorm 4 ++ leBytes j.lscale 4 ++ leBytes j.policy 4 ++ leNat j.devices 2 ++ leNat j.deviceIndex 2 ++ leNat j.preemptGap 4
    ++ leNat j.rsvd 4 ++ leBytes j.wrapSet 8 ++ wrapped ++ leNat j.wrapRsvd 16

/-- A layer entry (R277). -/
def layerBytes (e : LayerEntry) : List Byte :=
  leBytes e.slice 2 ++ leBytes e.flags 2 ++ leBytes e.rep 4 ++ leNat e.t 1 ++ leNat e.width 1 ++ leNat e.epactCap 1 ++ leNat e.aniseSlots 1
    ++ leNat e.promotePermille 2 ++ leNat e.fbLimit 1 ++ [BitVec.ofInt 8 e.u] ++ leNat e.firstTensor 2 ++ leNat e.tensors 1 ++ leNat e.rsvd 13

/-- A tensor entry (R278). -/
def tensorBytes (e : TensorEntry) : List Byte :=
  leNat e.layer 2 ++ leNat e.cls 1 ++ [e.flags] ++ leNat e.margin 1 ++ leNat e.site 1 ++ leNat e.drop16 2 ++ leBytes e.coldStart 4
    ++ leNat e.rsvd 4

/-- The STASH section (R342). -/
def stashBytes (s : StashPlan) : List Byte :=
  leNat s.tensors.length 4 ++ leNat s.regions.length 4 ++ leNat s.tier1 8 ++ leNat s.tier3 8 ++ leNat s.rsvd 8
    ++ s.tensors.flatMap (fun e => leNat e.tensor 2 ++ leNat e.rsvd 2 ++ leNat e.bytesPerToken 4)
    ++ s.regions.flatMap (fun r => leNat r.variant 1 ++ leNat r.die 1 ++ leNat r.kind 1 ++ leNat r.partner 1 ++ leNat r.base 2 ++ leNat r.size 2
        ++ leNat r.rsvd 8)

/-- A port as R320 names it: bit 7 valid, bits 6:4 die, bits 1:0 port. -/
def portByte (p : PortRef) : Byte := BitVec.ofNat 8 (p.valid.toNat * 128 + p.die.val * 16 + p.port.val)

/-- The RING_ORDER section (R320). -/
def ringBytes (r : RingOrder) : List Byte :=
  leNat r.rings.length 2 ++ leNat r.slots.length 2 ++ leNat r.closing 2 ++ leNat 0 10
    ++ r.rings.flatMap (fun g => leNat g.ring 2 ++ leNat g.n 2 ++ leNat g.pos 2 ++ [portByte g.inp, portByte g.out, portByte g.altIn, portByte g.altOut]
        ++ leNat g.pred 2 ++ leNat g.succ 2 ++ leNat 0 2 ++ leNat g.firstBucket 4 ++ leNat g.buckets 4 ++ leNat g.closing.toNat 4 ++ leNat g.rsvd 4)
    ++ r.buckets.flatMap (fun b => leNat b.bucket 4 ++ leNat b.ring 2 ++ leNat b.rsvd 2 ++ leNat b.elems 4 ++ leNat b.source 4)
    ++ r.slots.flatMap (fun s => leNat s.slot 2 ++ leNat s.contributor 2 ++ leNat s.mirror 2 ++ leNat s.rsvd 2)

/-- Entries of MIRROR (R324), DEADLINE (R322), PREEMPT (R283) and GATHER (R286). -/
def mirrorBytes (e : MirrorEntry) : List Byte :=
  leNat e.period 2 ++ leNat e.phase 2 ++ leNat e.primary 2 ++ leNat e.mirror 2 ++ leNat e.ring 2 ++ [portByte e.port] ++ leNat e.role 1
    ++ leNat e.rsvd 4
def deadlineBytes (e : DeadlineEntry) : List Byte := leNat e.kind 1 ++ leNat e.rsvd 3 ++ leNat e.index 4 ++ leNat e.durationNs 8
def preemptBytes (e : PreemptEntry) : List Byte := leNat e.point 4 ++ leNat e.segment 4 ++ leNat e.drainNs 4 ++ leNat e.rsvd 4
def gatherBytes (e : GatherEntry) : List Byte :=
  leNat e.gatherId 2 ++ leNat e.layer 2 ++ leNat e.capacity 4 ++ leNat e.rowBytes 2 ++ leNat e.source 2 ++ leNat e.rsvd 4

/-- The signature section (R279); `rsa` and `slh` are the signatures, 384 and 16,224 bytes. -/
def sigBytes (g : Signature) (rsa slh : List Byte) : List Byte := leBytes g.rsaKeyId 8 ++ leBytes g.slhKeyId 8 ++ rsa ++ slh

/-- The section that a directory entry describes, up to its padding; `none` where the spec gives no layout. -/
def sectionBytes (a : Container) (wrapped rsa slh : List Byte) (e : DirEntry) : Option (List Byte) :=
  match e.typ with
  | 0x01 => some (jobBytes a.job wrapped)
  | 0x02 => some (a.layerTab.flatMap layerBytes ++ a.tensorTab.flatMap tensorBytes)
  | 0x05 => some (stashBytes a.stash)
  | 0x06 => (a.ringOrders.find? (fun r => r.variant = e.variant)).map ringBytes
  | 0x07 => some ((a.mirrors.filter (fun r => r.variant = e.variant)).flatMap mirrorBytes)
  | 0x08 => some ((a.deadlines.filter (fun r => r.variant = e.variant)).flatMap deadlineBytes)
  | 0x09 => some ((a.preempts.filter (fun r => r.variant = e.variant)).flatMap preemptBytes)
  | 0x0A => some (a.gathers.flatMap gatherBytes)
  | 0xFF => some (sigBytes a.sig rsa slh)
  | _ => none

/-! ### Packages, images, records -/

/-- A weight package's header (R400); `ck` is CK wrapped under SK, 40 bytes. -/
def packageHead (w : WPackage) (ck : List Byte) : List Byte :=
  leBytes w.magic 8 ++ leNat w.format 2 ++ leNat w.rsvd 2 ++ leNat w.sections.length 4 ++ leNat w.length 8 ++ leBytes w.setId 8
    ++ leBytes w.almanacId 16 ++ ck ++ leNat 0 168

/-- An entry of its directory. -/
def packageDir (s : PkgSection) (offset length : Nat) : List Byte :=
  leNat s.layer 2 ++ leNat s.kind 1 ++ leNat s.die 1 ++ leNat 0 4 ++ leNat offset 8 ++ leNat length 8 ++ leNat 0 8

/-- A checkpoint image's header (R350), with its count of sections, its length and the digest over directory and sections. -/
def imageHead (i : Image) (sections length : Nat) (digest : List Byte) : List Byte :=
  leBytes i.magic 8 ++ leNat i.format 2 ++ leBytes i.valid 2 ++ leNat sections 4 ++ leNat length 8 ++ leBytes i.step 8 ++ leBytes i.almanacId 16
    ++ [i.baseSet] ++ leNat 0 15 ++ digest ++ leNat 0 144

/-- An entry of its directory. -/
def imageDir (typ die offset length : Nat) : List Byte :=
  leNat typ 2 ++ leNat die 1 ++ leNat 0 5 ++ leNat offset 8 ++ leNat length 8 ++ leNat 0 8

/-- A configuration record's header (R397). -/
def recordHead (magic : Dbl) (format typ length : Nat) (seq idtag : Dbl) (rsvd : Nat) : List Byte :=
  leBytes magic 8 ++ leNat format 2 ++ leNat typ 2 ++ leNat length 4 ++ leBytes seq 8 ++ idtagBytes idtag ++ leNat rsvd 32

/-! ### Frames and flits -/

/-- The header of a frame, its additional authenticated data (R315, R319). -/
def frameHead (f : Frame) : List Byte :=
  leNat f.kind 1 ++ leNat f.mark 1 ++ leNat f.mirror.toNat 1 ++ leNat f.partition.val 1 ++ leNat f.ring 2 ++ leNat f.sender 2 ++ leNat f.bucket 4
    ++ leNat f.chunk 2 ++ leNat f.attempt 2 ++ leBytes f.step 8 ++ leNat f.offset 4 ++ leNat f.elems.length 2 ++ leNat f.senderPort 1 ++ leNat 0 1
    ++ leBytes f.ctr 8 ++ leNat 0 8

/-- An entry of a DIGEST frame (R334). -/
def digestEntryBytes (e : DigestEntry) : List Byte :=
  leNat e.device 2 ++ leNat e.d 1 ++ leNat 0 5 ++ leBytes e.step 8 ++ leBytes e.digest 16

/-- The data of a frame before encryption (R315, R327, R334). -/
def frameData (f : Frame) : List Byte :=
  f.elems.flatMap (fun w => leBytes w 4) ++ f.slots.flatMap (fun s => leBytes s.1 8 ++ leBytes s.2 8) ++ f.maxima.flatMap (fun w => leBytes w 4)
    ++ f.entries.flatMap digestEntryBytes ++ f.bytes

/-- The trailer: POISON and CAUSE (R315). -/
def frameTrailer (f : Frame) : List Byte := leNat (f.poison.toNat * 2 ^ 63 + f.cause * 2 ^ 60) 8

/-- The IV of a frame's encryption (R319): SENDER, SENDER_PORT, PARTITION, FRAME_CTR. -/
def frameIv (f : Frame) : List Byte := leNat f.sender 2 ++ leNat f.senderPort 1 ++ leNat f.partition.val 1 ++ leBytes f.ctr 8

/-- A flit's header (R312). -/
def flitHead (vc : Nat) (first last : Bool) (seq : BitVec 12) (creditVc credits : Nat) : Word :=
  BitVec.ofNat 32 (vc * 2 ^ 30 + first.toNat * 2 ^ 29 + last.toNat * 2 ^ 28 + seq.toNat * 2 ^ 16 + creditVc * 2 ^ 14 + credits)

/-- The 256 bytes of a flit (R312). -/
def flitBytes (head : Word) (payload : List Byte) : List Byte :=
  let bs := leBytes head 4 ++ payload ++ List.replicate (248 - payload.length) 0#8
  bs ++ leBytes (crc32c bs) 4

/-- The header of a flit that this device sends. -/
def TxFlit.head (f : TxFlit) : Word :=
  flitHead (frameVc f.frame) (decide (f.index = 0)) (decide (f.index + 1 = f.count)) f.seq 0 0

end Sys2Proof.Machine
end

