-- ==== Sys2Proof/Safety.lean ====
section
/-! DEFINITION. What counts as a safe run of the block, and the terms the statements use for what a command leaves alone. -/

namespace Sys2Proof.Machine

/-- The step answers a next state. -/
def StepSafe (s : State) : Prop := ∃ t, step s = .next t

/-- The state with another module, and the queue as it was. -/
def State.withDev (s : State) (n : Dev) : State := { s with dev := n }

/-- The module differs from `m` in nothing but one die, one partition or one ring set. -/
def OnlyDie (d : DieId) (m n : Dev) : Prop := n = m.modDie d (fun _ => n.die d)
def OnlyPart (p : Pid) (m n : Dev) : Prop := n = m.modPart p (fun _ => n.part p)
def OnlyRing (k : SetId) (m n : Dev) : Prop := n = m.modRing k (fun _ => n.ring k)

/-- An event was raised and nothing else happened: die buffers or the module's own list, the alert's severity-3 mark, and, where a
power-state entry was under way, its abort. -/
def OnlyEvents (m n : Dev) : Prop :=
  n = { m with dies := n.dies, board := { m.board with sev3 := n.board.sev3 }, evMod := n.evMod, power := n.power }
    ∧ ∀ d, n.die d = { m.die d with evBuf := (n.die d).evBuf, evLost := (n.die d).evLost }

/-- What a fault of the rollback class leaves of a partition (R356, R363): one with no job is untouched; a job running undisturbed is
interrupted, its step discarded and its committed values kept; one already in an interruption by a fault stops (R359). -/
def Struck (action : Nat) (x y : Part) : Prop :=
  (x.hasJob = false → y = x)
  ∧ (x.hasJob = true → x.intr = none → y.run = none ∧ y.st = x.st ∧ y.epoch = x.epoch ∧ y.variant = x.variant ∧ y.almanac = x.almanac
    ∧ y.com = { x.com with lastDis := y.com.lastDis }
    ∧ ∃ i, y.intr = some i ∧ i.action = action ∧ i.storm = false ∧ i.variant = none ∧ i.digital = none)
  ∧ (x.hasJob = true → x.intr.any (fun i => !i.storm) = true → y.st = .stopped ∧ y.run = none ∧ y.intr = none ∧ y.com = x.com)

/-- Partition `p` and no other may differ, and its masters, optimiser state, step count and epoch do not. -/
def KeepsCommitted (p : Pid) (m n : Dev) : Prop :=
  (∀ q ≠ p, n.part q = m.part q) ∧ (n.part p).com.masters = (m.part p).com.masters ∧ (n.part p).com.opt = (m.part p).com.opt
    ∧ (n.part p).com.steps = (m.part p).com.steps

/-- Stage SRAM holds these bytes from an address on, and agrees with another state's outside `n` bytes there. -/
def SramHolds (x : Die) (addr : Nat) (bs : List Byte) : Prop := ∀ i, i < bs.length → mread x.sram (addr + i) = bs.getD i 0
def SramElsewhere (x y : Die) (addr n : Nat) : Prop := ∀ b, b < addr ∨ addr + n ≤ b → mread y.sram b = mread x.sram b

/-- A tensor entry's write finds room in the stash: it needs none, has it already, or a planned tier takes it (R247, R248). -/
def StashFits (a : Container) (v d : Nat) (r : StepRun) (i : Nat) : Prop :=
  ∀ bytes, stashNeed a r.tokens i = some bytes → r.isForward = true ∨ tget 0 r.stashed i ≠ 0 ∨ (stashTier a v d bytes r).isSome = true

/-- The status of a descriptor at its completion point; 0xFF, which is no status, before it. -/
def Held.statusOf (h : Held) : Nat := match h.st with
  | .done st _ _ _ _ => st
  | _ => 0xFF

/-- A counter name within the ranges that its table gives it. -/
def CntKey.inRange : CntKey → Bool
  | .ovf _ l c k => decide (l < 4096) && decide (c < 6) && decide (k < 3)
  | .ani _ l k => decide (l < 4096) && decide (k < 3)
  | .wr _ l k => decide (l < 4096) && decide (k < 4)
  | .mce k => decide (k < 3)
  | .stepc _ k => decide (k < 7)
  | .smp _ l k => decide (l < 4096) && decide (k < 3)
  | .cdm _ k => decide (k < 10)
  | .stk k => decide (k < 8)
  | .clip => true

/-- A power-state request of a copy ends refused (R422, R425, R427): RESULT 1, the refuser named and counted, and an event. -/
def PowerRefused (w : Power) (src : Option Source) (target blk : Nat) (m n : Dev) : Prop :=
  OnlyEvents { m with power := n.power } n ∧ n.power = { w.setResult src 1 with req := none, lastRefuser := blk, refusals := n.power.refusals }
    ∧ ∀ k, tget 0 n.power.refusals k = if k = target * 16 + blk then satAdd32 (tget 0 m.power.refusals k) 1 else tget 0 m.power.refusals k

/-- Every rail but standby is removed (R413, R438): the module is in Off, what its dies, partitions, ring sets and bridge held is gone, and module
flash with the records it holds is kept. -/
def RailsRemoved (cause : Nat) (m n : Dev) : Prop :=
  n.power = Power.reset ∧ (∀ d, n.die d = Die.reset) ∧ (∀ p, n.part p = Part.reset) ∧ (∀ k, n.ring k = RingSet.reset) ∧ n.binds = BindCtl.reset
    ∧ n.map.primary = none ∧ n.regs = [] ∧ n.flash = m.flash ∧ n.board.lastOff = cause ∧ n.board.stage = 0 ∧ n.board.linkUp = false
    ∧ n.sec = { Security.reset with
        idtag := m.sec.idtag, owner := m.sec.owner, svendor := m.sec.svendor, svnMin := m.sec.svnMin, seqAcc := m.sec.seqAcc, setSeq := m.sec.setSeq,
        devsets := m.sec.devsets, bindSrc := m.sec.bindSrc, pending := m.sec.pending, running := m.sec.running, packs := m.sec.packs,
        recDigests := m.sec.recDigests }

/-- A register's value with each of its fields in the field's range and every reserved bit as at reset. -/
def RegInRange (fs : List FieldRule) (w : Word) (reset : Word) : Prop :=
  (∀ f ∈ fs, f.least ≤ bits w f.hi f.lo ∧ bits w f.hi f.lo ≤ f.most) ∧ ∀ i < 32, (∀ f ∈ fs, i < f.lo ∨ f.hi < i) → w.getLsbD i = reset.getLsbD i

/-- Every set-up register that only holds its fields does so (R456). -/
def SetUpInRange (m : Dev) : Prop :=
  (∀ d, ∀ e ∈ dieFields, RegInRange e.2 ((m.die d).reg e.1) e.1.reset) ∧ ∀ e ∈ modFields, RegInRange e.2 (m.reg e.1) e.1.reset

/-- Every byte memory of the module is in its one canonical form: stage SRAM, stack memory, the save areas, transfers in progress. -/
def MemoriesCanonical (m : Dev) : Prop :=
  (∀ d, Memory.wf (m.die d).sram = true ∧ twf none (m.die d).stack.mem = true ∧ ∀ x, (m.die d).stack.save = some x → Memory.wf x = true)
    ∧ ∀ x ∈ m.board.xfers, Memory.wf x.bytes = true

/-- The commands under which a partition's committed weights, optimiser state and step count may change: the commit point and the host-link reset, which
lets a decided commit finish; loads and restores; those that bring a partition into being or end it; those that reset the module. -/
def changesCommitted : Instr → Bool
  | .commitPoint _ | .hostLinkReset _ | .almanacLoadComplete _ | .weightLoad _ _ | .checkpointRestore _ _ | .bindRequest _ | .bindApply _ | .jobReady
  | .registerWrite _ _ | .regWrite _ _ | .safResetModule _ _ | .modRstNAssert _ | .pwrEnLow | .standbyPowerLoss | .j1OutOfRange _ | .powerStateReached
  | .thermalTrip115 _ => true
  | _ => false

/-- The path of an SPDM request that a primary answers (R404). -/
def requestPath : Instr → Option SpdmPath
  | .getVersion p | .getCapabilities p | .negotiateAlgorithms p _ | .getDigests p | .getCertificate p _ _ _ | .challenge p _ | .getMeasurements p _ _
  | .keyExchange p | .finish p _ _ | .endSession p _ | .heartbeat p _ | .keyUpdate p _ | .chunkGet p _ _ | .getSlhSignature p => some p
  | _ => none

/-- The registers of a die: offset in the die's blocks and reset value, as the spec's tables give them. -/
def dieRegisters : List (Nat × Nat) :=
  [(0x0, 0x0), (0x4, 0x0), (0x8, 0x1), (0xC, 0x0), (0x100, 0xA0004), (0x104, 0x0),
   (0x108, 0x0), (0x110, 0x0), (0x114, 0x0), (0x118, 0x0), (0x120, 0x0), (0x1000, 0x0),
   (0x1004, 0x0), (0x1008, 0x1FFF), (0x100C, 0x0), (0x1010, 0x1008)] ++
  [(0x1020, 0x0), (0x1024, 0x0), (0x1028, 0x0), (0x1030, 0x0), (0x1040, 0x0), (0x1044, 0x0),
   (0x1048, 0x0), (0x104C, 0x0), (0x1050, 0x0), (0x1054, 0x40003E8), (0x2000, 0x0), (0x2004, 0x40000000),
   (0x2008, 0x0), (0x2010, 0x0), (0x2014, 0x0), (0x2018, 0x0)] ++
  [(0x201C, 0x0), (0x3000, 0x0), (0x3004, 0x0), (0x3008, 0x0), (0x300C, 0x0), (0x3010, 0x0),
   (0x3014, 0x0), (0x3018, 0x0), (0x3100, 0x808), (0x3104, 0x0), (0x3108, 0x0), (0x310C, 0x0),
   (0x3110, 0x0), (0x3114, 0x0), (0x4000, 0x0), (0x4004, 0x0)] ++
  [(0x4008, 0x0), (0x400C, 0x0), (0x4010, 0x0), (0x4014, 0x0), (0x4200, 0x0), (0x4204, 0x0),
   (0x4208, 0x0), (0x420C, 0x0), (0x4210, 0x0), (0x42FC, 0x0), (0x4300, 0x0), (0x4304, 0x0),
   (0x4308, 0x0), (0x4310, 0x0), (0x4318, 0x0), (0x431C, 0x0)] ++
  [(0x4320, 0x0), (0x4324, 0x0), (0x4328, 0x0), (0x432C, 0x3F800000), (0x5000, 0x40185A), (0x5004, 0x0),
   (0x5008, 0x0), (0x500C, 0x0), (0x5010, 0x0), (0x5014, 0x0), (0x5018, 0x0), (0x501C, 0x0),
   (0x5020, 0x0), (0x5024, 0x40000000), (0x5028, 0x40000000), (0x502C, 0x0)] ++
  [(0x6000, 0x0), (0x6004, 0x0), (0x6008, 0x0), (0x600C, 0x0), (0x6010, 0x10), (0x6014, 0x0),
   (0x6018, 0x0), (0x601C, 0x0), (0x6020, 0x0), (0x6024, 0x3E80004), (0x6028, 0x0), (0x7104, 0x0),
   (0x7108, 0x0), (0x8000, 0x0), (0x8004, 0x0), (0x8008, 0x10)] ++
  [(0x800C, 0x0), (0x8010, 0x1), (0x8014, 0x40000000)]

/-- The module-wide registers: offset in BAR0 and reset value, as the spec's tables give them. -/
def moduleRegisters : List (Nat × Nat) :=
  [(0x80000, 0x40400020), (0x80004, 0x0), (0x80008, 0x60000), (0x8000C, 0x0), (0x80010, 0x0), (0x80014, 0x0),
   (0x80018, 0x0), (0x8001C, 0x0), (0x80020, 0x0), (0x80024, 0x0), (0x80028, 0x0), (0x8002C, 0x0),
   (0x80030, 0x0), (0x80034, 0x0), (0x80038, 0x0), (0x8003C, 0x0)] ++
  [(0x80040, 0x0), (0x80044, 0x0), (0x81000, 0x3E0), (0x81004, 0x41F00000), (0x81010, 0x0), (0x81014, 0xC000000),
   (0x81018, 0x0), (0x8101C, 0x0), (0x81020, 0x0), (0x82000, 0x40000000), (0x82004, 0x2000000), (0x82008, 0x6),
   (0x8200C, 0x708), (0x82010, 0xA), (0x82014, 0x57C0A), (0x82018, 0x32)] ++
  [(0x8201C, 0x0), (0x82020, 0x0), (0x82024, 0x0), (0x82028, 0x10), (0x8202C, 0x0), (0x82030, 0x0),
   (0x82034, 0x0), (0x82040, 0x0), (0x83040, 0xF00), (0x83100, 0x1), (0x83110, 0x0), (0x83114, 0x0),
   (0x83118, 0x0), (0x8311C, 0x0), (0x83120, 0x0), (0x83124, 0x0)] ++
  [(0x83130, 0x308), (0x83134, 0x0), (0x83140, 0x0), (0x83144, 0x0), (0x83180, 0x0), (0x831A0, 0x0),
   (0x84000, 0x0), (0x84004, 0x0)]

end Sys2Proof.Machine
end

