-- ==== Sys2Proof/Certificates/Slice0/Obligations.lean ====
section
/-! DEFINITION. The statements for the provers. A statement that names a next state by record updates says with them that
everything not named is unchanged: all registers, counters, memory, queues and outputs. -/

open Sys2Proof Sys2Proof.Machine

/-! ### The block as a whole -/

/-- A step takes the command at the front of the queue and executes it on the state with the queue's rest. -/
def Obligations.StepRunsFrontCommand : Prop :=
  ∀ (c : Instr) (rest : List Instr) (s : State), s.pending = c :: rest → step s = exec c { s with pending := rest }

/-- With no command waiting one nanosecond passes (the model's choice, log entry 4): the counters of the dies that are up rise by
one, the time since the standby domain came up too, and nothing else changes.

Every command but PRIVATE_INSTRUCTION completes, and none touches the queue. -/
def Obligations.StepsAnswerAndKeepTheQueue : Prop :=
  (
  ∀ s : State, s.pending = [] → ∃ t, step s = .next t ∧ t.pending = []
    ∧ (∀ d : DieId, t.dev.die d = if (s.dev.die d).booted then { s.dev.die d with dcnt := (s.dev.die d).dcnt + 1 } else s.dev.die d)
    ∧ t.dev = { s.dev with dies := t.dev.dies, board := { s.dev.board with upNs := s.dev.board.upNs + 1 } }
  )
  ∧
  (
  ∀ (c : Instr) (s : State), (∀ n, c ≠ .privateInstruction n) → ∃ t, exec c s = .next t ∧ t.pending = s.pending
  )

/-! ### Registers -/

/-- The reads that latch (R40, R270, R354, R379): the low half goes out and the following read of the high half returns the high
half of the same value; nothing else changes. The two free draws are the model's (log entry 2).

R457: an access that is not aligned and 32 bits wide is an Unsupported Request that only AER reports; a reserved offset reads 0, and
takes no write; a fenced die's block reads all ones, and takes none; with no primary the module-wide SAF_ block reads 0 but for
SAF_DIE_MAP, and takes none; 0x104 and 0x108 of that block are the primary die's test registers. Nothing else changes. -/
def Obligations.LatchingReadsAndUnsupportedAccesses : Prop :=
  (
  ∀ (s : State) (d : DieId), s.dev.regsUp = true → s.dev.fencedDie d = false →
    let m := s.dev
    let x := m.die d
    let y := m.part x.wunPart
    let hi (v : Dbl) : Word := (v >>> 32).setWidth 32
    let after (off : Nat) (v : Word) (n : Dev) : State := (s.withDev ({ n with out := m.out ++ [.regValue off v], free := m.free + 2 }))
    let base := d.val * 0x10000
    (∃ t, exec (.calDcntLoRead d) s = .next t ∧ t.dev.regValue .host (base + 4) = hi x.dcnt
      ∧ t = after base (x.dcnt.setWidth 32) (m.modDie d (fun z => { z with dcntHi := hi x.dcnt })))
    ∧ (y.almanac.isSome = true →
      (∃ t, exec (.stepCountLoRead d) s = .next t ∧ t.dev.regValue .host (base + 0x4308) = hi y.com.steps
        ∧ t = after (base + 0x4304) (y.com.steps.setWidth 32) (m.modDie d (fun z => { z with stepHi := hi y.com.steps })))
      ∧ (∃ t, exec (.normLoRead d) s = .next t ∧ t.dev.regValue .host (base + 0x4328) = hi y.com.norm
        ∧ t = after (base + 0x4324) (y.com.norm.setWidth 32) (m.modDie d (fun z => { z with normHi := hi y.com.norm }))))
    ∧ (∃ t, exec (.ueAddrLoRead d) s = .next t
      ∧ t.dev.regValue .host (base + 0x5018) = ((x.stack.ueAddr >>> 32).setWidth 5).setWidth 32
      ∧ t = after (base + 0x5014) (x.stack.ueAddr.setWidth 32 &&& 0xFFFFFFC0#32)
        (m.modDie d (fun z => { z with stack := { z.stack with ueHi := (x.stack.ueAddr >>> 32).setWidth 5 } })))
    ∧ (m.map.primary.isSome = true → ∃ t, exec .lastAgreeLoRead s = .next t ∧ t.dev.regValue .host 0x83118 = hi m.digest.lastAgree
      ∧ t = after 0x83114 (m.digest.lastAgree.setWidth 32) { m with digest := { m.digest with agreeHi := hi m.digest.lastAgree } })
  )
  ∧
  (
  ∀ s : State, s.dev.power.st ≠ .off → let m := s.dev
    (∀ off bytes isWrite, (bytes ≠ 4 ∨ off.toNat % 4 ≠ 0) → exec (.unsupportedRegisterAccess off bytes isWrite) s
        = .next (s.withDev ({ m with board := { m.board with aerUr := true }, out := m.out ++ [.unsupportedRequest off.toNat] })))
    ∧ (∀ (d : DieId) (off : Nat) (src : Source) (v : Word), off < 0x10000 → off % 4 = 0 →
      (m.fencedDie d = false → off ∉ dieRegisters.map (fun e => e.1) → m.regValue src (d.val * 0x10000 + off) = 0
        ∧ exec (.registerWrite (BitVec.ofNat 20 (d.val * 0x10000 + off)) v) s = .next s)
      ∧ (m.fencedDie d = true → m.regValue src (d.val * 0x10000 + off) = 0xFFFFFFFF#32
        ∧ exec (.registerWrite (BitVec.ofNat 20 (d.val * 0x10000 + off)) v) s = .next s))
    ∧ (∀ (off : Nat) (src : Source) (v : Word), 0x80000 ≤ off → off < 0x100000 → off % 4 = 0 →
      off ∉ moduleRegisters.map (fun e => e.1) → off ≠ 0x83104 → off ≠ 0x83108 →
      m.regValue src off = 0 ∧ exec (.registerWrite (BitVec.ofNat 20 off) v) s = .next s)
    ∧ (∀ (off : Nat) (src : Source) (v : Word), 0x83000 ≤ off → off < 0x84000 → off % 4 = 0 → m.map.primary = none →
      m.regValue src off = (if off = 0x83040 then 0x00000F00#32 else 0) ∧ exec (.registerWrite (BitVec.ofNat 20 off) v) s = .next s)
    ∧ (∀ (d : DieId) (src : Source), m.map.primary = some d → m.fencedDie d = false →
      m.regValue src 0x83104 = m.regValue src (d.val * 0x10000 + 0x7104) ∧ m.regValue src 0x83108 = m.regValue src (d.val * 0x10000 + 0x7108))
  )

/-- Every register reads its reset value at reset, through either copy: the per-die ones on each die, and the module-wide ones with a
primary elected, whose block the SAF_ ones are. -/
def Obligations.RegistersReadTheirResetValues : Prop :=
  ∀ (src : Source) (d : DieId), (∀ e ∈ dieRegisters, Dev.reset.regValue src (d.val * 0x10000 + e.1) = BitVec.ofNat 32 e.2)
    ∧ ∀ e ∈ moduleRegisters, ({ Dev.reset with map := { Dev.reset.map with primary := some d } } : Dev).regValue src e.1 = BitVec.ofNat 32 e.2

/-- A write to a set-up register that only holds its fields: each field takes the value written where it lies in the field's range and
keeps its own elsewhere, reserved bits stay as they were, and every other register and all else is unchanged; a die's register and a
module-wide one.

FORCE_WARMUP, MCE_SMP_CFG and CDM_DIGEST_CFG: what the first marks takes effect at the selected partition's next step boundary, the
second is pending until its next step start, the third is written on every die, each field only with a value in its range. -/
def Obligations.RegisterWritesSetFieldsInRange : Prop :=
  (
  ∀ (s : State) (v : Word), s.dev.power.st ≠ .off →
    let kept (fs : List FieldRule) (old new : Word) : Prop :=
      (∀ f ∈ fs, bits new f.hi f.lo
        = if f.least ≤ bits v f.hi f.lo ∧ bits v f.hi f.lo ≤ f.most then bits v f.hi f.lo else bits old f.hi f.lo)
      ∧ ∀ i < 32, (∀ f ∈ fs, i < f.lo ∨ f.hi < i) → new.getLsbD i = old.getLsbD i
    (∀ (d : DieId), ∀ e ∈ dieFields, s.dev.dieRegs d = true →
      ∃ t, exec (.registerWrite (BitVec.ofNat 20 (d.val * 0x10000 + e.1.off)) v) s = .next t ∧ kept e.2 ((s.dev.die d).reg e.1) ((t.dev.die d).reg e.1)
        ∧ (∀ r : RegDef, r.off ≠ e.1.off → (t.dev.die d).reg r = (s.dev.die d).reg r)
        ∧ t = (s.withDev (s.dev.modDie d (fun x => { x with regs := (t.dev.die d).regs }))))
    ∧ (∀ e ∈ modFields, (e.1.off / 0x1000 = 0x83 → s.dev.map.primary.isSome = true) →
      ∃ t, exec (.registerWrite (BitVec.ofNat 20 e.1.off) v) s = .next t ∧ kept e.2 (s.dev.reg e.1) (t.dev.reg e.1)
        ∧ (∀ r : RegDef, r.off ≠ e.1.off → t.dev.reg r = s.dev.reg r)
        ∧ t = (s.withDev ({ s.dev with regs := t.dev.regs })))
  )
  ∧
  (
  ∀ (s : State) (d : DieId) (v : Word), s.dev.dieRegs d = true →
    let m := s.dev
    let x := m.die d
    ((m.part x.wunPart).inBeing = true →
      exec (.forceWarmup d) s = .next (s.withDev (m.modPart x.wunPart (fun y => { y with forceWarm := true }))))
    ∧ (∃ t, exec (.smpCfgWrite d v) s = .next t ∧ OnlyPart x.smpPart m t.dev ∧ t.pending = s.pending
      ∧ t.dev.part x.smpPart = { m.part x.smpPart with smpWritten := (t.dev.part x.smpPart).smpWritten, smpPending := true }
      ∧ bits (t.dev.part x.smpPart).smpWritten 13 8
        = (if 4 ≤ bits v 13 8 ∧ bits v 13 8 ≤ 32 then bits v 13 8 else bits (m.part x.smpPart).smpWritten 13 8)
      ∧ bits (t.dev.part x.smpPart).smpWritten 3 0 = (if bits v 3 0 ≤ 12 then bits v 3 0 else bits (m.part x.smpPart).smpWritten 3 0))
    ∧ (∃ t w, exec (.digestCfgWrite d v) s = .next t ∧ (∀ e, t.dev.die e = (m.die e).setReg cdmDigestCfg w)
      ∧ bits w 31 16 = (if 100 ≤ bits v 31 16 then bits v 31 16 else bits (x.reg cdmDigestCfg) 31 16)
      ∧ bits w 6 0 = (if 1 ≤ bits v 6 0 ∧ bits v 6 0 ≤ 64 then bits v 6 0 else bits (x.reg cdmDigestCfg) 6 0)
      ∧ t = (s.withDev ({ m with dies := t.dev.dies, digest := { m.digest with dWritten := bits w 6 0, wait := bits w 31 16 } })))
  )

/-! ### Counters -/

/-- A CLEAR_ALL command of a block: every counter of the block on that die becomes 0, every other counter and all else is unchanged.

A CLEAR_SEL command: the counter that the die's selection registers name becomes 0, every other counter that can be named and all
else is unchanged.

The other clears: the power refusal counters and the abort count, one refusal counter, the cross-check count, and the fault
alert's severity-3 mark. -/
def Obligations.ClearsZeroWhatTheyName : Prop :=
  (
  ∀ (s : State) (d : DieId) (c : Instr) (blk : Nat), s.dev.dieRegs d = true →
    (c, blk) ∈ [(Instr.ovfClearAll d, 0), (.aniClearAll d, 1), (.wrClearAll d, 2), (.mceClearAll d, 3), (.stepCntClearAll d, 4),
      (.smpClearAll d, 5), (.cdmClearAll d, 6), (.stkClearAll d, 7), (.cnvClipClear d, 8)] →
    ∃ t, exec c s = .next t
      ∧ (∀ k : CntKey, (t.dev.die d).counter k = if k.block = blk then 0 else (s.dev.die d).counter k)
      ∧ t = (s.withDev (s.dev.modDie d (fun x => { x with cnt := (t.dev.die d).cnt })))
  )
  ∧
  (
  ∀ (s : State) (d : DieId) (c : Instr) (k : CntKey), s.dev.dieRegs d = true → k.inRange = true →
    let x := s.dev.die d
    let layered (r : RegDef) (p : Pid) (l kind : Nat) : Prop :=
      p.val = bits (x.reg r) 31 28 ∧ l = bits (x.reg r) 27 16 ∧ kind = bits (x.reg r) 1 0 ∧ ((s.dev.part p).layer l).isSome = true
    ((∃ p l cls kind, c = .ovfClearSel d ∧ k = .ovf p l cls kind ∧ layered wunOvfSel p l kind ∧ cls = bits (x.reg wunOvfSel) 10 8)
      ∨ (∃ p l kind, c = .aniClearSel d ∧ k = .ani p l kind ∧ layered clvAniSel p l kind)
      ∨ (∃ p l kind, c = .wrClearSel d ∧ k = .wr p l kind ∧ layered clvWrSel p l kind)
      ∨ (∃ p l kind, c = .smpClearSel d ∧ k = .smp p l kind ∧ layered mceSmpSel p l kind)
      ∨ (c = .mceClearSel d ∧ k = .mce (bits (x.reg mceCntSel) 1 0))
      ∨ (c = .stepCntClearSel d ∧ k = .stepc x.wunPart (bits (x.reg wunStepCntSel) 2 0))
      ∨ (c = .cdmClearSel d ∧ k = .cdm x.selPort (bits (x.reg cdmCntSel) 3 0))
      ∨ (c = .stkClearSel d ∧ k = .stk (bits (x.reg stkErrSel) 2 0))) →
    ∃ t, exec c s = .next t ∧ (t.dev.die d).counter k = 0
      ∧ (∀ j : CntKey, j.inRange = true → j ≠ k → (t.dev.die d).counter j = x.counter j)
      ∧ t = (s.withDev (s.dev.modDie d (fun x => { x with cnt := (t.dev.die d).cnt })))
  )
  ∧
  (
  ∀ s : State, let m := s.dev
    (m.power.st ≠ .off → exec .pwrClearAll s = .next (s.withDev ({ m with power := { m.power with refusals := [], aborts := 0 } }))
      ∧ ∃ t, exec .pwrClearSel s = .next t
        ∧ (∀ k, tget 0 t.dev.power.refusals k = if k = bits (m.reg pwrRefSel) 5 4 * 16 + bits (m.reg pwrRefSel) 3 0 then 0 else tget 0 m.power.refusals k)
        ∧ t = (s.withDev ({ m with power := { m.power with refusals := t.dev.power.refusals } })))
    ∧ (m.map.primary.isSome = true → exec .xchkClear s = .next (s.withDev ({ m with digest := { m.digest with xchkCount := 0 } }))
      ∧ exec .alertClear s = .next (s.withDev ({ m with board := { m.board with sev3 := false } })))
  )

/-! ### Rings and result windows -/

/-- A doorbell line (R288 to R290): kept during an interruption or outside Run; otherwise a valid line is taken over and frees the result
slots its RELEASE covers, and an invalid one halts the ring set with DETAIL 0x0B. Other ring sets, dies and partitions stay.

R290: a descriptor at the head of a submission ring is accepted when every condition of the rule holds, and then its copy, its
index, its epoch and its reservations enter the held copy; where one does not hold, nothing changes. -/
def Obligations.DoorbellsAndAcceptance : Prop :=
  (
  ∀ (s : State) (k : SetId) (l : Doorbell), let m := s.dev
    let r := m.ring k
    r.enabled = true → m.bridgeDown = false → m.power.req = none →
    ((m.working = false ∨ m.interrupted k = true) →
      exec (.doorbellSnoop k l) s = .next (s.withDev (m.modRing k (fun r => { r with kept := some l }))))
    ∧ (m.working = true → m.interrupted k = false →
      (lineOk r l = true → ∃ t, exec (.doorbellSnoop k l) s = .next t
        ∧ t.dev.ring k = { r with subTail := l.subTail, cplHead := l.cplHead, released := l.release, slots := (t.dev.ring k).slots }
        ∧ (∀ i < r.winSlots, tget .free (t.dev.ring k).slots i
          = if ∃ j < min (l.release - r.released).toNat r.winSlots, (r.released + BitVec.ofNat 32 j).toNat % r.winSlots = i
            then .free else tget .free r.slots i)
        ∧ t = (s.withDev ({ m.modRing k (fun _ => t.dev.ring k) with out := t.dev.out })))
      ∧ (lineOk r l = false → r.halted = false → ∃ t, exec (.doorbellSnoop k l) s = .next t
        ∧ t.dev.ring k = { r with halted := true, haltDetail := 0x0B#8 } ∧ (∀ j ≠ k, t.dev.ring j = m.ring j)
        ∧ OnlyEvents { m with rings := t.dev.rings } t.dev))
  )
  ∧
  (
  ∀ (s : State) (k : SetId) (d : Desc), let m := s.dev
    let r := m.ring k
    let reserved := (r.published - r.released).toNat + (r.held.filter (fun h => h.resv)).length
    let ok := r.enabled = true ∧ r.disabling = false ∧ r.halted = false ∧ r.subTail ≠ r.accepted ∧ r.held.length < 64
      ∧ (r.accepted - r.cplHead).toNat < r.size ∧ (dResult d = true → reserved < r.winSlots) ∧ m.interrupted k = false
      ∧ m.working = true ∧ m.holdsRings = false
    (ok → ∃ h, exec (.descriptorAccept k d) s
        = .next (s.withDev (m.modRing k (fun r => { r with held := r.held ++ [h], accepted := r.accepted + 1 })))
      ∧ h.index = r.accepted ∧ h.desc = d ∧ h.st = .waiting ∧ h.resv = dResult d ∧ h.slot = none ∧ h.epochAcc = m.epochOf k ∧ h.replayed = false)
    ∧ (¬ ok → exec (.descriptorAccept k d) s = .next s)
  )

/-- R415: outside Run and Hold no descriptor is accepted; a snoop that arrives in Vigil or Repose is kept, and at the exit to Run its line is taken
over, after which the head descriptor is accepted under the conditions of R290. -/
def Obligations.DescriptorsAreAcceptedOnlyInRunAndHold : Prop :=
  ∀ (s : State) (k : SetId) (l : Doorbell), let m := s.dev
    (m.power.st ≠ .run → ∀ d, exec (.descriptorAccept k d) s = .next s)
    ∧ (m.power.st = .vigil ∨ m.power.st = .repose → (m.ring k).enabled = true → m.bridgeDown = false →
      exec (.doorbellSnoop k l) s = .next (s.withDev (m.modRing k (fun r => { r with kept := some l }))))
    ∧ (∀ r, m.power.st = .vigil ∨ m.power.st = .repose → m.power.req = some r → r.accepted = true → r.exiting = true → r.target = 0 → m.power.exitAsked = false →
      (m.ring k).enabled = true → (m.ring k).kept = some l → (∀ j ≠ k, (m.ring j).kept = none) → m.interrupted k = false → lineOk (m.ring k) l = true →
      m.bridgeDown = false →
      ∃ t, exec .powerStateReached s = .next t ∧ t.dev.power.st = .run ∧ t.dev.power.req = none
        ∧ t.dev.ring k = { m.ring k with kept := none, subTail := l.subTail, cplHead := l.cplHead, released := l.release, slots := (t.dev.ring k).slots }
        ∧ (∀ d, acceptable (t.dev.ring k) d = true → ∃ u h, exec (.descriptorAccept k d) t = .next u ∧ (u.dev.ring k).held = (m.ring k).held ++ [h] ∧ h.desc = d
          ∧ (u.dev.ring k).accepted = (m.ring k).accepted + 1))

/-- R292, R293, R295: a NOP that is up completes OK; a BARRIER completes OK when all accepted before it is complete, waits while
something is not, and one that names a ring set not enabled or not owned completes STATE_REJECT with DETAIL 0x0C and halts its ring set.

R296 to R298: the oldest held descriptor, at its completion point, has its record written whole at its index's slot of the completion
ring and leaves the held copy; the record's fields are those of the rules. During an interruption nothing is written. -/
def Obligations.NopBarrierAndCompletionRecords : Prop :=
  (
  ∀ (s : State) (k : SetId) (h : Held) (p : Pid), let m := s.dev
    let named := setIds.filter (fun n => (dopnd h.desc 0 8).testBit n.val)
    let done (st detail : Nat) (halts : Bool) (n : Dev) : Dev := n.modRing k (fun r =>
      { r with held := modHead (Held.complete (m.epochOf k) m.mapHealthy st detail 0 none halts) r.held })
    (m.comeUp k 0x00 = .exec h p → exec (.nop k) s = .next (s.withDev (done 0x00 0 false m)))
    ∧ (m.comeUp k 0x20 = .exec h p →
      ((∀ n ∈ named, (m.ring n).enabled = true ∧ m.partOf n = some p) →
        ((∀ n ∈ named, barrierClear m k n h = true) → exec (.barrier k) s = .next (s.withDev (done 0x00 0 false m)))
        ∧ ((∃ n ∈ named, barrierClear m k n h = false) →
          exec (.barrier k) s = .next (s.withDev (m.modRing k (fun r => { r with held := modHead (fun h => { h with st := .precond }) r.held })))))
      ∧ ((∃ n ∈ named, (m.ring n).enabled = false ∨ m.partOf n ≠ some p) →
        exec (.barrier k) s = .next (s.withDev ((done 0x20 0x0C true m).haltRing k 0x0C))))
  )
  ∧
  (
  ∀ (s : State) (k : SetId) (h : Held) (rest : List Held) (st detail : Nat) (step : Dbl) (valid halts : Bool), let m := s.dev
    let r := m.ring k
    r.held = h :: rest → h.st = .done st detail step valid halts → r.disabling = false → m.bridgeDown = false →
    (∀ g ∈ rest, g.isDone = true) →
    let place : Dbl := r.cplBase + BitVec.ofNat 64 (h.index.toNat % r.size * 32)
    let after : Dev := m.modRing k (fun r => { r with held := rest, completed := r.completed + 1 })
    (m.interrupted k = true → exec (.completionWrite k) s = .next s)
    ∧ (m.interrupted k = false → ∃ c : Completion, exec (.completionWrite k) s = .next (s.withDev (after.emit (.completion k.val place (completionBytes c))))
      ∧ c.seq = h.desc.seq ∧ c.tag = h.desc.tag ∧ c.epoch = h.cplEpoch ∧ c.healthy = h.cplHealthy ∧ c.step = step
      ∧ c.status = (if st = 0x00 ∧ h.replayed = true ∧ h.epochAcc ≠ h.cplEpoch then 0x02#8 else BitVec.ofNat 8 st)
      ∧ c.detail = (if st = 0x20 then BitVec.ofNat 8 detail else 0#8)
      ∧ (c.flags.getLsbD 0 = true ↔ h.desc.seq.toNat / r.size % 2 = 0) ∧ c.flags.getLsbD 1 = h.replayed
      ∧ c.flags.getLsbD 2 = valid ∧ c.flags.getLsbD 3 = halts ∧ (∀ i, 4 ≤ i → c.flags.getLsbD i = false)
      ∧ c.slot = (match h.slot with
        | some n => BitVec.ofNat 16 n
        | none => 0xFFFF#16))
  )

/-- R301: a read of a result slot's line answers the published line or the not-ready pattern and changes nothing; a read outside every
window and every write of the range raise EV-RING-04 and count in RING_BAD_ACCESS, which stops at its largest value.

R304, R306, R307: enabling checks the ring set's conditions in their order and starts it with every count 0 and every slot not ready;
a refused enable stores its code; disabling an idle ring set ends it at once and a busy one later; the two clears. -/
def Obligations.RingSetControlAndResultWindows : Prop :=
  (
  ∀ (s : State) (addr : BitVec 28), s.dev.board.memActive = true → let m := s.dev
    let line := addr.toNat / 64 * 64
    let bad (n : Dev) : Prop := OnlyEvents { m with board := { m.board with badAccess := if m.board.badAccess = 0xFFFFFFFF#32 then 0xFFFFFFFF#32 else m.board.badAccess + 1 }, out := n.out } n
    (line < 0x800000 → exec (.resultWindowRead addr) s = .next (s.withDev (m.emit (.windowLine line (m.windowLine line)))))
    ∧ (0x800000 ≤ line → ∃ t, exec (.resultWindowRead addr) s = .next t ∧ bad t.dev ∧ t.dev.out = m.out ++ [.windowZero line] ∧ t.pending = s.pending)
    ∧ (∃ t, exec (.resultWindowWrite addr) s = .next t ∧ bad t.dev ∧ t.dev.out = m.out ∧ t.pending = s.pending)
  )
  ∧
  (
  ∀ (s : State) (v : Word), s.dev.power.st ≠ .off → let m := s.dev
    let k := m.selSet
    let r := m.ring k
    let r1 : RingSet := { r with ctrl := ctrlFields r.ctrl v }
    let bad := (tget 0 r.bases 0).toNat % 4096 ≠ 0 ∨ (tget 0 r.bases 2).toNat % 4096 ≠ 0 ∨ (tget 0 r.bases 4).toNat % 64 ≠ 0
    let twice (p : Pid) := r1.isControl = false ∧ ∃ n ∈ m.setsOf p, n ≠ k ∧ (m.ring n).enabled = true ∧ (m.ring n).isControl = false
    let refused (e : Nat) : Prop := exec (.ringEnable v) s = .next (s.withDev (m.modRing k (fun _ => { r1 with enableErr := e })))
    (v.getLsbD 31 = true → r.enabled = false →
      (m.partOf k = none → refused 1)
      ∧ ∀ p, m.partOf k = some p →
        (m.board.cacheEn = false → refused 2)
        ∧ (m.board.cacheEn = true → (bad → refused 3)
          ∧ (¬ bad → (twice p → refused 4)
            ∧ (¬ twice p → exec (.ringEnable v) s = .next (s.withDev (m.modRing k (fun _ =>
                { r1 with enabled := true, disabling := false, halted := false, haltDetail := 0, enableErr := 0, accepted := 0, completed := 0,
                          published := 0, released := 0, subTail := 0, cplHead := 0, kept := none, held := [], slots := [] })))))))
    ∧ (v.getLsbD 31 = false → r.enabled = true →
      (r.held = [] → exec (.ringDisable v) s = .next (s.withDev (m.modRing k (fun r => { r with enabled := false, disabling := false, slots := [] }))))
      ∧ (r.held ≠ [] → exec (.ringDisable v) s = .next (s.withDev (m.modRing k (fun r => { r with disabling := true })))))
    ∧ exec .ringHaltClear s = .next (s.withDev (m.modRing k (fun r => { r with halted := false })))
    ∧ exec .ringBadClear s = .next (s.withDev ({ m with board := { m.board with badAccess := 0 } }))
  )

/-! ### Set-up, step and preemption descriptors -/

/-- R280: an ALMANAC_LOAD that is up is judged by the checks in their order. One that fails is refused with its DETAIL and leaves every
partition exactly as it was; one that passes begins to load and leaves the almanac in force until its completion point.

R281, R463: at its completion point a load whose base set is acceptable (R46) replaces the partition's almanac and gives it the
initial state: no weights, no optimiser state, no valid history, step count 0, in the variant that R46 starts; the descriptor completes OK.
Otherwise it is refused with DETAIL 0x07 and the almanac in force stays. Other partitions are unchanged. -/
def Obligations.AlmanacLoadIsJudgedAndTakesEffect : Prop :=
  (
  ∀ (s : State) (k : SetId) (h : Held) (p : Pid) (a : Container), let m := s.dev
    let len := dopnd h.desc 8 8
    m.comeUp k 0x01 = .exec h p → m.storeWaits = false →
    let refused (d : Nat) (obj : Option Container) : Prop := ∃ t, exec (.almanacLoad k obj) s = .next t ∧ t.dev.parts = m.parts
      ∧ (t.dev.ring k).held = modHead (Held.complete (m.epochOf k) m.mapHealthy 0x20 d 0 none false) (m.ring k).held
      ∧ (∀ j ≠ k, t.dev.ring j = m.ring j) ∧ OnlyEvents { m with rings := t.dev.rings } t.dev
    refused 0x04 none
    ∧ (wellFormedContainer a len = false → refused 0x04 (some a))
    ∧ (wellFormedContainer a len = true → m.ownerSigned a.sig = false → refused 0x05 (some a))
    ∧ (wellFormedContainer a len = true → m.ownerSigned a.sig = true → m.rangesOk p a = false → refused 0x06 (some a))
    ∧ (wellFormedContainer a len = true → m.ownerSigned a.sig = true → m.rangesOk p a = true → (m.startVariant a).isSome = true →
      (32 * 1024 * 1024 < a.shareMax → refused 0x08 (some a))
      ∧ (a.shareMax ≤ 32 * 1024 * 1024 → (m.part p).tier3Bound < a.stash.tier3 → refused 0x0A (some a))
      ∧ (a.shareMax ≤ 32 * 1024 * 1024 → a.stash.tier3 ≤ (m.part p).tier3Bound →
        ((m.part p).slot = none ∨ a.job.wrapSet ≠ (m.part p).setId ∨ a.job.wrapOk = false → refused 0x0D (some a))
        ∧ ((m.part p).slot.isSome = true → a.job.wrapSet = (m.part p).setId → a.job.wrapOk = true →
          m.leavesWait (m.leavesOf a (fun _ => true)) = false →
          exec (.almanacLoad k (some a)) s = .next (s.withDev ((m.modPart p (fun x => { x with loading := some a })).setHead k (fun h => { h with st := .executing }))))))
  )
  ∧
  (
  ∀ (s : State) (k : SetId) (h : Held) (p : Pid) (a : Container), let m := s.dev
    let x := m.part p
    (m.ring k).head = some h → m.partOf k = some p → h.st = .executing → h.desc.opcode = 0x01#8 → x.loading = some a →
    (∀ v, m.startVariant a = some v → ∃ t, exec (.almanacLoadComplete k) s = .next t ∧ t.pending = s.pending
      ∧ (let y := t.dev.part p
         y.st = .loaded ∧ y.almanac = some a ∧ y.loading = none ∧ y.variant = v ∧ y.digital = false ∧ y.run = none ∧ y.epoch = x.epoch
          ∧ y.com.masters = [] ∧ y.com.opt = [] ∧ y.com.steps = 0 ∧ y.com.histValid = false ∧ y.com.fallback = [] ∧ y.bufs = x.bufs)
      ∧ (∀ q ≠ p, t.dev.part q = m.part q) ∧ (∀ j ≠ k, t.dev.ring j = m.ring j)
      ∧ (∃ e hb, (t.dev.ring k).held = modHead (Held.complete e hb 0x00 0 0 none false) (m.ring k).held)
      ∧ t.dev.binds = m.binds ∧ t.dev.sec = m.sec ∧ t.dev.regs = m.regs ∧ t.dev.flash = m.flash)
    ∧ (m.startVariant a = none → ∃ t, exec (.almanacLoadComplete k) s = .next t
      ∧ OnlyPart p m { t.dev with rings := m.rings, dies := m.dies, board := m.board, evMod := m.evMod, power := m.power }
      ∧ t.dev.part p = { x with loading := none }
      ∧ (t.dev.ring k).held = modHead (Held.complete (m.epochOf k) m.mapHealthy 0x20 0x07 0 none false) (m.ring k).held)
  )

/-- R292, R349: BUFFER_BIND binds or unbinds the buffer of its kind and index and completes OK; in SUSPENDED a stash buffer, and in
LOADED an unbind that leaves tier 3 uncovered, completes STATE_REJECT with DETAIL 0x01 and changes no partition.

R349, R350: a save writes the committed state to its buffer and completes OK, or, where it failed or the state is lost (R49; the model's
choice, log entry 124), completes STATE_REJECT with DETAIL 0x04; a restore refuses a bad image the same way, and otherwise commits the image's values, its step count, an empty fallback set and clean
counts of 0, with the epoch unchanged. -/
def Obligations.BufferBindAndCheckpoints : Prop :=
  (
  ∀ (s : State) (k : SetId) (h : Held) (p : Pid), let m := s.dev
    let x := m.part p
    let kind := dopnd h.desc 16 1
    let index := dopnd h.desc 17 1
    let unbind := dopnd h.desc 18 1 = 1
    let rest := x.bufs.filter (fun b => !(b.kind = kind && b.index = index))
    let bad := (x.st = .suspended ∧ kind ≠ 1) ∨ (x.st = .loaded ∧ unbind ∧ kind = 0 ∧ x.coveredWithout index = false)
    m.comeUp k 0x02 = .exec h p →
    (bad → exec (.bufferBind k) s = .next (s.withDev (m.reject k 0x01)))
    ∧ (¬ bad → ∃ y, exec (.bufferBind k) s = .next (s.withDev ((m.modPart p (fun _ => y)).completeOk k))
      ∧ y = { x with bufs := y.bufs } ∧ (∀ b, b ∈ y.bufs ↔ b ∈ rest
        ∨ (dopnd h.desc 18 1 = 0 ∧ b = { kind := kind, index := index, addr := BitVec.ofNat 64 (dopnd h.desc 0 8), len := BitVec.ofNat 64 (dopnd h.desc 8 8) })))
  )
  ∧
  (
  ∀ (s : State) (k : SetId) (h : Held) (p : Pid) (b : Buf), let m := s.dev
    let x := m.part p
    x.ckptBuf h = some b →
    (m.comeUp k 0x12 = .exec h p →
      (x.stateLost = false → exec (.checkpointSave k true) s
        = .next (s.withDev ((m.emit (.checkpoint b.index (BitVec.ofNat 64 (dopnd h.desc 1 8)) x.com.steps x.com)).completeOk k)))
      ∧ (x.stateLost = true → exec (.checkpointSave k true) s = .next (s.withDev (m.reject k 0x04)))
      ∧ exec (.checkpointSave k false) s = .next (s.withDev (m.reject k 0x04)))
    ∧ (∀ a i, m.comeUp k 0x13 = .exec h p → x.almanac = some a → m.incomplete p = false →
      (imageOk a i = false → exec (.checkpointRestore k (some i)) s = .next (s.withDev (m.reject k 0x04)))
      ∧ (imageOk a i = true → m.storeWaits = false → m.leavesWait (m.layerLeaves p (fun _ => true)) = false →
        ∃ t, exec (.checkpointRestore k (some i)) s = .next t ∧ (let y := t.dev.part p
          y.com.masters = (restoreCom i x.com).masters ∧ y.com.opt = (restoreCom i x.com).opt ∧ y.com.target = (restoreCom i x.com).target
          ∧ y.com.steps = i.step ∧ y.com.fallback = [] ∧ y.com.fbClean = [] ∧ y.com.cleanRun = 0 ∧ y.epoch = x.epoch ∧ y.almanac = some a)
          ∧ (∀ q ≠ p, t.dev.part q = m.part q)
          ∧ (t.dev.ring k).held = modHead (Held.complete (m.epochOf k) m.mapHealthy 0x00 0 0 none false) (m.ring k).held))
  )

/-- R401: a package that fails a check is refused with that check's DETAIL and changes no partition and no die but for its event; one
that passes commits its masters and optimiser state and completes OK.

R170, R292: LEAF_PROGRAM of layers the almanac has begins the whole-leaf programming of their placed leaves and is then in
execution, or at its completion point where no leaf is left to program; a range beyond the last layer completes STATE_REJECT with DETAIL
0x02. PRECONDITION_CLEARED lets a head that waited on a passing precondition go on. -/
def Obligations.WeightLoadAndLeafProgram : Prop :=
  (
  ∀ (s : State) (k : SetId) (h : Held) (p : Pid) (a : Container) (w : WPackage), let m := s.dev
    m.comeUp k 0x03 = .exec h p → (m.part p).almanac = some a → m.incomplete p = false → m.storeWaits = false →
    (∀ d, m.packageCheck p a w (dopnd h.desc 8 8) = some d → ∃ t, exec (.weightLoad k (some w)) s = .next t ∧ t.dev.parts = m.parts
      ∧ (t.dev.ring k).held = modHead (Held.complete (m.epochOf k) m.mapHealthy 0x20 d 0 none false) (m.ring k).held
      ∧ OnlyEvents { m with rings := t.dev.rings } t.dev)
    ∧ (m.packageCheck p a w (dopnd h.desc 8 8) = none → m.leavesWait (m.layerLeaves p (fun l => (pkgLayers w).contains l)) = false →
      ∃ t, exec (.weightLoad k (some w)) s = .next t
        ∧ (t.dev.part p).com.masters = (formWeights a w (m.part p).com).1.masters ∧ (t.dev.part p).com.opt = (formWeights a w (m.part p).com).1.opt
        ∧ (t.dev.part p).com.steps = (m.part p).com.steps ∧ (t.dev.part p).almanac = some a
        ∧ (t.dev.part p).pkgDigests = (m.part p).pkgDigests ++ [w.digest]
        ∧ (∀ q ≠ p, t.dev.part q = m.part q)
        ∧ (t.dev.ring k).held = modHead (Held.complete (m.epochOf k) m.mapHealthy 0x00 0 0 none false) (m.ring k).held)
  )
  ∧
  (
  ∀ (s : State) (k : SetId) (h : Held), let m := s.dev
    (∀ p a, m.comeUp k 0x04 = .exec h p → (m.part p).almanac = some a → m.incomplete p = false →
      (a.layerTab.length < dopnd h.desc 0 2 + dopnd h.desc 2 2 → exec (.leafProgram k) s = .next (s.withDev (m.reject k 0x02)))
      ∧ (dopnd h.desc 0 2 + dopnd h.desc 2 2 ≤ a.layerTab.length →
        let ls := m.layerLeaves p (programRange h)
        (m.storeWaits = false → m.leavesWait ls = false → ∃ t, exec (.leafProgram k) s = .next t
          ∧ t.dev = ((ls.foldl (fun n r => n.programLeaf p r.1 r.2.1 r.2.2 true) m).setHead k (fun h => { h with st := .executing })).settleLeafProgram p)
        ∧ (m.storeWaits = true ∨ m.leavesWait ls = true → exec (.leafProgram k) s
          = .next (s.withDev (if dNowait h.desc then m.completeHead k 0x10 0 0 none false else m.setHead k (fun h => { h with st := .precond }))))))
    ∧ ((m.ring k).head = some h → h.st = .precond → m.storeWaits = false →
      (h.desc.opcode = 0x04#8 → exec (.preconditionCleared k) s = exec (.leafProgram k) s)
      ∧ (h.desc.opcode = 0x10#8 → exec (.preconditionCleared k) s = exec (.step k h.inp) s)
      ∧ (h.desc.opcode = 0x11#8 → exec (.preconditionCleared k) s = exec (.forward k h.inp) s)
      ∧ (h.desc.opcode = 0x20#8 → exec (.preconditionCleared k) s = exec (.barrier k) s)
      ∧ (h.desc.opcode ∈ [0x01#8, 0x03#8, 0x13#8] →
        exec (.preconditionCleared k) s = .next (s.withDev (m.setHead k (fun h => { h with st := .ready })))))
  )

/-- R239, R292: a STEP or FORWARD that is up starts. The partition is RUNNING with everything staged empty, its working halves copies of
the committed ones, under the step number; a FORWARD leaves the exchange alone. A STEP whose EXPECT_STEP is another number completes
STATE_REJECT with DETAIL 0x09. The committed weights and step count, and other partitions, are unchanged.

R302, R303: a FORWARD in execution whose loss and last layer's outputs are formed reaches its completion point: its rows go out, its slot is published where it
reserved one, it completes OK, and the partition runs nothing, with its committed state as it was. -/
def Obligations.StepAndForwardStartAndForwardCompletes : Prop :=
  (
  ∀ (s : State) (k : SetId) (h : Held) (p : Pid) (a : Container) (inp : StepInput), let m := s.dev
    let x := m.part p
    x.almanac = some a → m.incomplete p = false → m.storeWaits = false →
    let started (fwd : Bool) (n : Dev) : Prop := ∃ r, (n.part p).run = some r ∧ (n.part p).st = .running ∧ r.isForward = fwd ∧ r.set = k
      ∧ r.number = x.com.steps + 1 ∧ r.tokens = dopnd h.desc 28 4
      ∧ r.input = inp.input.take (dopnd h.desc 8 8 / 4) ∧ r.index = inp.index.take (dopnd h.desc 24 4 / 4) ∧ r.masters = x.com.masters ∧ r.opt = x.com.opt ∧ r.accum = x.com.accum
      ∧ r.grads = [] ∧ r.outs = [] ∧ r.loss = none ∧ r.abort = none ∧ r.decided = false
      ∧ (n.part p).com.masters = x.com.masters ∧ (n.part p).com.opt = x.com.opt ∧ (n.part p).com.steps = x.com.steps
      ∧ (∀ q ≠ p, n.part q = m.part q)
      ∧ (n.ring k).held = modHead (fun g => { g with st := .executing, inp := inputOf h inp }) (m.ring k).held
    let want := dopnd h.desc 32 8
    (m.comeUp k 0x10 = .exec h p →
      (want ≠ 0 → want ≠ (m.stepNo p).toNat → exec (.step k inp) s = .next (s.withDev (m.reject k 0x09)))
      ∧ (want = 0 ∨ want = (m.stepNo p).toNat → ∃ n, exec (.step k inp) s = .next (s.withDev (n.drainStep p)) ∧ started false n))
    ∧ ((m.ring k).head = some h → m.comeUp k 0x11 = .exec h p →
      ∃ t, exec (.forward k inp) s = .next t ∧ started true t.dev ∧ (t.dev.part p).xch = x.xch)
  )
  ∧
  (
  ∀ (s : State) (k : SetId) (h : Held) (p : Pid) (a : Container) (r : StepRun) (inp : StepInput), let m := s.dev
    (m.ring k).head = some h → m.partOf k = some p → h.st = .executing → h.desc.opcode = 0x11#8 → (m.part p).run = some r →
    (m.part p).almanac = some a → r.isForward = true → r.probing = false → r.loss.isSome = true → layerDone a r (a.layerTab.length - 1) = true →
    ∃ t slot, exec (.forward k inp) s = .next t ∧ t.dev.part p = { m.part p with st := .loaded, run := none }
      ∧ (∀ q ≠ p, t.dev.part q = m.part q)
      ∧ (t.dev.ring k).held = modHead (Held.complete (m.epochOf k) m.mapHealthy 0x00 0 0 slot false) (m.ring k).held
      ∧ (h.resv = true → 0 < (m.ring k).winSlots → slot = some ((m.ring k).published.toNat % (m.ring k).winSlots)
        ∧ (t.dev.ring k).published = (m.ring k).published + 1
        ∧ tget .free (t.dev.ring k).slots ((m.ring k).published.toNat % (m.ring k).winSlots)
          = .published ((m.ring k).published.setWidth 31) (payloadOf (m.part p) r))
      ∧ (h.resv = false → slot = none ∧ (t.dev.ring k).slots = (m.ring k).slots)
      ∧ .forwardRows (BitVec.ofNat 64 (dopnd h.desc 32 8)) (lastOuts a r) ∈ t.dev.out
  )

/-- R284, R293: a PREEMPT arms for its target step and occupies its ring set, one for a step already past completes STATE_REJECT with
DETAIL 0x01; issue stops at its point, and once its operations have run to their end and its windows have closed the partition is SUSPENDED and the PREEMPT completes OK; RESUME
makes it RUNNING again. -/
def Obligations.PreemptAndResume : Prop :=
  ∀ (s : State) (k : SetId) (h : Held) (p : Pid), let m := s.dev
    let x := m.part p
    let t := dopnd h.desc 0 8
    (m.comeUp k 0x21 = .exec h p → x.armed = none →
      (t ≠ 0 → t < (m.stepNo p).toNat → exec (.preempt k) s = .next (s.withDev (m.reject k 0x01)))
      ∧ (t = 0 ∨ (m.stepNo p).toNat ≤ t → ∃ n, exec (.preempt k) s = .next (s.withDev ((m.modPart p (fun x => { x with armed := some { set := k, target := n, point := BitVec.ofNat 32 (dopnd h.desc 8 4) } })).setHead k
            (fun h => { h with st := .executing })))
        ∧ (t ≠ 0 → n = BitVec.ofNat 64 t) ∧ (t = 0 → x.run = none → n = m.stepNo p)
        ∧ (t = 0 → ∀ r, x.run = some r → r.isForward = false → n = if r.phase < 6 then r.number else r.number + 1)))
    ∧ (∀ g r a point, x.armed = some g → x.run = some r → x.almanac = some a → x.st = .running → r.isForward = false → g.target = r.number →
      r.phase < 6 → x.draining = none → (g.point = 0xFFFFFFFF#32 ∨ g.point.toNat = point) →
      (∃ e ∈ a.preempts, serves e.variant x.form = true ∧ e.point = point) →
      exec (.preemptPointReached p point) s = .next (s.withDev (m.modPart p (fun x => { x with draining := some point }))))
    ∧ (∀ g point, x.armed = some g → x.draining = some point → (m.opsRun p = true ∨ m.windowOpen p = true) → exec (.preemptDrainComplete p) s = .next s)
    ∧ (∀ g point, x.armed = some g → x.draining = some point → m.opsRun p = false → m.windowOpen p = false → exec (.preemptDrainComplete p) s = .next (s.withDev ((m.modPart p (fun x => { x with st := .suspended, susp := some point, draining := none, armed := none })).completeOk g.set)))
    ∧ (m.comeUp k 0x22 = .exec h p → x.run.isSome = true → exec (.resume k) s = .next (s.withDev ((m.modPart p (fun x => { x with st := .running, susp := none })).completeOk k)))

/-! ### Faults -/

/-- R362, R30: a handshake stall by its class. A request that an ordered wait holds back is no stall. Else HS0 counts on its tile, which a
second stall within the step makes due to retire; HS1 and HS2 run the operation of the cube or W-unit again at its first fault and retire
the unit at the next; HS3 to HS5 and HS7 strike the partitions concerned with a rollback and no other; HS6 is only reported.

R44: when the retry's watchdog expires. An acknowledged retry rolls back the partitions on the two dies and fences none; otherwise
the dies fenced are those of the rule's table, and no other die's class changes. -/
def Obligations.HandshakeStallsAndHs6Fencing : Prop :=
  (
  ∀ (s : State) (d : DieId) (cls : HsClass) (n : Nat), s.dev.inService d = true →
    let m := s.dev
    let c := (m.die d).cube n
    let u := (m.die d).wunit n
    let hit : List Pid := if cls = 7 ∧ n < 4 then (m.owner (resPort d n)).toList else m.partsOn d
    let ended (x : Die) : Die := { x with stallSet := tset 0#32 x.stallSet cls.val 0 }
    (m.orderedWait d cls.val n = true → exec (.handshakeStall d cls n) s = .next (s.withDev (m.modDie d ended)))
    ∧ (m.orderedWait d cls.val n = false → ∀ t, t = s.withDev ((m.handshakeStall d cls n).modDie d ended) →
      exec (.handshakeStall d cls n) s = .next t
      ∧ tget 0#32 (t.dev.die d).stallSet cls.val = 0
      ∧ (cls = 0 → n < 4160 → t.dev.parts = m.parts
        ∧ (t.dev.die d).tile n = { (m.die d).tile n with hs0 := ((m.die d).tile n).hs0 + 1, retireDue := ((m.die d).tile n).retireDue || decide (2 ≤ ((m.die d).tile n).hs0 + 1) }
        ∧ ∀ j ≠ n, (t.dev.die d).tile j = (m.die d).tile j)
      ∧ (cls = 1 → n < 1024 → c.st ≠ .retired →
        (c.faults = 0 → t.dev.parts = m.parts
          ∧ ∃ y, (t.dev.die d).cube n = y ∧ y.op = c.op ∧ y.runsDone = 0 ∧ y.acc = List.replicate 64 ((c.op.map (fun o => initAcc o.kind)).getD 0)
            ∧ y.a0.full = false ∧ y.a1.full = false ∧ y.b0.full = false ∧ y.b1.full = false ∧ y.res0 = c.res0 ∧ y.res1 = c.res1
            ∧ y.faults = 1 ∧ y.reruns = rerunUp c.reruns ∧ y.st = c.st)
        ∧ (c.faults ≠ 0 → ((t.dev.die d).cube n).st = .retired))
      ∧ (cls = 2 → n < 64 → u.st ≠ .retired →
        (u.faults = 0 → (t.dev.die d).wunit n = { u with faults := 1, reruns := rerunUp u.reruns } ∧ t.dev.parts = m.parts)
        ∧ (u.faults ≠ 0 → ((t.dev.die d).wunit n).st = .retired))
      ∧ (cls = 6 → OnlyEvents (m.modDie d ended) t.dev)
      ∧ (cls ∈ ([3, 4, 5, 7] : List HsClass) → (cls = 4 → n < 32) →
        (∀ p ∈ hit, Struck 6 (m.part p) (t.dev.part p)) ∧ ∀ p ∉ hit, t.dev.part p = m.part p))
  )
  ∧
  (
  ∀ (s : State) (a b : DieId) (acked stalledA stalledB : Bool), a ≠ b → s.dev.inService a = true → s.dev.inService b = true →
    let m := s.dev
    let near (p : Pid) : Prop := m.hasOn p a = true ∨ m.hasOn p b = true
    let carried (d : DieId) : Prop := ∀ p c, near p → (m.part p).almanac = some c → carriesLoss c d = true
    let higher : DieId := if a.val < b.val then b else a
    ∀ t, t = s.withDev (if acked then m.rollback (some a) (m.partsOnPair a b) 6
        else if stalledA && stalledB then m.fenceBoth a b
        else if stalledB then m.fence b
        else if stalledA then m.fence a
        else m.fence (m.pairChoice a b)) →
      exec (.hs6RetryExpiry a b acked stalledA stalledB) s = .next t
      ∧ (acked = true → (∀ d, (t.dev.die d).cls = (m.die d).cls)
        ∧ ∀ p, (near p → Struck 6 (m.part p) (t.dev.part p)) ∧ (¬ near p → t.dev.part p = m.part p))
      ∧ (acked = false → ∀ d, (t.dev.die d).cls = .fenced ↔ (m.die d).cls = .fenced
        ∨ (d = a ∧ stalledA = true) ∨ (d = b ∧ stalledB = true)
        ∨ (stalledA = false ∧ stalledB = false ∧ ((d = a ∧ carried a ∧ ¬ carried b) ∨ (d = b ∧ carried b ∧ ¬ carried a)
          ∨ (d = higher ∧ (carried a ↔ carried b)))))
  )

/-- R356, R299: at the end of an interruption by a fault the partition's epoch rises by one and the switches it names take effect, with
the committed values and the other partitions as they were; with no descriptor in execution the interruption is over and nothing runs,
and one in execution is restarted under its own step number where no held frame waits for it.

R256, R257: after a numerics storm the step replays under the all-digital form, with the epoch unchanged. -/
def Obligations.ResumptionAndStormReplay : Prop :=
  (
  ∀ (s : State) (p : Pid) (i : Interrupt), let m := s.dev
    let x := m.part p
    x.intr = some i → i.storm = false →
    ∃ t, exec (.rollbackResume p) s = .next t ∧ t.pending = s.pending ∧ KeepsCommitted p m t.dev
      ∧ (let y := t.dev.part p
         y.epoch = x.epoch + 1 ∧ y.variant = i.variant.getD x.variant ∧ y.almanac = x.almanac ∧ t.dev.recov.action = i.action
          ∧ (m.execSet p = none → x.run = none → y.intr = none ∧ y.run = none ∧ y.st = x.st)
          ∧ (∀ k h, m.execSet p = some (k, h) → x.susp = none → x.almanac.isSome = true → x.xch.attempt < 2 →
            (∀ r ∈ m.portsOf p, ((m.die r.1).port r.2).held = []) →
            y.intr = none ∧ y.st = .running ∧ ∃ r, y.run = some r ∧ r.replaying = true ∧ r.set = k ∧ r.number = x.com.steps + 1
              ∧ r.masters = x.com.masters ∧ r.opt = x.com.opt ∧ r.isForward = decide (h.desc.opcode = 0x11#8)))
  )
  ∧
  (
  ∀ (s : State) (p : Pid) (i : Interrupt) (k : SetId) (h : Held), let m := s.dev
    let x := m.part p
    x.intr = some i → i.storm = true → i.digital = some true → m.execSet p = some (k, h) → x.susp = none → x.almanac.isSome = true →
    h.desc.opcode = 0x10#8 → x.com.cleanRun = 0 → (∀ a, x.almanac = some a → 0 < a.job.stormClean) → x.xch.attempt < 3 →
    (∀ r ∈ m.portsOf p, ((m.die r.1).port r.2).held = []) →
    ∃ t, exec (.stormReplayStart p) s = .next t ∧ KeepsCommitted p m t.dev ∧ (let y := t.dev.part p
      y.intr = none ∧ y.digital = true ∧ y.epoch = x.epoch ∧ y.st = .running
        ∧ ∃ r, y.run = some r ∧ r.replaying = true ∧ r.set = k ∧ r.number = x.com.steps + 1 ∧ r.masters = x.com.masters)
  )

/-- R37, R39: REFCLK lost, returned, and the calibration windows of the duration counter.

R53: a corrected bridge error is reported; an uncorrectable one raises EV-SAF-13, asserts the fault alert, and takes the module out of
service: from then on no doorbell line is taken and no descriptor accepted on any ring set. -/
def Obligations.ReferenceClockAndBridgeErrors : Prop :=
  (
  ∀ (s : State) (d : DieId), let m := s.dev
    let x := m.die d
    x.booted = true →
    (x.refclkOk = true → exec (.refclkLoss d) s = .next (s.withDev ((m.modDie d (fun x => { x with refclkOk := false, holdover := true, calWin := false })).raise (some d) (evDie (.cal 7) d)))
      ∧ exec (.dcntCalibrationStart d) s = .next (s.withDev (m.modDie d (fun x => { x with calWin := true }))))
    ∧ (x.refclkOk = false → exec (.refclkReturn d) s = .next (s.withDev (m.modDie d (fun x => { x with refclkOk := true, refWait := false, calWin := true }))))
    ∧ (∀ trim, x.calWin = true → exec (.dcntCalibrationEnd d trim) s = .next (s.withDev (m.modDie d (fun x => { x with calWin := false, trim := trim, holdover := false }))))
  )
  ∧
  (
  ∀ (s : State) (sect : BridgeSection), let m := s.dev
    (∃ t, exec .bridgeEccCorrected s = .next t ∧ OnlyEvents m t.dev ∧ t.pending = s.pending)
    ∧ ∃ t, exec (.bridgeEccUncorrectable sect) s = .next t ∧ t.dev.board.sev3 = true
      ∧ t.dev.board.hostFail = (m.board.hostFail || decide (sect = .hostFacing)) ∧ t.dev.board.mgmtFail = (m.board.mgmtFail || decide (sect = .management))
      ∧ OnlyEvents { m with board := { m.board with hostFail := t.dev.board.hostFail, mgmtFail := t.dev.board.mgmtFail } } t.dev
      ∧ (∀ k desc l, exec (.descriptorAccept k desc) t = .next t ∧ exec (.doorbellSnoop k l) t = .next t)
  )

/-! ### Tiles, cubes and W-units at work -/

/-- R73, R119 to R123: a block row of a layer's input, in the order of R120 and with its source written, enters its record in the running
step: the memory form of the BI conversion, all outliers in slots where they fit, else the largest, a lower row first among equals, with the
tiles promoted that the capacity left allows, in placement order. Outliers the slots cannot hold abort a step before commit where ANISE_ABORT
says so, and a stash without room aborts it (R248). A row out of order, or one whose source is not written, waits. Other partitions, the
committed masters and all memory are unchanged.

R106 to R116, R192: a tile pass of a leaf its partition owns, on a tile that serves analog reads, with every sample of every read, enters for
each output of the layer and each row group whose block was not promoted its run: the clamped register under its scales. The reference
columns' samples go to the leaf's tracking interval. Nothing is written in the tile's cells. -/
def Obligations.BlockRowsAndTilePasses : Prop :=
  (
  ∀ (s : State) (p : Pid) (d : DieId) (l row b : Nat) (src : Src) (r : StepRun) (a : Container) (e : LayerEntry),
    let m := s.dev
    let x := m.part p
    let n := widthOf a l b
    x.run = some r → x.almanac = some a → x.layer l = some e →
    (m.readSrc p d a r (min 64 (rowsOf a l - 64 * b)) src = none → exec (.blockRowConversion p d l row b src) s = .next s)
    ∧ (r.nextBlock a l row b = false → exec (.blockRowConversion p d l row b src) s = .next s)
    ∧ (∀ v, m.readSrc p d a r (min 64 (rowsOf a l - 64 * b)) src = some v →
      x.issues = true → m.inService d = true → m.hasOn p d = true → b < blocksOf a l → row < rowsIn a r.tokens l → r.nextBlock a l row b = true →
      let cv := biConvert n (trackerScale a r l n) (v.pad 64).values
      let tiles := if x.digital || r.fallback.contains l then [] else m.consumers p a l
      let room := promoteCap a x.variant l (rowsIn a r.tokens l) e.promotePermille - tget 0 r.promoUsed l
      let fits := cv.outliers.length ≤ e.aniseSlots
      let saturates := ¬ fits ∧ room < tiles.length
      let stashed := ∀ i, (tensorOf a l 1).map (fun t => t.1) = some i → StashFits a x.variant d.val r i
      ∃ t, exec (.blockRowConversion p d l row b src) s = .next t ∧ t.pending = s.pending ∧ KeepsCommitted p m t.dev
        ∧ (∀ c, (t.dev.die c).sram = (m.die c).sram)
        ∧ (¬ stashed ∨ (saturates ∧ aniseAbort e = true ∧ r.isForward = false) → (t.dev.part p).run = none ∧ (t.dev.part p).lastOutcome = 3)
        ∧ (stashed → ¬ (saturates ∧ aniseAbort e = true ∧ r.isForward = false) → ∃ r1 k, (t.dev.part p).run = some r1 ∧ tget BiBlock.empty r1.blocks (brkey l row b) = k
          ∧ (∀ c, (t.dev.die c).tiles = (m.die c).tiles) ∧ (∀ q, q ≠ brkey l row b → tget BiBlock.empty r1.blocks q = tget BiBlock.empty r.blocks q)
          ∧ k.bytes = biPack n cv.codes cv.scale ∧ (1 ≤ n → n ≤ 8 → k.codes = cv.codes ∧ k.scale = cv.scale)
          ∧ k.outliers.map (fun o => o.1) = cv.outliers.map (fun o => o.1)
          ∧ (fits → tiles ≠ [] → k.slots = k.outliers ∧ k.promoted = [] ∧ k.tileCodes = cv.codes ∧ tget 0 r1.promoUsed l = tget 0 r.promoUsed l)
          ∧ (¬ fits → tiles ≠ [] → k.slots.map (fun o => o.1) = (largestOutliers e.aniseSlots cv.outliers).map (fun o => o.1)
            ∧ k.promoted = (tiles.take room).map (fun t => tileKey t.1 t.2)
            ∧ tget 0 r1.promoUsed l = tget 0 r.promoUsed l + min room tiles.length)
          ∧ (saturates → r1.saturated = true) ∧ (¬ saturates → r1.saturated = r.saturated)))
  )
  ∧
  (
  ∀ (s : State) (p : Pid) (d : DieId) (t : TileId) (l : LeafId) (layer row : Nat) (groups : BitVec 4) (ss : List ColSample)
    (r : StepRun) (a : Container) (e : LayerEntry),
    let m := s.dev
    let x := m.part p
    let y := (m.die d).tile t.val
    let runs := (m.die d).leafRuns a x.variant d.val t.val l.val
    let phys (n q : Nat) : Nat := (m.die (Fin.ofNat 8 n)).phys q
    let sampled := sampledTile a x r phys d.val t.val layer
    x.run = some r → x.almanac = some a → x.layer layer = some e → x.issues = true → m.inService d = true →
    (m.die d).analogOk t.val l = true → m.owner (resLeaf d t.val l.val) = some p → m.owner (resTile d t.val) = some p →
    (m.die d).rot.tile ≠ some t.val → (∃ g ∈ runs, g.layer = layer) → y.win = none →
    (passWhole a r y e row groups ss layer runs = false ∨ ((x.digital = true ∨ layer ∈ r.fallback) ∧ sampled = false) →
      exec (.tilePass p d t l layer row groups ss) s = .next s)
    ∧ (passWhole a r y e row groups ss layer runs = true → ((x.digital = false ∧ layer ∉ r.fallback) ∨ sampled = true) →
      let vs := passRuns x r y (y.leaf l) e (tileKey d t.val) row groups ss layer runs
      let clips := (ss.map (fun c => clippedIn c.fine c.codes)).foldl (· + ·) 0
      let strobe := holdChoice ((m.die d).tempAt t.val) y.hold5
      ∃ u, exec (.tilePass p d t l layer row groups ss) s = .next u
        ∧ (u.dev.die d).tile t.val = ({ y with activeLeaf := l, passLeaf := l, hold5 := strobe } : Tile).modLeaf l (fun f =>
            (refPhasesOf r e row groups ss layer).foldl (Leaf.gather y ((m.die d).tempAt t.val)) f)
        ∧ (∀ j ≠ t.val, (u.dev.die d).tile j = (m.die d).tile j)
        ∧ (u.dev.die d).counter .clip = satAdd32 ((m.die d).counter .clip) clips
        ∧ (u.dev.die d).counter (.ovf p layer 5 0) = satAdd32 ((m.die d).counter (.ovf p layer 5 0)) (vs.filter (fun v => v.clamped)).length
        ∧ u = (s.withDev (((m.modDie d (fun z => { z with tiles := (u.dev.die d).tiles, cnt := (u.dev.die d).cnt, phaseM := (u.dev.die d).phaseM })).drawn 1).modRun p (fun r =>
            { r with phase := max r.phase 2, runs := tsetAll none r.runs (vs.map (fun v => (runkey layer row v.out v.group, some v.val))),
                     clippedRuns := (r.clippedRuns ++ (vs.filter (fun v => v.clipped)).map (fun v => runkey layer row v.out v.group)).eraseDups,
                     sampled := if sampled && !r.probing then tsetAll none r.sampled (vs.map (fun v =>
                       (runkey layer row v.out v.group, some (sampleRun a x (m.die d) d.val t.val (y.leaf l) layer v)))) else r.sampled })))
        ∧ (∀ g o lane bl, r.block layer row g = some bl → passRun x r y (y.leaf l) e (tileKey d t.val) row ss layer o lane g =
            if tileKey d t.val ∈ bl.promoted then none
            else some (forwardRun (max (-(2 ^ 23 - 1)) (min (2 ^ 23 - 1) (runRegister y (y.leaf l) e bl.width bl.tileCodes ss g lane))) bl.scale (tget 0 x.com.scales (bkey layer o g)),
              decide (2 ^ 23 - 1 < (runRegister y (y.leaf l) e bl.width bl.tileCodes ss g lane).natAbs), runClipped y e bl.width ss g lane)))
  )

/-- R208, R214, R219, R234: an operation issued to an idle cube in service of its owner's group begins, its accumulators at its kind's
initial value, with the kept half before it where ACC_KEEP names one; one that keeps a half of another kind or pass, or whose result half is
not released, does not start. A free operand half whose source is written is loaded and marked full, and a run whose two halves are full is
consumed: its products enter the accumulators and the halves are free again; the last run puts the result in its half. A half still full,
or a source not yet written, waits (R219, R220).

R213, R214: the sums of a reduction's segments are joined by the tree, from the result halves of the cubes that hold them; the product goes
to stage SRAM, to a converted tensor, to the layer's outputs or into the weight gradient as the schedule says, and the halves are released. -/
def Obligations.CubeOperationsIssueRunAndComplete : Prop :=
  (
  ∀ (s : State) (d : DieId) (c : CubeId), let m := s.dev
    let n := m.cubeFor d c.val
    let u := (m.die d).cube n
    m.inService d = true →
    (∀ op : CubeDesc, (m.part op.owner).issues = true → m.owner (resGroup d (n / 16)) = some op.owner → u.st = .inService → u.op = none →
      let fresh (part : List (List Word)) : Cube := { u with op := some op, acc := List.replicate 64 (initAcc op.kind), part := part, runsDone := 0 }
      let begins (v : Cube) : Prop :=
        exec (.cubeOperation d c op) s = .next (s.withDev (m.modDie d (fun z => (z.modCube n (fun _ => v)).count (.mce 2) (if n = c.val then 0 else 1))))
      ((u.kept op.resHalf).owner ≠ none → exec (.cubeOperation d c op) s = .next s)
      ∧ ((u.kept op.resHalf).owner = none → op.accKeep = none → begins (fresh []))
      ∧ ((u.kept op.resHalf).owner = none → ∀ h, op.accKeep = some h →
        ((∃ k, (u.kept h).kind = some k ∧ sameKind op.kind k = true) → (u.kept h).backward = op.backward →
          begins (fresh [laidOut op.outT (joinSegments op.kind ((u.kept h).part ++ [(u.kept h).vals]))]))
        ∧ ((∀ k, (u.kept h).kind = some k → sameKind op.kind k = false) ∨ (u.kept h).backward ≠ op.backward → exec (.cubeOperation d c op) s = .next s)))
    ∧ (∀ sideB half src op r a, u.op = some op → (m.part op.owner).run = some r → (m.part op.owner).almanac = some a → (m.part op.owner).st = .running →
      let late := (opndLayer src).filter (stashWaits a r)
      ((u.opnd sideB half).full = true → exec (.operandHalfFull d c sideB half src) s = .next s)
      ∧ ((u.opnd sideB half).full = false → ∀ l, late = some l → exec (.operandHalfFull d c sideB half src) s = .next (s.withDev (m.lateStash op.owner l)))
      ∧ ((u.opnd sideB half).full = false → late = none → m.readOpnd op.owner d a r src = none → exec (.operandHalfFull d c sideB half src) s = .next s)
      ∧ ((u.opnd sideB half).full = false → late = none → ∀ h, m.readOpnd op.owner d a r src = some h →
        let loaded : Cube := u.load sideB half h.half
        ∃ t, exec (.operandHalfFull d c sideB half src) s = .next t ∧ (t.dev.die d).cube n = loaded.advance
          ∧ (∀ j ≠ n, (t.dev.die d).cube j = (m.die d).cube j)
          ∧ t = (s.withDev (((m.modDie d (fun z => { z with cubes := (t.dev.die d).cubes, stepM := (t.dev.die d).stepM, cnt := (t.dev.die d).cnt })).drawn 1).modRun op.owner
              (fun r => { r with digRuns := tsetAll false r.digRuns (h.dig.map (fun k => (k, true))) })))
          ∧ ((loaded.halfA u.runsDone).full = true → (loaded.halfB u.runsDone).full = true →
            let v := (t.dev.die d).cube n
            (u.runsDone + 1 < op.runs → (loaded.halfA (u.runsDone + 1)).full = false →
              v.runsDone = u.runsDone + 1 ∧ v.acc = accRun op (loaded.halfA u.runsDone) (loaded.halfB u.runsDone) 64 u.acc
                ∧ v.runRegs = regRun op (loaded.halfA u.runsDone) (loaded.halfB u.runsDone) 64 u.runRegs
                ∧ (v.halfA u.runsDone).full = false ∧ (v.halfB u.runsDone).full = false ∧ v.res0 = u.res0 ∧ v.res1 = u.res1)
            ∧ (u.runsDone + 1 = op.runs → v.op = none
                ∧ v.kept op.resHalf = {
                  kind := some op.kind, backward := op.backward, part := u.part.map (laidOut op.outT), owner := some op.owner,
                  vals := laidOut op.outT (accRun op (loaded.halfA u.runsDone) (loaded.halfB u.runsDone) op.lastLen u.acc) }
                ∧ v.kept (1 - op.resHalf) = u.kept (1 - op.resHalf)))))
  )
  ∧
  (
  ∀ (s : State) (out : ResRef) (segs : List ResRef) (k : CubeKind) (p : Pid) (r : StepRun) (a : Container), let m := s.dev
    let own := m.resHalf out
    let x := m.part p
    own.kind = some k → own.owner = some p → x.run = some r → x.almanac = some a → x.st = .running → m.inService out.die = true →
    (∀ f ∈ segs, m.inService f.die = true ∧ (m.resHalf f).owner = some p ∧ (m.resHalf f).backward = own.backward
      ∧ ∃ j, (m.resHalf f).kind = some j ∧ sameKind k j = true) →
    let vs := joinSegments k ((segs.map m.resHalf ++ [own]).flatMap (fun h => h.part ++ [h.vals]))
    let freed (t : State) : Prop := (∀ f ∈ segs ++ [out], ((t.dev.die f.die).cube (m.resCube f)).kept f.half = { m.resHalf f with owner := none })
      ∧ (∀ c n h, (∀ f ∈ segs ++ [out], f.die = c → m.resCube f = n → f.half ≠ h) → ((t.dev.die c).cube n).kept h = ((m.die c).cube n).kept h)
      ∧ ∀ c, t.dev.die c = { m.die c with cubes := (t.dev.die c).cubes, sram := (t.dev.die c).sram, pieces := (t.dev.die c).pieces, cnt := (t.dev.die c).cnt }
    let stored (t : State) (addr : Nat) (bs : List Byte) : Prop := SramHolds (t.dev.die out.die) addr bs
      ∧ SramElsewhere (m.die out.die) (t.dev.die out.die) addr bs.length ∧ ∀ c ≠ out.die, (t.dev.die c).sram = (m.die c).sram
    (∀ addr, addr + 256 ≤ Config.sramBytes → ∃ t, exec (.cubeOperationComplete out segs (.sram addr)) s = .next t ∧ freed t
      ∧ stored t addr (vs.flatMap (fun w => leBytes w 4)) ∧ t = (s.withDev { m with dies := t.dev.dies }))
    ∧ (∀ l o i, ∃ t, exec (.cubeOperationComplete out segs (.weightGrad l o i)) s = .next t ∧ freed t
      ∧ t = (s.withDev { m.modRun p (fun r => { r with
          phase := max r.phase 4
          grads := tsetAll none r.grads ((vs.zipIdx.filter (fun v => decide (o + v.2 % 8 < outsOf a l) && decide (i + v.2 / 8 < rowsOf a l))).map
            (fun v => (wkey l (o + v.2 % 8) (i + v.2 / 8), some v.1))) }) with dies := t.dev.dies }))
    ∧ (∀ ent row0 col0 cols addr e, grdEntry a ent = some e → addr + 64 ≤ Config.sramBytes →
      ∃ t, exec (.cubeOperationComplete out segs (.toNG8 ent row0 col0 cols addr)) s = .next t ∧ freed t
        ∧ stored t addr (vs.zipIdx.map (fun v => (ng8At a r.number e (tget 0 r.scale e.1) ((row0 + v.2 / 8) * cols + col0 + v.2 % 8) v.1).1)))
    ∧ (∀ l addr e, tensorOf a l 0 = some e → StashFits a x.variant out.die.val r e.1 → addr + 64 ≤ Config.sramBytes →
      ∃ t, exec (.cubeOperationComplete out segs (.toNF8 l addr)) s = .next t ∧ freed t
        ∧ stored t addr (vs.map (fun v => (toNF8 (tget 0 r.scale e.1) (f32 v)).1)))
    ∧ (∀ l row o addr, m.forwardTile p a r l row o vs = none → exec (.cubeOperationComplete out segs (.forwardOut l row o addr)) s = .next s)
    ∧ (∀ l row o addr ys, m.forwardTile p a r l row o vs = some ys → (∀ e, tensorOf a l 0 = some e → StashFits a x.variant out.die.val r e.1) →
      ∃ t r1, exec (.cubeOperationComplete out segs (.forwardOut l row o addr)) s = .next t ∧ freed t ∧ (t.dev.part p).run = some r1
        ∧ r1.outs = tsetAll none r.outs (ys.map (fun y => (wkey l y.row y.out, some y.val))) ∧ r1.grads = r.grads)
  )

/-- R234: a parity error in a cube or W-unit. It reruns the operation from its start; the second within a step also retires the unit in module
flash and passes its work to its takeover, and with no unit left to take over the owner's job stops. A retired unit has no work to fault.

R364 to R367: a slice takes out the unit whose turn it is, with rotation on, something for its class to run, no unit of its class out and TST
not held by a power-state entry (R422); what it was doing stays its own. A pass puts it back, zeroed if it is a cube, and its visit ends with its last slice; one failure counts and is run
again, and the second in a row is its class's outcome: a tile is due to retire, a cube or W-unit is retired, a lane fails. -/
def Obligations.UnitParityErrorsAndTestSlices : Prop :=
  (
  ∀ (s : State) (d : DieId) (n : Nat), s.dev.inService d = true → let m := s.dev
    let c := (m.die d).cube n
    let u := (m.die d).wunit n
    (n < 1024 → c.st ≠ .retired → ∃ t, exec (.unitParityError d true n) s = .next t
      ∧ (t.dev.die d).counter (.mce 0) = satAdd32 ((m.die d).counter (.mce 0)) 1 ∧ (t.dev.die d).counter (.mce 1) = satAdd32 ((m.die d).counter (.mce 1)) 1
      ∧ (c.faults = 0 → (t.dev.die d).cube n = Cube.again c ∧ t.dev.parts = m.parts)
      ∧ (c.faults ≠ 0 → ((t.dev.die d).cube n).st = .retired
        ∧ ((m.cubeTakeover d n).isSome = true → (t.dev.die d).cube n = { Cube.again c with st := .retired }
          ∧ (c.busy = false → t.dev.cubeFor d n = ((m.cubeAfter d n (fun k => decide (k.shown = .inService))).map (fun k => k.1)).getD n) ∧ (c.busy = true → t.dev.cubeFor d n = n))
        ∧ tget false t.dev.flash.cubesRet (d.val * 1024 + n) = true
        ∧ ((m.cubeTakeover d n).isSome = true → t.dev.parts = m.parts)
        ∧ (∀ p, m.cubeTakeover d n = none → m.owner (resGroup d (n / 16)) = some p → (m.part p).hasJob = true → (t.dev.part p).st = .stopped))
      ∧ ∀ j ≠ n, ((t.dev.die d).cube j).st = ((m.die d).cube j).st)
    ∧ (n < 64 → u.st ≠ .retired → ∃ t, exec (.unitParityError d false n) s = .next t
      ∧ (u.faults = 0 → (t.dev.die d).wunit n = { u with faults := 1, reruns := rerunUp u.reruns } ∧ t.dev.parts = m.parts)
      ∧ (u.faults ≠ 0 → (t.dev.die d).wunit n = { u with faults := u.faults + 1, reruns := rerunUp u.reruns, st := .retired }
        ∧ tget false t.dev.flash.wunitsRet (d.val * 64 + n) = true
        ∧ ((m.wunitTakeover d n).isSome = true → t.dev.parts = m.parts ∧ t.dev.wunitFor d n = (m.wunitTakeover d n).getD n)
        ∧ (∀ p, m.wunitTakeover d n = none → m.owner (resWunit d n) = some p → (m.part p).hasJob = true → (t.dev.part p).st = .stopped))
      ∧ ∀ j ≠ n, (t.dev.die d).wunit j = (m.die d).wunit j)
    ∧ (n < 1024 → c.st = .retired → exec (.unitParityError d true n) s = .next s) ∧ (n < 64 → u.st = .retired → exec (.unitParityError d false n) s = .next s)
  )
  ∧
  (
  ∀ (s : State) (d : DieId) (c : TestClass) (i : Nat), let m := s.dev
    let x := m.die d
    m.inService d = true →
    ((m.reg safTestCfg).getLsbD 2 = false → m.testContent c = true → x.rot.out c = none → x.turn c = some i → x.idleUnit c i = true → m.blockHeld 12 = false →
      ∃ t, exec (.testSliceStart d c i) s = .next t ∧ (t.dev.die d).rot.out c = some i ∧ t = (s.withDev (m.modDie d (fun _ => t.dev.die d)))
        ∧ (t.dev.die d).rot.visitOf c = m.visitFor d c i
        ∧ (c = .cube → (x.cube i).st = .inService → ((t.dev.die d).cube i).st = .inTest) ∧ (t.dev.die d).tiles = x.tiles
        ∧ (c = .tile → (t.dev.die d).cubes = x.cubes ∧ (t.dev.die d).wunits = x.wunits ∧ (t.dev.die d).ports = x.ports))
    ∧ (x.rot.out c = some i → ∀ pattern source,
      (source.toNat ∉ (x.rot.visitOf c).1 → ∀ passed, exec (.testSliceComplete d c passed pattern source) s = .next s)
      ∧ (source.toNat ∈ (x.rot.visitOf c).1 →
      (∃ t, exec (.testSliceComplete d c true pattern source) s = .next t ∧ (t.dev.die d).rot.out c = none ∧ (t.dev.die d).rot.fails = x.rot.fails
        ∧ t.dev.parts = m.parts
        ∧ (c = .cube → (x.cube i).st = .inTest → ((t.dev.die d).cube i).st = .inService
          ∧ { ((t.dev.die d).cube i) with visits := (x.cube i).visits } = { (x.cube i).zeroed with st := .inService })
        ∧ ((x.rot.visitOf c).2 ≤ 1 → (t.dev.die d).rot.next c = (i + 1) % classUnits c ∧ (t.dev.die d).rot.visitOf c = ([], 0))
        ∧ (1 < (x.rot.visitOf c).2 → (t.dev.die d).rot.next c = i ∧ (t.dev.die d).rot.visitOf c = ((x.rot.visitOf c).1, (x.rot.visitOf c).2 - 1)))
      ∧ (∃ t, exec (.testSliceComplete d c false pattern source) s = .next t ∧ (t.dev.die d).rot.out c = none
        ∧ (t.dev.die d).rot.fails = BitVec.ofNat 16 (min (x.rot.fails.toNat + 1) 0xFFFF)
        ∧ (x.rot.retry c = false → (t.dev.die d).rot.retry c = true ∧ (t.dev.die d).rot.next c = i ∧ (c = .tile ∨ c = .lane → t.dev.parts = m.parts))
        ∧ (x.rot.retry c = true → (t.dev.die d).rot.next c = (i + 1) % classUnits c ∧ (c = .tile → ((t.dev.die d).tile i).retireDue = true)
          ∧ (c = .cube → ((t.dev.die d).cube i).st = .retired) ∧ (c = .wunit → ((t.dev.die d).wunit i).st = .retired)))))
  )

/-- R221 to R226, R230, R260, R261: an operation of a W-unit of the step's partition, its sources written. One with values or codes to store
writes them at its address and no other byte; a loss row also enters its term and a normalisation's backward row the terms of its gain;
accumulation adds a layer's whole gradient once; the norm pass forms the shard's total, and in a job of one device the clip factor; an update
moves a weight's master and optimiser words. The committed state is unchanged. With a source not written it waits (R220), and for stash not
yet prefetched it waits too (R249).

R286, R249: a gather moves the rows its index table names, zero rows after them, once in a step; entries beyond its CAPACITY are counted as
dropped, with EV-RING-01 once in the step. A share of a layer's tier-3 stash is prefetched as far as its turn and the area's room allow. -/
def Obligations.WUnitOperationsGatherAndPrefetch : Prop :=
  (
  ∀ (s : State) (d : DieId) (w : WUnitId) (p : Pid) (op : WOp) (r : StepRun) (a : Container), let m := s.dev
    let x := m.part p
    let n := m.wunitFor d w.val
    x.run = some r → x.almanac = some a → x.issues = true → m.inService d = true → m.owner (resWunit d n) = some p → ((m.die d).wunit n).st = .inService →
    let late := ((opSrcs op).filterMap srcLayer).find? (stashWaits a r)
    let row (k : Nat) (src : Src) : Option (List Word) := m.readRow p d a r k src
    let words (addr : Nat) (v : Option (List Word)) : Option (List Byte × Nat) := v.map (fun ws => (ws.flatMap (fun w => leBytes w 4), addr))
    let stored : Option (List Byte × Nat) := match op with
      | .lanes f k y z v addr => let c := if wideIn f then 2 * k else k
        words addr ((row c y).bind (fun y => (row c z).bind (fun z => (row c v).map (fun v => lanesRow f k y z v))))
      | .program i k ys addr => words addr (a.programs[i]?.bind (fun g => (allSome (ys.map (row k))).map (fun ys => programRow g k ys)))
      | .rowSum k y addr => words addr ((row k y).map (fun y => [rowSum y]))
      | .rowMax k y addr => words addr ((row k y).map (fun y => [rowMax y]))
      | .rowMin k y addr => words addr ((row k y).map (fun y => [rowMin y]))
      | .normForward i k y g addr => words addr (a.norms[i]?.bind (fun e => (row k y).bind (fun y => (row k g).map (fun g => normForward e y g))))
      | .normBackward i k y g dy _ addr => words addr (a.norms[i]?.bind (fun e => (row k y).bind (fun y => (row k g).bind (fun g =>
          (row k dy).map (fun dy => (normBackward e y g dy).1)))))
      | .softmaxForward k pat i z addr => words addr ((row k z).map (fun z => softForward z (maskOf a pat i k)))
      | .softmaxBackward k pat i z dp addr => words addr ((row k z).bind (fun z => (row k dp).map (fun dp => softBackward z (maskOf a pat i k) dp)))
      | .lossRow i ent addr => words addr ((r.outputRow a (a.layerTab.length - 1) i 0 (outsOf a (a.layerTab.length - 1))).bind (fun z =>
          r.index[ent]?.map (fun t => (lossParts a.job.lscale z.words t.toNat).2)))
      | .dropout ent first k y addr => words addr (a.tensorTab[ent]?.bind (fun e => (row k y).map (fun y =>
          if e.cls = 0 then dropoutRow a r.number (ent, e) first y else y)))
      | .generate l stream site block word addr => some (bytes16 (aes128 (jobKey a) (counterBlock r.number l stream site block word)), addr)
      | .toBin16 k y addr => (row k y).map (fun y => (y.flatMap (fun v => leBytes (rne16 (f32 v)) 2), addr))
      | .toNF8 ent k y addr => words addr (a.tensorTab[ent]?.bind (fun e => if e.cls = 0 then none else row k y))
      | .toNG8 _ ent first k y addr => (row k y).map (fun y => (match grdEntry a ent with
          | some e => y.zipIdx.map (fun v => (ng8At a r.number e (tget 0 r.scale e.1) (first + v.2) v.1).1)
          | none => y.map (fun v => (toNG8 (expFor maxNG8 (f32 (amaxOf y))).1 false none (f32 v)).1), addr))
      | _ => none
    (∀ l, late = some l → exec (.wUnitOperation d w p op) s = .next (s.withDev (m.lateStash p l)))
    ∧ (late = none → m.runWOp p d a r op = none → exec (.wUnitOperation d w p op) s = .next s)
    ∧ (late = none → ∀ bs addr, stored = some (bs, addr) → addr + bs.length ≤ Config.sramBytes →
      ∃ t, exec (.wUnitOperation d w p op) s = .next t ∧ t.pending = s.pending ∧ (t.dev.part p).com = x.com ∧ (∀ q ≠ p, t.dev.part q = m.part q)
        ∧ SramHolds (t.dev.die d) addr bs ∧ SramElsewhere (m.die d) (t.dev.die d) addr bs.length ∧ ∀ c ≠ d, t.dev.die c = m.die c)
    ∧ (∀ i ent addr z e, op = .lossRow i ent addr → r.outputRow a (a.layerTab.length - 1) i 0 (outsOf a (a.layerTab.length - 1)) = some z → r.index[ent]? = some e →
      ∃ t r1, exec (.wUnitOperation d w p op) s = .next t ∧ (t.dev.part p).run = some r1
        ∧ r1.lossTerms = tset none r.lossTerms i (some (lossParts a.job.lscale z.words e.toNat).1))
    ∧ (late = none → ∀ i k y g dy base addr e ys gs dys, op = .normBackward i k y g dy base addr → a.norms[i]? = some e → row k y = some ys → row k g = some gs →
      row k dy = some dys → ∃ t r1, exec (.wUnitOperation d w p op) s = .next t ∧ (t.dev.part p).run = some r1
        ∧ r1.dg = (normBackward e ys gs dys).2.zipIdx.foldl (fun t v => tset 0 t (base + v.2) (add32 (tget 0 t (base + v.2)) v.1)) r.dg)
    ∧ (late = none → ∀ ent k y addr e ys, op = .toNF8 ent k y addr → a.tensorTab[ent]? = some e → e.cls = 0 → row k y = some ys →
      StashFits a x.variant d.val r ent → addr + ys.length ≤ Config.sramBytes →
      ∃ t, exec (.wUnitOperation d w p op) s = .next t ∧ SramHolds (t.dev.die d) addr (ys.map (fun v => (toNF8 (tget 0 r.scale ent) (f32 v)).1))
        ∧ SramElsewhere (m.die d) (t.dev.die d) addr ys.length)
    ∧ (∀ l, op = .accumulate l → r.isForward = false → r.probing = false → r.accDone.contains l = false → trained a l = true →
      (∀ e ∈ weightsOf a l, tget none r.grads (wkey l e.1 e.2) ≠ none) →
      ∃ t r1, exec (.wUnitOperation d w p op) s = .next t ∧ (t.dev.part p).com = x.com ∧ (∀ q ≠ p, t.dev.part q = m.part q) ∧ (t.dev.part p).run = some r1
        ∧ r1.accDone = r.accDone ++ [l] ∧ r1.masters = r.masters ∧ r1.grads = r.grads
        ∧ r1.accum = (weightsOf a l).foldl (fun t e => let k := wkey l e.1 e.2; tset 0 t k (add32 (tget 0 t k) ((tget none r.grads k).getD 0))) r.accum)
    ∧ (op = .normTotal → r.isForward = false → r.exchange = true → r.probing = false → allAccumulated a r = true → (a.job.devices = 1 ∨ finalsHeld a x.form r = true) →
      ∃ t r1, exec (.wUnitOperation d w p op) s = .next t ∧ (t.dev.part p).com = x.com ∧ (t.dev.part p).run = some r1 ∧ r1.shard = some (shardNorm a r)
        ∧ (a.job.devices = 1 → r1.norm = some (shardNorm a r) ∧ r1.clip = some (clipFactor a.job.clipNorm (shardNorm a r)))
        ∧ (a.job.devices ≠ 1 → r1.norm = r.norm ∧ r1.clip = r.clip))
    ∧ (∀ l o i e c, op = .update l o i → x.layer l = some e → r.clip = some c → r.isForward = false → r.exchange = true → r.probing = false → x.xch.complete = true →
      trainBit a l o (i / 64) = true → tget false r.updated (wkey l o i) = false →
      let v := updateWeight a r.number l o i e.u c (reducedGrad a r (wkey l o i)) (tget 0 r.masters (wkey l o i))
        ((List.range a.wprog.words).map (fun j => tget 0 r.opt (okey l o i j)))
      ∃ t r1, exec (.wUnitOperation d w p op) s = .next t ∧ (t.dev.part p).com = x.com ∧ (t.dev.part p).run = some r1
        ∧ r1.masters = tset 0 r.masters (wkey l o i) v.master ∧ r1.opt = v.opt.zipIdx.foldl (fun t w => tset 0 t (okey l o i w.2) w.1) r.opt
        ∧ r1.updated = tset false r.updated (wkey l o i) true ∧ r1.accum = r.accum)
  )
  ∧
  (
  ∀ (s : State) (p : Pid) (r : StepRun) (a : Container), let m := s.dev
    (m.part p).run = some r → (m.part p).almanac = some a → (m.part p).issues = true →
    (∀ d gid table src dst g es v, m.inService d = true → gid ∉ r.gathered → a.gathers.find? (fun g => g.gatherId = gid) = some g →
      m.tableOf p d r table = some es → (m.die d).gatherRows p g es src = some v →
      let moved := es.take g.capacity
      ∃ t r1, exec (.gather p d gid table src dst) s = .next t ∧ t.pending = s.pending ∧ (t.dev.part p).run = some r1
        ∧ r1.gathered = r.gathered ++ [gid] ∧ r1.dropped = r.dropped + (es.length - g.capacity) ∧ r1.dropRaised = (r.dropRaised || decide (g.capacity < es.length))
        ∧ (t.dev.part p).com = (m.part p).com ∧ (∀ q ≠ p, t.dev.part q = m.part q)
        ∧ SramElsewhere (m.die d) (t.dev.die d) dst (g.capacity * g.rowBytes)
        ∧ (dst + g.capacity * g.rowBytes ≤ Config.sramBytes → SramHolds (t.dev.die d) dst
            (moved.flatMap (fun i => (m.die d).bytesAt (src + i * g.rowBytes) g.rowBytes) ++ List.replicate ((g.capacity - moved.length) * g.rowBytes) 0))
        ∧ (es.length ≤ g.capacity ∨ r.dropRaised = true → ∀ c, (t.dev.die c).evBuf = (m.die c).evBuf))
    ∧ (∀ l, r.isForward = false → r.probing = false → ∃ r1,
      exec (.stashPrefetch p l) s = .next (s.withDev (m.modRun p (fun _ => r1)))
        ∧ r1 = { r with prefetched := tmod 0 r.prefetched l (· + prefetchNow a (m.part p).variant r l) }
        ∧ tget 0 r1.prefetched l ≤ max (tget 0 r.prefetched l) (tier3Share a r l) ∧ ∀ j ≠ l, tget 0 r1.prefetched j = tget 0 r.prefetched j)
  )

/-! ### The training step -/

/-- R251 to R258: a comparison of an output's runs on a sampled tile counts them in SAMPLED and those beyond the bound in DISAGREE and in the
step, and no run is compared again. The step's last comparison settles its trips: the layers above FB_LIMIT. Those within the fallback budget
enter; beyond it an almanac with an all-digital form replays the step under it, and one without fills the budget, the layers with the most
disagreements first. Which comparison is the last is the model's reading (log entry 114). -/
def Obligations.ShadowComparisonsCountAndSettleTrips : Prop :=
  ∀ (s : State) (p : Pid) (d : DieId) (l row o : Nat) (r : StepRun) (a : Container) (e : LayerEntry), let m := s.dev
    let x := m.part p
    x.run = some r → x.almanac = some a → x.layer l = some e → x.issues = true → m.inService d = true → r.compDone = false → r.probing = false →
    let cs := (List.range (blocksOf a l)).filterMap (fun b =>
      if tget false r.compared (runkey l row o b) then none else (compareRun r (bits x.smpForce 13 8) e l row o b).map (fun v => (b, v)))
    let bad := (cs.filter (fun c => c.2)).length
    let r1 : StepRun := { r with disagree := tmod 0 r.disagree l (· + bad), compared := tsetAll false r.compared (cs.map (fun c => (runkey l row o c.1, true))) }
    let counted := (m.modDie d (fun x => (x.count (.smp p l 0) cs.length).count (.smp p l 1) bad)).modRun p (fun _ => r1)
    let trips := (List.range a.layerTab.length).filter (fun j => (a.layerTab[j]?).any (fun e => decide (e.fbLimit < tget 0 r1.disagree j)))
    let new := trips.filter (fun j => !r.fallback.contains j)
    let fits := r.fallback.length + new.length ≤ a.job.fbBudget
    (counted.comparisonsDone p a r1 = false → exec (.shadowComparison p d l row o) s = .next (s.withDev counted))
    ∧ (counted.comparisonsDone p a r1 = true → r.isForward = true → exec (.shadowComparison p d l row o) s = .next (s.withDev (counted.modRun p (fun _ => { r1 with compDone := true }))))
    ∧ (counted.comparisonsDone p a r1 = true → r.isForward = false →
      ∃ t, exec (.shadowComparison p d l row o) s = .next t ∧ KeepsCommitted p m t.dev ∧ t.pending = s.pending
        ∧ (x.digital = true ∨ trips = [] → ∃ r2, (t.dev.part p).run = some r2 ∧ r2.compDone = true ∧ r2.tripped = trips ∧ r2.entering = r.entering)
        ∧ (x.digital = false → trips ≠ [] → fits → ∃ r2, (t.dev.part p).run = some r2 ∧ r2.compDone = true ∧ r2.tripped = trips ∧ r2.entering = new)
        ∧ (x.digital = false → trips ≠ [] → ¬ fits → carriesDigital a x.variant = true → x.intr = none →
          (t.dev.part p).run = none ∧ (t.dev.part p).digital = true ∧ (t.dev.part p).com.cleanRun = 0
            ∧ ∃ i, (t.dev.part p).intr = some i ∧ i.storm = true ∧ i.action = 7)
        ∧ (x.digital = false → trips ≠ [] → ¬ fits → carriesDigital a x.variant = false → ∃ r2, (t.dev.part p).run = some r2 ∧ r2.exceeded = true
          ∧ r2.tripped = trips ∧ r2.entering = (tripOrder r1 new).take (a.job.fbBudget - r.fallback.length)))

/-- R226, R239, R263: once every loss row of the micro-batch is formed the loss total of a running step is formed from their terms. One that is
not finite raises EV-WUN-04 and counts; the step goes on where it exchanges gradients, and on a step that does not it is aborted before commit.

R220 with R356: a segment deadline of the running schedule that expires is reported and rolls its partition back; one the almanac does not list
for the form in force changes nothing. The rollback is the model's reading (log entry 33). -/
def Obligations.LossTotalAndSegmentDeadlines : Prop :=
  (
  ∀ (s : State) (p : Pid) (r : StepRun) (a : Container), let m := s.dev
    (m.part p).run = some r → (m.part p).almanac = some a → (m.part p).issues = true → r.loss = none → r.probing = false →
    (lossRows a r = none → exec (.lossTotalCheck p) s = .next s)
    ∧ ∀ ts, lossRows a r = some ts → let total := lossTotal ts
      ((f64 total).isFinite = true → exec (.lossTotalCheck p) s = .next (s.withDev (m.modRun p (fun r => { r with phase := max r.phase 3, loss := some total }))))
      ∧ ((f64 total).isFinite = false → ∃ t, exec (.lossTotalCheck p) s = .next t ∧ KeepsCommitted p m t.dev
        ∧ (∀ c, m.clockDie = some c → (t.dev.die c).counter (.stepc p 4) = satAdd32 ((m.die c).counter (.stepc p 4)) 1)
        ∧ (r.isForward = true ∨ r.exchange = true → (t.dev.part p).run = some { r with phase := max r.phase 3, loss := some total, lossBad := true })
        ∧ (r.isForward = false → r.exchange = false → (t.dev.part p).run = none ∧ (t.dev.part p).lastOutcome = 3))
  )
  ∧
  (
  ∀ (s : State) (p : Pid) (d : DieId) (n : Nat) (a : Container), let m := s.dev
    let x := m.part p
    let listed := ∃ e ∈ a.deadlines, serves e.variant x.form = true ∧ e.kind = 0 ∧ e.index = n
    let told := m.raiseP (some d) p (evDie (.cdm 5) d)
    x.run.isSome = true → x.almanac = some a → x.st = .running → m.inService d = true →
    (listed → ∃ t, exec (.segmentDeadlineExpiry p d n) s = .next t ∧ t = s.withDev (told.interrupt (some d) p (told.plainIntr 6))
      ∧ Struck 6 x (t.dev.part p) ∧ ∀ q ≠ p, t.dev.part q = m.part q)
    ∧ (¬ listed → exec (.segmentDeadlineExpiry p d n) s = .next s)
  )

/-- R322, R461: at a bucket's arm point, with the gradients of its layers accumulated (R239), its contributions are formed from the accumulation
buffer under the bucket's own exponent and the bucket is armed; with no frame waiting for it nothing else of the step changes.

R326 to R328: the exchange-complete point of a step whose gradients are accumulated and whose exchange is done. In a job of one device a
finite gradient completes it, and one that is not skips the step or rolls it back as the almanac says; otherwise the point is marked,
and the device at position 0 of the closing ring sends its CLOSE_REDUCE. Before the point nothing happens. -/
def Obligations.ContributionsAndExchangeComplete : Prop :=
  (
  ∀ (s : State) (p : Pid) (b : Nat) (r : StepRun) (a : Container) (o : RingOrder) (be : BucketEntry) (g : RingEntry), let m := s.dev
    let x := m.part p
    let es := bucketElems a x.form b
    x.run = some r → x.almanac = some a → x.issues = true → r.isForward = false → r.exchange = true → r.probing = false → b ∉ r.armed → x.xch.complete = false →
    ringOrderOf a x.form = some o → o.buckets.find? (fun e => e.bucket = b) = some be → o.rings.find? (fun e => e.ring = be.ring) = some g →
    ((∃ e ∈ es, e.1 ∉ r.accDone) → exec (.bucketArm p b) s = .next s)
    ∧ ((∀ e ∈ es, e.1 ∈ r.accDone) → (∀ q ∈ m.portsOf p, ((m.die q.1).port q.2).held = []) →
      ∃ t, exec (.bucketArm p b) s = .next t ∧ KeepsCommitted p m t.dev
      ∧ (t.dev.part p).run = some { r with phase := max r.phase 5, armed := r.armed ++ [b], contrib := (contribute a x.form b r).1.contrib, kBucket := (contribute a x.form b r).1.kBucket }
      ∧ tget 0 (contribute a x.form b r).1.kBucket b = (expFor maxNG8 (f32 (amaxOf (es.map (fun e => tget 0 r.accum (wkey e.1 e.2.1 e.2.2)))))).1)
  )
  ∧
  (
  ∀ (s : State) (p : Pid) (r : StepRun) (a : Container), let m := s.dev
    let x := m.part p
    let done := (∀ l < a.layerTab.length, trained a l = true → l ∈ r.accDone) ∧ exchangeDone a x.form x.xch r = true
      ∧ (r.exchange = true → a.job.devices ≠ 1 → r.shard.isSome = true)
    x.run = some r → x.almanac = some a → x.issues = true → r.isForward = false → r.probing = false → x.xch.complete = false →
    (¬ done → exec (.exchangeCompletePoint p) s = .next s)
    ∧ (done → a.job.devices = 1 →
      (ownFinite a r = true → exec (.exchangeCompletePoint p) s = .next (s.withDev ((m.modRun p (fun r => { r with phase := max r.phase 5 })).modPart p
          (fun x => { x with xch := { x.xch with complete := true } }))))
      ∧ (ownFinite a r = false → ∃ t, exec (.exchangeCompletePoint p) s = .next t ∧ KeepsCommitted p m t.dev
        ∧ (a.job.policy.getLsbD 0 = true → (t.dev.part p).run = none ∧ (t.dev.part p).lastOutcome = 4)
        ∧ (a.job.policy.getLsbD 0 = false → x.intr = none → (t.dev.part p).run = none ∧ (t.dev.part p).lastOutcome = 5 ∧ (t.dev.part p).intr.isSome = true)))
    ∧ (∀ g, done → a.job.devices ≠ 1 → closingRing a x.form = some g → (∀ q ∈ m.portsOf p, ((m.die q.1).port q.2).held = []) → (g.pos = 0 → 2 ≤ g.n) →
      ∃ t, exec (.exchangeCompletePoint p) s = .next t ∧ KeepsCommitted p m t.dev ∧ (t.dev.part p).xch.complete = true
        ∧ (t.dev.part p).run = some { r with phase := max r.phase 5 }
        ∧ (g.pos = 0 → x.xch.expelled = false → sentFrame (t.dev.part p).xch.record 3 g.ring 0 0 0 = true))
  )

/-- R243, R267: the commit decision is taken when the step's loss, passes, comparisons, cube operations, gathers, accumulation, exchange and
updates are complete and nothing has aborted it or drains it, and not before; a degraded step raises EV-WUN-07 with it. Where the last pass
leaves no comparison to run, the trips are settled first.

R241, R244, R260, R267 to R269, R302: at the commit point the step's working values become the partition's committed ones: on an exchange step
masters, optimiser state, norm and clip factor, with the accumulation buffer cleared; otherwise the accumulation buffer alone. The step
count rises by one, the trackers are valid, the fallback set takes the layers that enter, a reserved slot is published, and the descriptor
completes OK or DEGRADED_NUMERICS under the step's number. Other partitions are unchanged. -/
def Obligations.CommitDecisionAndCommitPoint : Prop :=
  (
  ∀ (s : State) (p : Pid) (r : StepRun) (a : Container), let m := s.dev
    let x := m.part p
    let ready := x.issues = true ∧ r.isForward = false ∧ r.probing = false ∧ r.decided = false ∧ r.abort = none ∧ r.loss.isSome = true
      ∧ m.forwardDone p a r = true ∧ r.compDone = true ∧ m.opsRun p = false ∧ (∀ g ∈ a.gathers, g.gatherId ∈ r.gathered)
      ∧ (∀ l < a.layerTab.length, trained a l = true → l ∈ r.accDone)
      ∧ x.xch.complete = true ∧ (a.job.devices = 1 ∨ r.closeDone = true)
      ∧ (r.exchange = true → r.clip.isSome = true ∧ ∀ e ∈ gradSeq a, trainBit a e.1 e.2.1 (e.2.2 / 64) = true → tget false r.updated (wkey e.1 e.2.1 e.2.2) = true)
    let degraded := r.saturated = true ∨ r.lossBad = true ∨ (x.digital = false ∧ r.tripped ≠ [])
    let decided := m.modRun p (fun r => { r with phase := max r.phase 7, decided := true })
    x.run = some r → x.almanac = some a →
    (r.compDone = true ∨ r.probing = true ∨ m.comparisonsDone p a r = false →
      (¬ ready → exec (.commitDecision p) s = .next s)
      ∧ (ready → ¬ degraded → exec (.commitDecision p) s = .next (s.withDev decided))
      ∧ (ready → degraded → ∃ t, exec (.commitDecision p) s = .next t ∧ OnlyEvents decided t.dev))
    ∧ (x.issues = true → r.isForward = false → r.compDone = false → r.probing = false → m.comparisonsDone p a r = true →
      (∀ l (e : LayerEntry), a.layerTab[l]? = some e → tget 0 r.disagree l ≤ e.fbLimit) →
      exec (.commitDecision p) s = exec (.commitDecision p) (s.withDev (m.modRun p (fun r => { r with compDone := true, tripped := [] }))))
  )
  ∧
  (
  ∀ (s : State) (p : Pid) (r : StepRun) (a : Container), let m := s.dev
    let x := m.part p
    let degraded : Prop := r.saturated = true ∨ r.lossBad = true ∨ (x.digital = false ∧ r.tripped ≠ [])
    x.run = some r → x.almanac = some a → x.st = .running → x.intr = none → r.decided = true →
    ∃ t, exec (.commitPoint p) s = .next t ∧ t.pending = s.pending
      ∧ (∀ q ≠ p, (t.dev.part q).com.masters = (m.part q).com.masters ∧ (t.dev.part q).com.opt = (m.part q).com.opt ∧ (t.dev.part q).com.steps = (m.part q).com.steps
        ∧ (t.dev.part q).st = (m.part q).st ∧ (t.dev.part q).run = (m.part q).run) ∧ (let y := t.dev.part p
      y.run = none ∧ y.almanac = some a ∧ y.epoch = x.epoch ∧ y.com.steps = x.com.steps + 1 ∧ y.com.histValid = true
      ∧ (r.exchange = true → y.com.masters = r.masters ∧ y.com.opt = r.opt ∧ y.com.accum = [] ∧ y.com.norm = r.norm.getD 0 ∧ y.com.clip = r.clip.getD 0x3F800000#32)
      ∧ (r.exchange = false → y.com.masters = x.com.masters ∧ y.com.opt = x.com.opt ∧ y.com.accum = r.accum ∧ y.com.norm = x.com.norm ∧ y.com.clip = x.com.clip)
      ∧ y.com.fallback = (if x.digital then r.fallback else r.fallback ++ r.entering)
      ∧ y.com.cleanRun = (if r.tripped = [] then min (x.com.cleanRun + 1) 0x7FF else 0)
      ∧ (degraded → y.lastOutcome = 2) ∧ (¬ degraded → y.lastOutcome = 1)
      ∧ (m.digest.dForce = 0 → m.digest.dWritten = 0 → y.st = .loaded))
      ∧ (∀ h, (m.ring r.set).head = some h → h.st = .executing → h.desc.opcode = 0x10#8 →
        let slot := h.resv = true ∧ 0 < (m.ring r.set).winSlots
        (∃ g ∈ (t.dev.ring r.set).held, g.index = h.index ∧ ∃ v, g.st = .done g.statusOf 0 r.number v false
          ∧ (v = true ↔ slot) ∧ (degraded → g.statusOf = 0x01) ∧ (¬ degraded → g.statusOf = 0x00))
        ∧ (slot → (t.dev.ring r.set).published = (m.ring r.set).published + 1
          ∧ tget .free (t.dev.ring r.set).slots ((m.ring r.set).published.toNat % (m.ring r.set).winSlots) = .published ((m.ring r.set).published.setWidth 31) (payloadOf x r))
        ∧ (¬ slot → (t.dev.ring r.set).published = (m.ring r.set).published ∧ (t.dev.ring r.set).slots = (m.ring r.set).slots))
  )

/-! ### Intercalary windows -/

/-- R152, R155, R160, R417: a window opens on a tile that may have one, with the next step's almanac or on an idle tile that the cap or work
due allows, and its reservation closes the tile to passes. With nothing to reconcile, remap, scrub or read it admits the queue's groups
from the head while they fit 19.0 µs, each at twice its trains, and none where the die's writing tiles are at their most.

R154, R156, R168, R171, R173: a train that the open window runs takes effect. A group's entries that verified are done and those that failed
are marked to retry; a remap row's spare cells hold the retired column's levels; a refresh and a programming go on to the next row; a sweep
leaves every cell of its leaf at the middle level and adds 2 to the leaf's wear. No weight, epact or code changes before the record. -/
def Obligations.WindowsAdmitGroupsAndTrainsTakeEffect : Prop :=
  (
  ∀ (s : State) (d : DieId) (t : TileId) (reads : WindowReads), let m := s.dev
    let y := (m.die d).tile t.val
    let opened (kind : WinKind) (u : State) : Prop := ∃ w, ((u.dev.die d).tile t.val).win = some w ∧ w.kind = kind
      ∧ (∀ j ≠ t.val, (u.dev.die d).tile j = (m.die d).tile j) ∧ ((u.dev.die d).tile t.val).queue = y.queue
      ∧ u = (s.withDev ((m.modDie d (fun x => { x with tiles := (u.dev.die d).tiles, diag := (u.dev.die d).diag, cnt := (u.dev.die d).cnt, phaseM := (u.dev.die d).phaseM })).drawn 1))
      ∧ (y.leaves.any (fun e => e.2.scrub) = false → y.remaps = [] → y.reconcile = none → (∀ f ∈ reads.refReads, (y.leaf f.leaf).runDue = false) →
        w.groups <+: groupsOf y.queue
        ∧ (w.groups.map (fun g => 2000 * groupTrains (y.queue.filter (inGroup g)))).foldl (· + ·) 0 ≤ 19000
        ∧ (bits ((m.die d).reg clvWrCfg) 28 16 ≤ ((m.die d).tiles.filter (fun e => e.2.writing)).length → w.groups = [])
        ∧ (((m.die d).tiles.filter (fun e => e.2.writing)).length < bits ((m.die d).reg clvWrCfg) 28 16 → y.queue ≠ [] → w.groups ≠ []))
    m.mayOpen d t.val = true →
    ((∀ p, m.owner (resTile d t.val) = some p → (m.part p).almanac.isSome = true → (m.part p).run = none →
      ∃ u, exec (.almanacWindowOpen d t reads) s = .next u ∧ opened .almanac u)
    ∧ (32 ≤ m.effCap d ∨ y.isDue = true → ∃ u, exec (.idleWindowOpen d t reads) s = .next u ∧ opened .idle u)
    ∧ (m.effCap d < 32 → y.isDue = false → exec (.idleWindowOpen d t reads) s = .next s))
  )
  ∧
  (
  ∀ (s : State) (d : DieId) (t : TileId) (n : Nat) (w : Window), let m := s.dev
    let y := (m.die d).tile t.val
    let idle := w.groups = [] ∧ w.remapRows = [] ∧ y.remaps = [] ∧ w.writes = true ∧ w.scrub = false
    m.inService d = true → y.win = some w →
    let runs (work : TrainWork) (fails : List VerifyFail) (u : State) : Prop :=
      exec (.writeTrainComplete d t work n fails) s = .next u ∧ u.dev.parts = m.parts ∧ u.pending = s.pending
        ∧ ∀ j ≠ t.val, (u.dev.die d).tile j = (m.die d).tile j
    (∀ l row f, (l, row) ∈ w.groups → (∀ e, e ∈ f → e.restoreFail = false) →
      (∀ e ∈ y.queue, e.leaf = l → e.row = row → e ∉ w.done → e.retry = false) →
      let hit (e : QEntry) : Prop := e.leaf = l ∧ e.row = row ∧ e ∉ w.done
      ∃ u v, runs (.group l row) f u ∧ ((u.dev.die d).tile t.val).win = some v ∧ v.groups = w.groups.filter (fun g => g ≠ (l, row))
        ∧ ((u.dev.die d).tile t.val).activeLeaf = l
        ∧ (∀ e ∈ y.queue, hit e → (∀ g ∈ f, g.lane ≠ e.lane) → { e with retry := false, failCols := [] } ∈ v.done)
        ∧ (∀ e ∈ y.queue, hit e → (∃ g ∈ f, g.lane = e.lane) →
          { e with retry := true, failCols := (f.filter (fun v => v.lane = e.lane)).map (fun v => v.col) } ∈ ((u.dev.die d).tile t.val).queue)
        ∧ (∀ e ∈ y.queue, ¬ hit e → e ∈ ((u.dev.die d).tile t.val).queue))
    ∧ (∀ r row rest, y.remaps = r :: rest → w.remapRows.head? = some row →
      ∃ u, runs (.remap row) [] u ∧ ∀ l, ((u.dev.die d).leaf t.val l).cells = (if m.colLevel d t.val l row r.col = tget 0 ((m.die d).leaf t.val l).cells (row * 1152 + 1024 + r.spare)
        then ((m.die d).leaf t.val l).cells else tset 0 ((m.die d).leaf t.val l).cells (row * 1152 + 1024 + r.spare) (m.colLevel d t.val l row r.col)))
    ∧ (∀ l row lanes, idle → (y.leaf l).refresh = some row → row < 256 →
      ∃ u, runs (.touchUp l row lanes) [] u ∧ ((u.dev.die d).leaf t.val l).refresh = some (row + 1) ∧ ((u.dev.die d).leaf t.val l).cells = (y.leaf l).cells)
    ∧ (∀ l row, idle → w.rowDone = false → (y.leaf l).prog = some row → row < 256 → (∀ e ∈ y.leaves, ∀ r, e.2.refresh = some r → 256 ≤ r) →
      ∃ u, runs (.programRow l row) [] u ∧ ((u.dev.die d).leaf t.val l).prog = some (row + 1) ∧ ((u.dev.die d).tile t.val).win = some { w with rowDone := true })
    ∧ (∀ l second, w.writes = true → w.scrub = true → (y.leaf l).scrub = true → (y.leaf l).sweeps = (if second then 1 else 0) → (second = true → (y.leaf l).progFail ≠ []) →
      ∃ u, runs (.scrubSweep l second) [] u ∧ ((u.dev.die d).leaf t.val l).cells = [] ∧ ((u.dev.die d).leaf t.val l).sweeps = (y.leaf l).sweeps + 1
        ∧ ((u.dev.die d).leaf t.val l).leafWear = satAdd32 (y.leaf l).leafWear 2)
  )

/-- R157: at a window's close its record takes effect. Its done entries leave the queue, w_p of a done entry's weight is its TARGET, and no master,
optimiser word or step count changes; the window is over.

R168 to R171: a refresh starts when half its leaf's interval has gone by, and one not complete at 1.1 times the interval makes the leaf
overdue, with EV-CLV-10; before those times nothing happens. When the last row of a whole-leaf programming has verified its record takes
effect: every weight's programmed code and its blocks' scales, and the leaf is fresh and programmed, for analog service from its window's close. -/
def Obligations.WindowRecordsAndRefresh : Prop :=
  (
  ∀ (s : State) (d : DieId) (t : TileId) (w : Window), let m := s.dev
    m.inService d = true → ((m.die d).tile t.val).win = some w →
    ∃ u, exec (.windowClose d t) s = .next u ∧ u.pending = s.pending ∧ ((u.dev.die d).tile t.val).win = none
      ∧ (∀ e ∈ w.done, e ∉ ((u.dev.die d).tile t.val).queue)
      ∧ (∀ p, (u.dev.part p).com.masters = (m.part p).com.masters ∧ (u.dev.part p).com.opt = (m.part p).com.opt
        ∧ (u.dev.part p).com.steps = (m.part p).com.steps ∧ (u.dev.part p).run = (m.part p).run)
      ∧ (∀ e p a site, w.done = [e] → m.leafJob d t.val e.leaf = some (p, a) → m.siteAt d t.val e.leaf e.row e.lane = some site →
        tget 0 (u.dev.part p).com.prog site.key = ofTw8 e.target
          ∧ ∀ k, k ≠ site.key → tget 0 (u.dev.part p).com.prog k = tget 0 (m.part p).com.prog k)
  )
  ∧
  (
  ∀ (s : State) (d : DieId) (t : TileId) (l : LeafId), let m := s.dev
    let x := m.die d
    let f := x.leaf t.val l
    let age := (x.dcnt - f.lastFresh).toNat
    m.inService d = true →
    (f.placed = true → f.blank = false → f.prog = none → f.scrub = false → f.refresh = none →
      (refreshNs f.hottest ≤ 2 * age → exec (.refreshDue d t l) s = .next (s.withDev (m.modDie d (fun x => x.modLeaf t.val l (fun f => { f with refresh := some 0 })))))
      ∧ (2 * age < refreshNs f.hottest → exec (.refreshDue d t l) s = .next s))
    ∧ (f.placed = true → f.blank = false → f.overdue = false →
      (11 * refreshNs f.hottest ≤ 10 * age → ∃ u, exec (.refreshOverdue d t l) s = .next u
        ∧ OnlyEvents (m.modDie d (fun x => x.modLeaf t.val l (fun f => { f with overdue := true }))) u.dev)
      ∧ (10 * age < 11 * refreshNs f.hottest → exec (.refreshOverdue d t l) s = .next s))
    ∧ (∀ p a, f.prog = some 256 → m.owner (resLeaf d t.val l.val) = some p → (m.part p).almanac = some a →
      let ss := x.leafSites a (m.part p).variant d.val t.val l.val
      (∀ v ∈ ss, ∀ w ∈ ss, v.key = w.key → v.layer = w.layer) →
      ∃ u, exec (.leafProgramComplete d t l) s = .next u ∧ KeepsCommitted p m u.dev
        ∧ (let g := (u.dev.die d).leaf t.val l
           g.prog = (if (x.tile t.val).win.isSome then some 257 else none) ∧ g.blank = false ∧ g.overdue = false ∧ g.refresh = none
             ∧ g.lastFresh = x.dcnt ∧ g.cal = f.cal)
        ∧ (∀ site ∈ ss, tget 0 (u.dev.part p).com.prog site.key = codeAt a f.progCodes site.layer site.out site.row
          ∧ tget 0 (u.dev.part p).com.scales site.block = tget 0 f.progScales site.block)
        ∧ (∀ k, (∀ site ∈ ss, site.key ≠ k) → tget 0 (u.dev.part p).com.prog k = tget 0 (m.part p).com.prog k))
  )

/-! ### Converters, reference and calibration -/

/-- R185, R186, R188, R421: a monitor round's readings are those its channels hold, and a sensor at 105 °C or more brings the die to 0.65 V and a
thermal cap of 16/64; a comparison of the references finds which one differs, holdover begins with REFV alone and ends after ten agreeing
checks, and a converter with no two agreeing is failed; an analog supply out of range is a fault until it has recovered.

R187, R188, R192 to R194: a converter's new correction, from its samples of ZERO, PFS and NFS, waits for the tile's next window, a column
converter's measured in a window alone, and a pipeline converter beyond its limits makes the tile due to retire; a tracking interval's end
finds reference columns unhealthy and starts a live leaf's values; a new K within 1 % of the last
is ready for the next window and one further off is rejected while the temperature held, the third time in a row retiring the tile; a live
leaf whose newest value is too old is due a reference read. -/
def Obligations.MonitorConvertersAndTracking : Prop :=
  (
  ∀ (s : State) (d : DieId), let m := s.dev
    let x := m.die d
    m.inService d = true → x.analog = true → x.mon.fail = false →
    (∀ rs : List Int, rs.length = 24 → ∃ t, exec (.monitorRound d rs) s = .next t ∧ t.pending = s.pending ∧ t.dev.parts = m.parts
      ∧ (∀ e ≠ d, t.dev.die e = m.die e) ∧ (∀ i < 24, tget 0 (t.dev.die d).mon.readings (if i < 8 then i else i + 8) = rs.getD i 0)
      ∧ (t.dev.die d).mon.refv = BitVec.ofInt 17 (10 * rs.headD 0)
      ∧ (x.hot = false → (∃ v ∈ rs.drop 8, 1680 ≤ v) → (t.dev.die d).hot = true ∧ (t.dev.die d).thermCap = 16 ∧ (t.dev.die d).vddMv = 650)
      ∧ ((∀ v ∈ rs.drop 8, v < 1680) → (t.dev.die d).hot = x.hot ∧ (t.dev.die d).thermCap = x.thermCap ∧ (t.dev.die d).evBuf = x.evBuf))
    ∧ (∀ refv band vref : Nat,
      let near (a b : Nat) : Prop := 200 * ((a : Int) - b).natAbs ≤ b
      let rb := near (band * 1000000) (refv * x.bandRatio)
      let rv := near (vref * 125000) (refv * 100000)
      let bv := near (vref * (125000 * x.bandRatio)) (band * 100000000000)
      ∃ t, exec (.referenceComparison d refv band vref) s = .next t ∧ (let y := (t.dev.die d).mon
        t.dev.parts = m.parts ∧ y.readings = x.mon.readings ∧ (rb ∧ rv ∧ bv ↔ y.refvOk = true)
        ∧ (bv → ¬ rb → ¬ rv → y.holdover = true) ∧ (rb → rv → bv → y.holdover = (x.mon.holdover && decide (x.mon.agreeRun + 1 < 10)) ∧ y.agreeRun = x.mon.agreeRun + 1)
        ∧ (¬ rb → ¬ rv → ¬ bv → y.fail = true) ∧ (rb ∨ rv ∨ bv → y.fail = false)))
    ∧ (let off (n : Nat) : Prop := n * 6000 < 1000 * (tget 0 x.mon.readings 4 - 6000).natAbs ∨ n * 4500 < 1000 * (tget 0 x.mon.readings 5 - 4500).natAbs
      (x.mon.supplyBad = false → off 30 → exec (.analogSupplyFault d) s = .next (s.withDev ((m.modDie d (fun x => { x with mon := { x.mon with supplyBad := true } })).raise (some d) (evDie (.cal 3) d))))
      ∧ (¬ off 30 → exec (.analogSupplyFault d) s = .next s)
      ∧ (¬ off 20 → exec (.analogSupplyRecovered d) s = .next (s.withDev (m.modDie d (fun x => { x with mon := { x.mon with supplyBad := false } }))))
      ∧ (off 20 → exec (.analogSupplyRecovered d) s = .next s))
  )
  ∧
  (
  ∀ (s : State) (d : DieId) (t : TileId) (l : LeafId), let m := s.dev
    let x := m.die d
    let y := x.tile t.val
    let f := y.leaf l
    m.inService d = true →
    let tile (u : State) : Tile := (u.dev.die d).tile t.val
    let only (u : State) : Prop := OnlyEvents (m.modDie d (fun z => z.modTile t.val (fun _ => tile u))) u.dev
    (∀ (n : Nat) (zero pfs nfs : List Int) (rd cnv td : Int), x.analog = true → y.st ≠ .retiredSpare → y.st ≠ .retiredNone →
      zero.length = 256 → pfs.length = 256 → nfs.length = 256 →
      let c := convCodes (decide (1152 ≤ n)) zero pfs nfs
      let clips := clippedIn (decide (1152 ≤ n)) zero + clippedIn (decide (1152 ≤ n)) pfs + clippedIn (decide (1152 ≤ n)) nfs
      let far := (1024 : Int) < c.1.toInt.natAbs ∨ (6553 : Int) < c.2.toInt.natAbs
      let path := x.mon.fail = false ∧ ((900 < (rd - 30000).natAbs ∧ (tget 0 x.mon.readings 4 - 6000).natAbs ≤ 60)
        ∨ (675 < (cnv - 22500).natAbs ∧ (tget 0 x.mon.readings 5 - 4500).natAbs ≤ 45))
      (n < 1152 → y.win = none → exec (.converterRotationComplete d t n zero pfs nfs rd cnv td) s = .next s)
      ∧ ((1152 ≤ n ∧ n < 1292) ∨ (n < 1152 ∧ y.win ≠ none) → ∃ u, exec (.converterRotationComplete d t n zero pfs nfs rd cnv td) s = .next u
        ∧ (tile u).convNext = y.convNext ++ [(n, c)] ∧ (tile u).convO = y.convO ∧ (tile u).convG = y.convG
        ∧ (x.mon.fail = false → OnlyEvents (m.modDie d (fun z => (z.modTile t.val (fun _ => tile u)).count .clip clips)) u.dev)
        ∧ (n < 1152 → (tile u).retireDue = y.retireDue)
        ∧ (1152 ≤ n → tget 0 (tile u).diodes (n - 1152) = td ∧ ((tile u).retireDue = true ↔ y.retireDue = true ∨ far ∨ path))))
    ∧ (f.trackDone = none → exec (.trackingIntervalEnd d t l) s = .next s)
    ∧ (∀ g, f.trackDone = some g → f.placed = true →
      let new := refWord ((g.unhealthy y.refsFound).map (1120 + ·))
      ∃ u, exec (.trackingIntervalEnd d t l) s = .next u ∧ only u
        ∧ (tile u).leaf l = { f with trackDone := none, computing := if f.frozen then none else (g.values (y.refsFound ||| new)).map (fun v =>
            { f.cal with k := v.1, z := v.2, tcal := tempCode g.meanTemp }) }
        ∧ (tile u).refPend = y.refPend ||| new ∧ (tile u).refBad = y.refBad)
    ∧ (∀ c, f.computing = some c →
      let last := y.lastAccepted l
      let jumps := 131072 + last.k.toInt < 100 * (c.k.toInt - last.k.toInt).natAbs ∧ (c.tcal.toInt - last.tcal.toInt).natAbs < 32
      (jumps → ∃ u, exec (.trackingValueReady d t l) s = .next u ∧ only u
        ∧ (tile u).leaf l = { f with computing := none, rejects := f.rejects + 1 } ∧ (tile u).retireDue = (y.retireDue || decide (2 ≤ f.rejects)))
      ∧ (¬ jumps → exec (.trackingValueReady d t l) s = .next (s.withDev (m.modDie d (fun z' => z'.modLeaf t.val l (fun f =>
          { f with computing := none, rejects := 0, newAt := x.dcnt, runDue := false, ready := some { f.cal with k := c.k, z := c.z, tcal := c.tcal } }))))))
    ∧ (f.placed = true → f.frozen = false →
      (bits (x.reg calCfg) 25 16 * 1000000 < (x.dcnt - f.newAt).toNat → exec (.trackingAgeExpired d t l) s = .next (s.withDev (m.modDie d (fun z => z.modLeaf t.val l (fun f => { f with runDue := true })))))
      ∧ ((x.dcnt - f.newAt).toNat ≤ bits (x.reg calCfg) 25 16 * 1000000 → exec (.trackingAgeExpired d t l) s = .next s))
  )

/-- R200, R201, R206: a store record with its trigger is written in the form of R201 under the die's next sequence number, beside the copy it
replaces, which goes; a TILE record keeps two copies. One that fails its read-back twice raises EV-CAL-06 and the older one stays, and without
a trigger nothing is written. A diagnostic conversion is taken when none is pending, an invalid channel completing at once with 0, and its
result is the averager's output, a pipeline converter's in its tile's next window.

R203, R388, R449: STORE_READY gives every tile and leaf what its valid record holds, a tile without one as manufactured, and counts the copies
discarded; with at least two healthy dies, all of them so, job ready is reached: recorded leaf bindings are in force, each healthy stack has
its retirement table, and START_MS holds the time taken. -/
def Obligations.StoreRecordsStoreReadyAndJobReady : Prop :=
  (
  ∀ (s : State) (d : DieId), let m := s.dev
    let x := m.die d
    (∀ (k : StoreKind) (t : TileId) (l : LeafId) (n : Nat), m.inService d = true →
      let key := copyKey d k t.val l.val
      let old := tget [] m.flash.store
      (m.recordTriggered d k t.val l = false → exec (.storeRecordWrite d k t l n) s = .next s)
      ∧ (m.recordTriggered d k t.val l = true → 2 ≤ n → ∃ u, exec (.storeRecordWrite d k t l n) s = .next u
        ∧ OnlyEvents (m.modDie d (fun x => { x with storeDue := (u.dev.die d).storeDue })) u.dev ∧ (u.dev.die d).evBuf ≠ [])
      ∧ (m.recordTriggered d k t.val l = true → n < 2 → ∃ u r, exec (.storeRecordWrite d k t l n) s = .next u
        ∧ (let now := tget [] u.dev.flash.store
          (k ≠ .tile → now (key r.second) = recordBytes m.sec.idtag d k t.val l.val r ∧ now (key !r.second) = [] ∧ (r.second = true ↔ old (key false) ≠ [])
            ∧ r.seq = x.storeSeq + 1 ∧ (u.dev.die d).storeSeq = x.storeSeq + 1)
          ∧ (k = .tile → now (key false) = recordBytes m.sec.idtag d k t.val l.val { r with seq := x.storeSeq + 1, second := false }
            ∧ now (key true) = recordBytes m.sec.idtag d k t.val l.val { r with seq := x.storeSeq + 2, second := true } ∧ (u.dev.die d).storeSeq = x.storeSeq + 2)
          ∧ r.payload = x.storePayload k t.val l ∧ (∀ j, j ≠ key false → j ≠ key true → now j = old j))
        ∧ (k ≠ .cnv → (u.dev.die d).tiles = x.tiles)
        ∧ u = (s.withDev ({ m.modDie d (fun x => { x with storeSeq := (u.dev.die d).storeSeq, storeDue := (u.dev.die d).storeDue, tiles := (u.dev.die d).tiles }) with
            flash := { m.flash with store := u.dev.flash.store, storeSeq := u.dev.flash.storeSeq } }))))
    ∧ (∀ v : Word, m.dieRegs d = true → x.diag.pending = false → v.getLsbD 31 = true →
      let ctrl := diagFields (x.reg cnvDiagCtrl) v
      let mon := bits (x.reg cnvDiagTgt) 21 13 = 144
      let ok := if mon then bits ctrl 15 11 < 8 ∨ 16 ≤ bits ctrl 15 11 else bits ctrl 15 11 < 14
      (ok → exec (.cnvDiagGo d v) s = .next (s.withDev (m.modDie d (fun x => { x.setReg cnvDiagCtrl ctrl with
          diag := { x.diag with pending := true, inWindow := false, tgt := x.reg cnvDiagTgt, ctrl := ctrl } }))))
      ∧ (¬ ok → exec (.cnvDiagGo d v) s = .next (s.withDev (m.modDie d (fun x => { x.setReg cnvDiagCtrl ctrl with diag := { x.diag with data := 0 } })))))
    ∧ (∀ v : Word, m.dieRegs d = true → x.diag.pending = true → exec (.cnvDiagGo d v) s = .next (s.withDev (m.modDie d (fun x => x.setReg cnvDiagCtrl (diagFields (x.reg cnvDiagCtrl) v)))))
    ∧ (∀ codes : List Int, m.inService d = true → x.diag.pending = true → codes.length = 2 ^ bits x.diag.ctrl 10 7 →
      let pipe := bits x.diag.tgt 21 13 ≠ 144
      (∀ c ∈ codes, if pipe then -512 ≤ c ∧ c ≤ 511 else -8192 ≤ c ∧ c ≤ 8191) →
      (pipe → x.diag.inWindow = false → exec (.cnvDiagDone d codes) s = .next s)
      ∧ ((pipe → x.diag.inWindow = true) →
      ∃ u, exec (.cnvDiagDone d codes) s = .next u ∧ (u.dev.die d).diag.pending = false
        ∧ (u.dev.die d).diag.data = BitVec.ofInt 32 (codes.foldl (· + ·) 0 * 2 ^ (8 - bits x.diag.ctrl 6 3))
        ∧ (u.dev.die d).counter .clip = satAdd32 (x.counter .clip) (if bits x.diag.tgt 21 13 = 144 then 0 else (codes.filter (fun c => decide (c ≤ -512 ∨ 511 ≤ c))).length)
        ∧ u = (s.withDev (m.modDie d (fun x => { x with diag := (u.dev.die d).diag, cnt := (u.dev.die d).cnt })))))
  )
  ∧
  (
  ∀ s : State, let m := s.dev
    (∀ d errs, m.inService d = true → (m.die d).storeReady = false → ∃ t, exec (.storeReady d errs) s = .next t
      ∧ (t.dev.die d).storeReady = true ∧ t.dev.parts = m.parts
      ∧ (∀ k i l b, (k, i, l) ∈ m.flash.recordsOf d → m.readCopy errs d k i l.val b = some none → (m.die d).discarded ≠ 0xFFFF#16 →
        (m.die d).discarded.toNat < (t.dev.die d).discarded.toNat)
      ∧ ((∀ k, ∀ i < 8192, ∀ (l : LeafId) b, m.readCopy errs d k i l.val b ≠ some none) → (∀ r ∈ m.flash.recordsOf d, (m.readStore errs d r.1 r.2.1 r.2.2.val).isSome = true) →
        t.dev.flash = m.flash ∧ (t.dev.die d).discarded = (m.die d).discarded ∧ (∀ e ≠ d, t.dev.die e = m.die e) ∧ ∀ i < 4160, let y := (t.dev.die d).tile i
        let rec? (k : StoreKind) (l : Nat) : Option StoreRec := m.readStore errs d k i l
        (rec? .tile 0 = none → y.st = (if i < 4096 then .analog else .spareFree) ∧ y.spareMap = [])
        ∧ (∀ r st link sp bad, rec? .tile 0 = some r → r.payload = .tile st link sp bad → y.link = link ∧ y.spareMap = sp ∧ y.refBad = bad
          ∧ (st ≠ .remapPending → st ≠ .programming → y.st = st))
        ∧ (∀ r o g, rec? .cnv 0 = some r → r.payload = .cnv o g → y.convO = o ∧ y.convG = g)
        ∧ (∀ (l : LeafId) r c, rec? .trk l.val = some r → r.payload = .trk c →
          (y.leaf l).cal = { c with tw := BitVec.ofInt 12 ((m.die d).tempAt i) } ∧ (y.leaf l).frozen = r.frozen ∧ (y.leaf l).runDue = true)
        ∧ (∀ (l : LeafId) r o g, rec? .col l.val = some r → r.payload = .col o g → (y.leaf l).colO = o ∧ (y.leaf l).colG = g)))
    ∧ (3 ≤ m.board.stage → m.board.stage < 5 → 2 ≤ m.healthy.length → (∀ d, m.inService d = true → (m.die d).storeReady = true) →
      (∀ d, (m.die d).cls ≠ .unclassified) → ∃ t, exec .jobReady s = .next t ∧ t.dev.board.stage = 5
        ∧ t.dev.board.startMs.toNat = min (m.board.upNs / 1000000) 0xFFFFFF
        ∧ (∀ d, m.inService d = true → (t.dev.die d).stack.table = tget [] m.flash.retired d.val)
        ∧ (twf 0 m.flash.leafBinds = true → ∀ k v, (k, v) ∈ m.flash.leafBinds → tget 0 t.dev.binds.owners k = v ∧ (t.dev.part (Fin.ofNat 16 (v - 1))).inBeing = true)
        ∧ (∀ p, (m.part p).inBeing = true → (t.dev.part p).st = (m.part p).st) ∧ t.dev.rings = m.rings ∧ t.dev.flash = m.flash)
  )

/-! ### Links -/

/-- R311: a lane that fails leaves the lane map: the spare takes its place while it is free, else the port narrows, and below two lanes it goes
down and loses its key; a failed idle spare only stops being free. At a failover's end the port is up or narrowed by its lanes, and the flits
not acknowledged are counted as sent again. Other ports, the partitions and the rings are unchanged.

R311, R337, R394: enabling a port that is off starts its training, disabling it takes it down at once or, while it holds a frame of a step,
later, and MODE changes only while it is not enabled; a trained port learns its peer; retraining returns failed lanes while no step frame is
held; and a key installed for a peer of the same job restarts the frame counter at 0. Nothing else of the module changes. -/
def Obligations.PortsTrainFailOverAndTakeKeys : Prop :=
  (
  ∀ (s : State) (d : DieId) (q : PortId), let m := s.dev
    let y := (m.die d).port q
    m.inService d = true →
    (∀ lane : Fin 5, y.alive = true → lane.val ∉ y.failed →
      let map := y.laneMap.map (fun l => if l = lane.val then (if y.spareFree then 4 else 7) else l)
      (lane.val ∉ y.laneMap → exec (.laneFail d q lane) s = .next (s.withDev (m.modDie d (fun x => x.modPort q (fun y =>
        { y with failed := y.failed ++ [lane.val], spareFree := false, shown := (y.shown.1, y.shown.2.1, false) })))))
      ∧ (lane.val ∈ y.laneMap → 2 ≤ activeLanes map → ∃ t, exec (.laneFail d q lane) s = .next t
        ∧ (t.dev.die d).port q = { y with failed := y.failed ++ [lane.val], laneMap := map, spareFree := false, st := .failover }
        ∧ (∀ r ≠ q, (t.dev.die d).port r = (m.die d).port r) ∧ (t.dev.die d).counter (.cdm q 9) = satAdd32 ((m.die d).counter (.cdm q 9)) 1
        ∧ t.dev.parts = m.parts ∧ t.dev.rings = m.rings ∧ t.dev.out = m.out ++ [.linkMsg d.val q.val (.laneMap map)])
      ∧ (lane.val ∈ y.laneMap → activeLanes map < 2 → ∃ t, exec (.laneFail d q lane) s = .next t
        ∧ ((t.dev.die d).port q).st = .down ∧ ((t.dev.die d).port q).key = none ∧ ((t.dev.die d).port q).replay = [] ∧ ((t.dev.die d).port q).held = []
        ∧ t.dev.parts = m.parts ∧ t.dev.rings = m.rings))
    ∧ (y.st = .failover → ∃ t, exec (.laneFailoverComplete d q) s = .next t
      ∧ ((t.dev.die d).port q).st = (if activeLanes y.laneMap = 4 then .up else .narrowed) ∧ ((t.dev.die d).port q).laneMap = y.laneMap
      ∧ ((t.dev.die d).port q).key = y.key ∧ ((t.dev.die d).port q).frameCtr = y.frameCtr ∧ (∀ r ≠ q, (t.dev.die d).port r = (m.die d).port r)
      ∧ (t.dev.die d).counter (.cdm q 3) = satAdd32 ((m.die d).counter (.cdm q 3)) y.replay.length ∧ t.dev.parts = m.parts ∧ t.dev.rings = m.rings)
  )
  ∧
  (
  ∀ (s : State) (d : DieId) (q : PortId), let m := s.dev
    let y := (m.die d).port q
    let set (f : Port → Port) : State := (s.withDev (m.modDie d (fun x => x.modPort q f)))
    (∀ v : Word, m.dieRegs d = true → (m.die d).selPort = q →
      let mode := if y.enable then y.mode else v.getLsbD 30
      (v.getLsbD 31 = true → y.st = .disabled ∨ y.st = .down → exec (.portEnable d v) s
        = .next (set (fun y => Port.show { y with mode := mode, enable := true, st := .training, downWait := false })))
      ∧ (v.getLsbD 31 = false → y.stepFrame = true → exec (.portEnable d v) s = .next (set (fun y => { y with mode := mode, enable := false, downWait := true })))
      ∧ (v.getLsbD 31 = false → y.stepFrame = false → ∃ t, exec (.portEnable d v) s = .next t ∧ t = set (fun _ => (t.dev.die d).port q)
        ∧ ((t.dev.die d).port q).st = .disabled ∧ ((t.dev.die d).port q).enable = false ∧ ((t.dev.die d).port q).key = none ∧ ((t.dev.die d).port q).mode = mode))
    ∧ (∀ pd pq idx, m.inService d = true →
      (y.st = .training → ∃ t, exec (.portLinkUp d q pd pq idx) s = .next t ∧ t = set (fun _ => (t.dev.die d).port q) ∧ (let z := (t.dev.die d).port q
        z.st = .up ∧ z.laneMap = [0, 1, 2, 3] ∧ z.spareFree = true ∧ z.cred0 = 7680 ∧ z.cred1 = 512 ∧ z.peer = some (pd, pq) ∧ z.peerIndex = idx ∧ z.key = none))
      ∧ (y.alive = true → exec (.portLinkUp d q pd pq idx) s = .next (set (fun y => { y with peer := some (pd, pq), peerIndex := idx }))))
    ∧ (m.inService d = true → y.enable = true → y.stepFrame = false →
      (y.st = .down → exec (.portRetraining d q) s = .next (set (fun y => Port.show { y with st := .training })))
      ∧ (y.alive = true → ∃ t, exec (.portRetraining d q) s = .next t ∧ ((t.dev.die d).port q).failed = [] ∧ ((t.dev.die d).port q).spareFree = true
        ∧ ((t.dev.die d).port q).laneMap = [0, 1, 2, 3] ∧ ((t.dev.die d).port q).st = .up ∧ t.dev.parts = m.parts))
    ∧ (∀ nonce p pr b a, m.inService d = true → y.alive = true → m.owner (resPort d q.val) = some p → y.peer = some pr → y.peerIndex = some b →
      (m.part p).almanac = some a → ∃ t, exec (.linkKeyInstall d q nonce) s = .next t ∧ t.dev.free = m.free + 1 ∧ t.dev.parts = m.parts
        ∧ ((t.dev.die d).port q).frameCtr = 0 ∧ ((t.dev.die d).port q).lastIn = []
        ∧ ((t.dev.die d).port q).key = some (Config.linkKey (Config.freeDbl m.free) nonce a.job.jobSecret [a.job.deviceIndex, senderPort d q, b.toNat, senderPort pr.1 pr.2, p.val])
        ∧ .nonce d.val q.val (Config.freeDbl m.free) ∈ t.dev.out)
  )

/-- R313, R314, R337: a flit's corrected and uncorrectable codewords are counted. One in sequence enters the receive buffer and moves the expected number on; one with a bad CRC or after a gap is answered with
a NAK of the expected number, and one seen before is dropped. An acknowledgement empties the replay buffer up to its number, a NAK sends the
rest again and the eighth time takes the port down, credits are added, and a lane map is followed. -/
def Obligations.FlitsAcknowledgementsAndCredits : Prop :=
  ∀ (s : State) (d : DieId) (q : PortId), let m := s.dev
    let y := (m.die d).port q
    m.inService d = true → y.alive = true →
    (∀ f : Flit, (∃ t, exec (.flitReceive d q f) s = .next t ∧ (t.dev.die d).counter (.cdm q 0) = satAdd32 ((m.die d).counter (.cdm q 0)) f.fecCorr
        ∧ (t.dev.die d).counter (.cdm q 1) = satAdd32 ((m.die d).counter (.cdm q 1)) f.fecUncorr)
      ∧ (f.crcOk = false → ∃ t, exec (.flitReceive d q f) s = .next t ∧ (t.dev.die d).port q = y
        ∧ (t.dev.die d).counter (.cdm q 2) = satAdd32 ((m.die d).counter (.cdm q 2)) 1 ∧ t.dev.out = m.out ++ [.linkMsg d.val q.val (.nak y.seqIn)])
      ∧ (f.crcOk = true → f.seq ≠ y.seqIn → let n := (m.count d (.cdm q 0) f.fecCorr).count d (.cdm q 1) f.fecUncorr
        ((f.seq - y.seqIn).toNat < 2048 → exec (.flitReceive d q f) s = .next (s.withDev (n.emit (.linkMsg d.val q.val (.nak y.seqIn)))))
        ∧ (2048 ≤ (f.seq - y.seqIn).toNat → exec (.flitReceive d q f) s = .next (s.withDev n)))
      ∧ (f.crcOk = true → f.seq = y.seqIn → ∃ t, exec (.flitReceive d q f) s = .next t ∧ (let z := (t.dev.die d).port q
        z.seqIn = y.seqIn + 1 ∧ z.rx = (if f.vc < 2 then y.rx ++ [f] else y.rx) ∧ z.held = y.held ∧ z.key = y.key
        ∧ (64 ≤ y.sinceAck + 1 → z.sinceAck = 0 ∧ .linkMsg d.val q.val (.ack y.seqIn) ∈ t.dev.out) ∧ (y.sinceAck + 1 < 64 → z.sinceAck = y.sinceAck + 1)
        ∧ (y.txq = [] → z.cred0 = y.cred0 + (if f.creditVc = 0 then f.credits else 0) ∧ z.cred1 = y.cred1 + (if f.creditVc = 1 then f.credits else 0)))
        ∧ t.dev.parts = m.parts ∧ t.dev.rings = m.rings))
    ∧ (∀ n, y.txq = [] → ∃ t, exec (.linkFlitReceive d q (.ack n)) s = .next t ∧ ((t.dev.die d).port q).replay = y.replay.filter (fun f => decide ((f.seq - n - 1).toNat < 2048)) ∧ t.dev.parts = m.parts)
    ∧ (∀ n, let left := y.replay.filter (fun f => decide ((f.seq - n).toNat < 2048))
      let tries := (if left.length < y.replay.length then 0 else y.resends) + 1
      left ≠ [] → ∃ t, exec (.linkFlitReceive d q (.nak n)) s = .next t ∧ t.dev.parts = m.parts
        ∧ (8 ≤ tries → ((t.dev.die d).port q).st = .down)
        ∧ (tries < 8 → ((t.dev.die d).port q).replay = left ∧ ((t.dev.die d).port q).resends = tries
          ∧ (t.dev.die d).counter (.cdm q 3) = satAdd32 ((m.die d).counter (.cdm q 3)) left.length ∧ ∀ f ∈ left, .flit d.val q.val f ∈ t.dev.out))
    ∧ (∀ vc n, y.txq = [] → exec (.linkFlitReceive d q (.credit vc n)) s = .next (s.withDev (m.modDie d (fun x => x.modPort q (fun y =>
        if vc = 0 then { y with cred0 := y.cred0 + n } else { y with cred1 := y.cred1 + n })))))
    ∧ (∀ ls, exec (.linkFlitReceive d q (.laneMap ls)) s = .next (s.withDev (m.modDie d (fun x => x.modPort q (fun y =>
        { y with laneMap := ls, spareFree := y.spareFree && !ls.contains 4, st := .failover })))))
    ∧ exec (.linkFlitReceive d q .idle) s = .next s
    ∧ (0 < y.sinceAck → exec (.ackTimer d q) s = .next (s.withDev ((m.modDie d (fun x => x.modPort q (fun y => { y with sinceAck := 0 }))).emit (.linkMsg d.val q.val (.ack (y.seqIn - 1))))))
    ∧ (y.sinceAck = 0 → exec (.ackTimer d q) s = .next s)

/-- R319, R329, R330: how every kind of frame of a step meets its device. One that fails authentication counts in AUTH_FAIL; one of an older step, or
of an older attempt of the present one, counts in LATE_DISCARDED; one of a later step is held; none of these changes the step. One of a
newer attempt, or with a REPLAY mark, rolls the device back; an ABORT or SKIP mark aborts the step before commit.

R317, R318, R325, R331: a frame of data of the running attempt, from a sender with no mirror, for a slot not yet delivered. A REDUCE frame's partial
takes this device's contribution and goes on, or at the final position becomes the finals; a GATHER frame's finals are taken unchanged; a
TRANSFER frame's data goes into stage SRAM at its place. The committed values stay. -/
def Obligations.FramesMeetTheStepAndAreDelivered : Prop :=
  (
  ∀ (s : State) (d : DieId) (q : PortId) (f : Frame) (c : Instr) (kind : Nat), let m := s.dev
    let p := f.partition
    let x := m.part p
    let y := (m.die d).port q
    (c, kind) ∈ [(Instr.reduceFrame d q f, 1), (.gatherFrame d q f, 2), (.closeReduceFrame d q f, 3), (.closeGatherFrame d q f, 4), (.transferFrame d q f, 5),
      (.markFrame d q f, 6), (.extendFrame d q f, 0x12)] →
    m.inService d = true → y.alive = true → m.owner (resPort d q.val) = some p →
    let authentic := f.tagOk = true ∧ y.key.isSome = true ∧ (tget 0#64 y.lastIn (senderKey f)).toNat ≤ f.ctr.toNat
    (authentic → ∃ t, exec c s = .next t ∧ KeepsCommitted p m t.dev)
    ∧ (¬ authentic → x.run = none → ∃ t, exec c s = .next t ∧ t.dev.parts = m.parts ∧ (t.dev.die d).counter (.cdm q 4) = satAdd32 ((m.die d).counter (.cdm q 4)) 1)
    ∧ (authentic → x.hasJob = true → f.step.toNat < (m.stepNo p).toNat → ∃ t, exec c s = .next t ∧ t.dev.parts = m.parts
      ∧ (t.dev.die d).counter (.cdm q 8) = satAdd32 ((m.die d).counter (.cdm q 8)) 1)
    ∧ (authentic → x.hasJob = true → (m.stepNo p).toNat < f.step.toNat → ∃ t, exec c s = .next t ∧ t.dev.parts = m.parts
      ∧ ((t.dev.die d).port q).held = y.held ++ [{ f with kind := kind }])
    ∧ (∀ r a, authentic → x.run = some r → x.almanac = some a → x.st = .running → x.intr = none → r.isForward = false → f.step = m.stepNo p →
      (f.attempt < x.xch.attempt → ∃ t, exec c s = .next t ∧ t.dev.parts = m.parts ∧ (t.dev.die d).counter (.cdm q 8) = satAdd32 ((m.die d).counter (.cdm q 8)) 1)
      ∧ ((x.xch.attempt < f.attempt ∨ (f.attempt = x.xch.attempt ∧ f.mark = 3)) → x.xch.mark < 3 → ∃ t, exec c s = .next t ∧ Struck 6 x (t.dev.part p))
      ∧ (∀ k, f.attempt = x.xch.attempt → f.mark = k → k = 1 ∨ k = 2 → x.xch.mark < k → ∃ t, exec c s = .next t ∧ KeepsCommitted p m t.dev
        ∧ (t.dev.part p).run = none ∧ (t.dev.part p).st = .loaded ∧ (t.dev.part p).lastOutcome = (if k = 1 then 3 else 4)))
  )
  ∧
  (
  ∀ (s : State) (d : DieId) (q : PortId) (f : Frame) (r : StepRun) (a : Container) (g : RingEntry), let m := s.dev
    let p := f.partition
    let x := m.part p
    let y := (m.die d).port q
    m.inService d = true → y.alive = true → m.owner (resPort d q.val) = some p → f.tagOk = true → y.key.isSome = true →
    (tget 0#64 y.lastIn (senderKey f)).toNat ≤ f.ctr.toNat → x.run = some r → x.almanac = some a → x.st = .running → r.isForward = false → f.step = m.stepNo p →
    f.attempt = x.xch.attempt → f.mark = 0 → f.poison = false → (∀ w ∈ f.elems, (f32 w).isFinite = true) → ringOf a x.form f.ring = some g →
    mirrorsOf a x.form f.step f.ring 2 = [] → mirrorEntry a x.form f d q = none → mirrorsOf a x.form r.number f.ring 2 = [] →
    let ks := chunkKeys a x.form f.bucket g.n f.chunk f.offset f.elems.length
    let sums := (ks.zip f.elems).map (fun e => if standsAside a x.form r.number g.ring then e.2 else add32 e.2 (contribution r f.bucket e.1))
    let done (t : State) (kind : Nat) (finals : Tab Word) : Prop := KeepsCommitted p m t.dev ∧ ∃ r1, (t.dev.part p).run = some r1
      ∧ r1.delivered { f with kind := kind } = true ∧ r1.finals = finals ∧ r1.masters = r.masters ∧ r1.contrib = r.contrib
    (x.xch.complete = false → f.bucket ∈ r.armed →
      (r.delivered { f with kind := 1 } = false → (sendsReduce g f.chunk = false → ∀ w ∈ sums, (f32 w).isFinite = true) →
        ∃ t, exec (.reduceFrame d q f) s = .next t ∧ done t 1 (if sendsReduce g f.chunk then r.finals else tsetAll 0 r.finals ((ks.zip f.elems).zip sums |>.map (fun e => (e.1.1, e.2))))
          ∧ (sendsReduce g f.chunk = true → x.xch.expelled = false → sentFrame (t.dev.part p).xch.record 1 g.ring f.bucket f.chunk f.offset = true))
      ∧ (r.delivered { f with kind := 2 } = false →
        ∃ t, exec (.gatherFrame d q f) s = .next t ∧ done t 2 (tsetAll 0 r.finals (ks.zip f.elems))))
    ∧ (r.delivered { f with kind := 5 } = false → f.place + 4 * f.elems.length + f.bytes.length ≤ Config.sramBytes → ∃ t, exec (.transferFrame d q f) s = .next t ∧ done t 5 r.finals
      ∧ (∀ i j, i < f.elems.length → j < 4 → mread (t.dev.die d).sram (f.place + 4 * i + j) = ((f.elems.getD i 0) >>> (8 * j)).setWidth 8)
      ∧ (∀ i < f.bytes.length, mread (t.dev.die d).sram (f.place + 4 * f.elems.length + i) = f.bytes.getD i 0)
      ∧ (∀ b, b < f.place ∨ f.place + 4 * f.elems.length + f.bytes.length ≤ b → mread (t.dev.die d).sram b = mread (m.die d).sram b))
  )

/-- R327, R328, R333: closing and extension frames of the running attempt. CLOSE_REDUCE is held until the exchange-complete point and then goes on, or
at the final position forms the job total; CLOSE_GATHER gives every device the total and the maxima, and on an exchange step the norm and the
clip factor; EXTEND is taken once for each declaring device, the first two with EV-CDM-09, and a MARK frame with no mark changes nothing. -/
def Obligations.ClosingAndExtensionFrames : Prop :=
  ∀ (s : State) (d : DieId) (q : PortId) (f : Frame) (r : StepRun) (a : Container) (g : RingEntry), let m := s.dev
    let p := f.partition
    let x := m.part p
    let y := (m.die d).port q
    m.inService d = true → y.alive = true → m.owner (resPort d q.val) = some p → f.tagOk = true → y.key.isSome = true →
    (tget 0#64 y.lastIn (senderKey f)).toNat ≤ f.ctr.toNat → x.run = some r → x.almanac = some a → x.st = .running → r.isForward = false → f.step = m.stepNo p →
    f.attempt = x.xch.attempt → f.mark = 0 → f.poison = false → closingRing a x.form = some g → f.ring = g.ring → r.closeDone = false →
    let total := (f.slots.headD (0, 0)).1
    let closed (t : State) (v : Dbl) (mx : List Word) : Prop := KeepsCommitted p m t.dev ∧ ∃ r1, (t.dev.part p).run = some r1 ∧ r1.closeDone = true ∧ r1.maxima = mx
      ∧ (r.exchange = true → r1.norm = some v ∧ r1.clip = some (clipFactor a.job.clipNorm v)) ∧ (r.exchange = false → r1.norm = r.norm ∧ r1.clip = r.clip)
      ∧ (t.dev.part p).xch.record.close = some ([(v, 0)], mx)
    (r.delivered { f with kind := 3 } = false →
      (x.xch.complete = false → ∃ t, exec (.closeReduceFrame d q f) s = .next t ∧ t.dev.parts = m.parts ∧ ((t.dev.die d).port q).held = y.held ++ [{ f with kind := 3 }])
      ∧ (x.xch.complete = true → sendsReduce g 0 = true → x.xch.expelled = false → ∃ t, exec (.closeReduceFrame d q f) s = .next t ∧ KeepsCommitted p m t.dev
        ∧ sentFrame (t.dev.part p).xch.record 3 g.ring 0 0 0 = true)
      ∧ (∀ v, x.xch.complete = true → sendsReduce g 0 = false → jobTotal (fillSlots a x.form r f.slots) = some v →
        ∃ t, exec (.closeReduceFrame d q f) s = .next t ∧ closed t v.1 (mergeMaxima (ownMaxima a r) f.maxima)))
    ∧ (r.delivered { f with kind := 4 } = false → ∃ t, exec (.closeGatherFrame d q f) s = .next t ∧ closed t total f.maxima)
    ∧ (f.declarer ∉ x.xch.declares → a.job.deviceIndex ≠ f.declarer → ∃ t, exec (.extendFrame d q f) s = .next t
      ∧ t.dev.part p = { x with xch := { x.xch with declares := x.xch.declares ++ [f.declarer] } } ∧ (∀ k ≠ p, t.dev.part k = m.part k))
    ∧ (∃ t, exec (.markFrame d q f) s = .next t ∧ t.dev.parts = m.parts)

/-- R322, R323, R331, R334, R370 to R373: a deadline whose frames a mirror delivered takes its copies and one with none rolls the device back, both
counted; a RESEND sends the slot's recorded frames again; a DIGEST frame of a commit not yet reached is held, one whose set lacks this device
gets its entry, and a complete set, or the wait's end, decides: agreement, another odd device, or this one expelled and stopped. -/
def Obligations.DeadlinesResendsAndDigests : Prop :=
  ∀ (s : State) (p : Pid) (d : DieId) (q : PortId) (a : Container), let m := s.dev
    let x := m.part p
    let y := (m.die d).port q
    x.almanac = some a → m.inService d = true →
    (∀ r kind bucket chunk, x.run = some r → x.intr = none → x.st = .running → r.isForward = false → 1 ≤ kind ∧ kind ≤ 4 → (kind ≤ 2 → bucket ∈ r.armed) →
      let miss := missingFrames a x p r kind bucket chunk
      (miss = [] → exec (.frameDeadlineExpiry p d q kind bucket chunk) s = .next s)
      ∧ (miss ≠ [] → ∃ t, exec (.frameDeadlineExpiry p d q kind bucket chunk) s = .next t ∧ KeepsCommitted p m t.dev
        ∧ (t.dev.die d).counter (.cdm q 5) = satAdd32 ((m.die d).counter (.cdm q 5)) 1
        ∧ ((∃ f ∈ miss, ∀ h ∈ r.mirrFrames, sameSlot f h = false ∨ goodFrame h = false) → Struck 6 x (t.dev.part p))))
    ∧ (∀ f : Frame, f.partition = p → y.alive = true → m.owner (resPort d q.val) = some p → f.tagOk = true → y.key.isSome = true →
      (tget 0#64 y.lastIn (senderKey f)).toNat ≤ f.ctr.toNat →
      (∃ t, exec (.resendFrame d q f) s = .next t ∧ t.dev.parts = m.parts ∧ t.dev.rings = m.rings
        ∧ ∀ g o, ringOf a x.form f.ring = some g → m.ringOut g = some o → x.xch.expelled = false → ((m.die o.1).port o.2).key.isSome = true →
          let rec_ := if x.xch.record.step = f.step then x.xch.record.frames else if x.xch.prev.step = f.step then x.xch.prev.frames else []
          let hs := rec_.filter (fun h => h.ring = f.ring && h.bucket = f.bucket && h.chunk = f.chunk)
          let z := (m.die o.1).port o.2
          z.frameCtr.toNat + hs.length ≤ 2 ^ 63 → ((t.dev.die o.1).port o.2).frameCtr = z.frameCtr + BitVec.ofNat 64 hs.length
            ∧ ∀ i (h : i < hs.length), ∃ e ∈ ((t.dev.die o.1).port o.2).txq ++ ((t.dev.die o.1).port o.2).replay,
              e.frame = { hs[i] with senderPort := senderPort o.1 o.2, ctr := z.frameCtr + BitVec.ofNat 64 i })
      ∧ (∀ r, x.digestRun = some r → (m.part p).com.steps.toNat < f.step.toNat → f.step ≠ r.step →
        ∃ t, exec (.digestFrame d q f) s = .next t ∧ t.dev.parts = m.parts ∧ ((t.dev.die d).port q).held = y.held ++ [{ f with kind := 0x10 }])
      ∧ (∀ r g, x.digestRun = some r → f.step = r.step → digestRing a x.form = some g → f.ring = g.ring → (∀ e ∈ f.entries, e.device ≠ a.job.deviceIndex) →
        ∃ t, exec (.digestFrame d q f) s = .next t ∧ (∀ k ≠ p, t.dev.part k = m.part k)
          ∧ t.dev.part p = { x with digestRun := some { r with entries := f.entries ++ [digestEntry a { x.com with steps := r.step } m.digest.dForce] } }))
    ∧ (∀ r, x.digestRun = some r → let es := r.entries.filter (fun e => e.d = m.digest.dForce && decide (e.step = r.step))
      ∃ t, exec (.digestWaitExpiry p) s = .next t ∧ KeepsCommitted p m t.dev ∧ (t.dev.part p).digestRun = none ∧ t.dev.digest.present = es.length
        ∧ (verdict es = .agree → t.dev.digest.result = 1 ∧ t.dev.digest.lastAgree = r.step ∧ (t.dev.part p).st = x.st)
        ∧ (∀ o n, verdict es = .odd o n → t.dev.digest.odd = some o ∧ t.dev.digest.donor = some n
          ∧ (o = a.job.deviceIndex → t.dev.digest.result = 3 ∧ (t.dev.part p).xch.expelled = true ∧ (x.hasJob = true → (t.dev.part p).st = .stopped))
          ∧ (o ≠ a.job.deviceIndex → t.dev.digest.result = 2 ∧ (t.dev.part p).st = x.st))
        ∧ (verdict es = .disagree → t.dev.digest.result = 3 ∧ (t.dev.part p).xch.expelled = true ∧ (x.hasJob = true → (t.dev.part p).st = .stopped)))

/-! ### Stacks -/

/-- R343 to R345, R349: corrected errors are counted by who corrected them. An uncorrectable line latches its address; in data with another
copy it is repaired, with EV-STK-02 and no rollback; in staged or scratch data a read of it rolls the partition back, or aborts the replay
that meets it where the first attempt did, and the patrol writes it back with zeros; with both copies gone the job stops. A far-tier error
rolls back, and a failed stack has its die fenced.

R346 to R348: a temperature reading sets TEMP and the traffic level, each level released 3 °C below where it begins; a page is retired at
once or after the steps that use it, unless it is a system page, in the table already, or the table is full; the table's clearing is for the
next module-level reset; a margin run starts only with a margin unlock and no region of the stack bound, and its errors are shown. -/
def Obligations.StackErrorsTemperatureAndPages : Prop :=
  (
  ∀ (s : State) (d : DieId) (p : Pid), let m := s.dev
    let x := m.part p
    let count (t : State) (k : Nat) : Word := (t.dev.die d).counter (.stk k)
    m.inService d = true →
    (∀ onDie, ∃ t, exec (.stackCorrectedError d onDie) s = .next t ∧ t.dev.parts = m.parts ∧ count t (if onDie then 0 else 1) = satAdd32 (count s (if onDie then 0 else 1)) 1)
    ∧ (∀ addr, ∃ t, exec (.patrolRead d p addr true none) s = .next t ∧ t.dev.parts = m.parts ∧ count t 4 = satAdd32 (count s 4) 1)
    ∧ (∀ addr, exec (.patrolRead d p addr false none) s = .next s)
    ∧ (∀ (c : Instr) (patrol : Bool) (region : UeRegion) (addr : BitVec 37),
      c = (if patrol then .patrolRead d p addr false (some region) else .stackUncorrectable d p region addr) →
      let gone := m.copyGone p d region addr
      ∃ t, exec c s = .next t ∧ KeepsCommitted p m t.dev ∧ (t.dev.die d).stack.ueAddr = addr &&& ~~~ 0x3F#37
        ∧ count t (if patrol then 5 else 2) = satAdd32 (count s (if patrol then 5 else 2)) 1
        ∧ (gone = true → (t.dev.part p).stateLost = true ∧ (x.hasJob = true → (t.dev.part p).st = .stopped))
        ∧ (gone = false → region ∈ [UeRegion.committed, .mirror, .served, .wear] → t.dev.parts = m.parts ∧ count t 3 = satAdd32 (count s 3) 1)
        ∧ (region ∈ [UeRegion.working, .exchange, .stash, .prefetch, .data] →
          (patrol = true → t.dev.parts = m.parts ∧ (∀ b, tget none (t.dev.die d).stack.mem b
            = if (addr &&& ~~~ 0x3F#37).toNat ≤ b ∧ b < (addr &&& ~~~ 0x3F#37).toNat + 64 then some 0 else tget none (m.die d).stack.mem b))
          ∧ (patrol = false → x.hasJob = true → x.intr = none →
            ((∀ r, x.run = some r → r.replaying = false ∨ pageKey d addr ∉ x.ueFirst) → (t.dev.part p).run = none ∧ (t.dev.part p).intr.isSome = true)
            ∧ (∀ r, x.run = some r → x.almanac.isSome = true → r.replaying = true → pageKey d addr ∈ x.ueFirst →
              (t.dev.part p).run = none ∧ (t.dev.part p).intr = none ∧ (t.dev.part p).lastOutcome = 3))))
    ∧ (x.hasJob = true → ∃ t, exec (.farTierError p false) s = .next t ∧ Struck 6 x (t.dev.part p) ∧ ∀ q ≠ p, t.dev.part q = m.part q)
    ∧ (∃ t, exec (.farTierError p true) s = .next t ∧ t.dev.parts = m.parts
      ∧ ∀ k h, k ∈ m.setsOf p → m.comeUp k 0x12 = .exec h p → (t.dev.ring k).held = modHead (Held.complete (m.epochOf k) m.mapHealthy 0x20 0x04 0 none false) (m.ring k).held)
    ∧ (∃ t, exec (.stackFailure d) s = .next t ∧ t.dev.fencedDie d = true ∧ ∀ e ≠ d, (t.dev.die e).cls = (m.die e).cls)
  )
  ∧
  (
  ∀ (s : State) (d : DieId), let m := s.dev
    let x := m.die d
    (m.inService d = true → x.stack.trained = true → ∀ (temp : Int) (flag : Bool), let c : Int := bits (x.reg stkCfg) 7 0
      ∃ t, exec (.stackTempRead d temp flag) s = .next t ∧ (let k := (t.dev.die d).stack
        t.dev.parts = m.parts ∧ k.temp = BitVec.ofInt 12 temp ∧ k.flag = flag ∧ k.mem = x.stack.mem
        ∧ (flag = true → k.throttle = 3) ∧ (flag = false → 16 * (c + 5) ≤ temp → k.throttle = 2)
        ∧ (flag = false → temp < 16 * (c - 3) → k.throttle = 0)
        ∧ (flag = false → x.stack.throttle = 0 → 16 * c ≤ temp → temp < 16 * (c + 5) → k.throttle = 1)
        ∧ (k.throttle = x.stack.throttle → (t.dev.die d).evBuf = x.evBuf)))
    ∧ (m.dieRegs d = true → x.stack.retReq = none →
      let page := BitVec.ofNat 21 (bits (x.reg stkRetireHi) 4 0 * 65536 + bits (x.reg stkRetireLo) 31 16)
      let code : BitVec 2 := if 2031616 ≤ page.toNat then 3 else if page ∈ x.stack.table then 1 else if 1024 ≤ x.stack.table.length then 2 else 0
      let applied (t : State) : Prop := (t.dev.die d).stack.table = x.stack.table ++ [page] ∧ (t.dev.die d).stack.retReq = none ∧ (t.dev.die d).stack.retResult = 0
        ∧ tget [] t.dev.flash.retired d.val = x.stack.table ++ [page] ∧ t.dev.parts = m.parts
      (code ≠ 0 → exec (.pageRetire d 0x80000000#32) s = .next (s.withDev (m.modDie d (fun x => { x with stack := { x.stack with retResult := code } }))))
      ∧ (code = 0 → m.pageBusy d page.toNat = false → ∃ t, exec (.pageRetire d 0x80000000#32) s = .next t ∧ applied t)
      ∧ (code = 0 → m.pageBusy d page.toNat = true → exec (.pageRetire d 0x80000000#32) s = .next (s.withDev (m.modDie d (fun x => { x with stack := { x.stack with retReq := some page } })))))
    ∧ (∀ page, x.stack.retReq = some page → m.inService d = true →
      (m.pageBusy d page.toNat = true → exec (.pageRetireApply d) s = .next s)
      ∧ (m.pageBusy d page.toNat = false → ∃ t, exec (.pageRetireApply d) s = .next t ∧ (t.dev.die d).stack.table = x.stack.table ++ [page] ∧ (t.dev.die d).stack.retReq = none
        ∧ tget [] t.dev.flash.retired d.val = x.stack.table ++ [page]))
    ∧ (m.dieRegs d = true → exec (.retireClearTable d) s = .next (s.withDev (m.modDie d (fun x => { x with stack := { x.stack with clearTab := true } }))))
    ∧ (∀ v : Word, m.dieRegs d = true → ∃ t, exec (.marginRun d v) s = .next t
      ∧ ((t.dev.die d).stack.margin = true ↔ x.stack.margin = true ∨ (v.getLsbD 31 = true ∧ m.stackBound d = false ∧ ∃ u, m.board.unlock = some u ∧ u.margin = true))
      ∧ t = (s.withDev (m.modDie d (fun x => { x.setReg stkMargin (marginFields (x.reg stkMargin) v) with stack := { x.stack with margin := (t.dev.die d).stack.margin } }))))
    ∧ (∀ n, m.inService d = true → x.stack.margin = true → exec (.marginRunDone d n) s
      = .next (s.withDev (m.modDie d (fun x => { x with stack := { x.stack with margin := false, marginErr := satAdd32 0#32 n } }))))
  )

/-! ### Test rotation and the event log -/

/-- R376, R377, R446: with a primary elected the oldest record waiting enters the log under the next SEQ, those no die detected first, and a die
that lost records says so first, its records waiting while its controller is in a partial reset (R407); a record of severity 2 or 3 raises the in-band interrupt; and the records not yet sent go out in SEQ order, or
pass unsent where the management section has failed. -/
def Obligations.EventLogEntriesAndRecordsSent : Prop :=
  ∀ (s : State) (d : DieId), let m := s.dev
    let x := m.die d
    let entered (t : State) (e : Event) (rest : Dev) : Prop := t.dev = { rest with flash := t.dev.flash, out := t.dev.out }
      ∧ t.dev.flash = { m.flash with log := t.dev.flash.log, nextSeq := m.flash.nextSeq + 1 }
      ∧ (m.flash.log.length < 65536 → t.dev.flash.log = m.flash.log ++ [{ seq := m.flash.nextSeq, ev := e }])
      ∧ (m.flash.log.length = 65536 → t.dev.flash.log = m.flash.log.drop 1 ++ [{ seq := m.flash.nextSeq, ev := e }])
      ∧ t.dev.out = (if 2 ≤ e.sev then m.out ++ [.inBandInterrupt] else m.out)
    m.map.primary.isSome = true →
    (∀ e rest, m.evMod = e :: rest → ∃ t, exec (.eventLogEntry d) s = .next t ∧ entered t e { m with evMod := rest })
    ∧ (m.evMod = [] → m.fencedDie d = false → x.saf.resetting = true → exec (.eventLogEntry d) s = .next s)
    ∧ (m.evMod = [] → m.fencedDie d = false → x.saf.resetting = false →
      (0 < x.evLost → ∃ t e, exec (.eventLogEntry d) s = .next t ∧ entered t e (m.modDie d (fun x => { x with evLost := 0 })) ∧ e.code = .saf 15 ∧ e.data = BitVec.ofNat 64 x.evLost)
      ∧ (∀ e rest, x.evLost = 0 → x.evBuf = e :: rest → ∃ t, exec (.eventLogEntry d) s = .next t ∧ entered t e (m.modDie d (fun x => { x with evBuf := rest })))
      ∧ (x.evLost = 0 → x.evBuf = [] → exec (.eventLogEntry d) s = .next s))
    ∧ (∀ n r, let rs := (m.flash.log.filter (fun r => m.flash.sentSeq < r.seq)).take n
      (rs = [] → exec (.derpolRecordSend n) s = .next s)
      ∧ (rs.getLast? = some r → exec (.derpolRecordSend n) s = .next (s.withDev ({ m with
          flash := { m.flash with sentSeq := r.seq }
          out := if m.board.mgmtFail then m.out else m.out ++ [.derpol (derpolFrame m.sec.idtag m.board.mac rs)] }))))

/-! ### Binding and the Saffron controllers -/

/-- R381, R384, R385, R387: a rebind request that meets a reason for refusal stores its code and raises EV-PART-03; one accepted applies at once
where its release point is reached, and otherwise waits for it. Applied, the resource belongs to its target, what it held is gone, it is
being made ready, and no other resource changes owner. RESOURCE_READY ends that, with fresh keys for a stack unit.

R173, R388, R398: a device set is bound to an EMPTY partition or taken from it, and where that changes the set every leaf bound to the partition is
scrubbed; a scrub with no sweep due frees its leaf with EV-PART-02, its columns that failed twice wait for their retirement, and its new owner's
placement is read first. -/
def Obligations.RebindsDeviceSetsAndScrubs : Prop :=
  (
  ∀ (s : State) (src : Source), let m := s.dev
    let w := m.bindWord src
    let r := reqRes w
    let v := m.bindVerdict src r (reqTarget w)
    let moved (t : State) (r : Resource) (p : Option Pid) : Prop := t.dev.owner r = p ∧ (∀ q, resKey q ≠ resKey r → t.dev.owner q = m.owner q)
      ∧ r ∈ t.dev.binds.readying ∧ (∀ q, p = some q → (t.dev.part q).inBeing = true)
    m.power.st ≠ .off →
    (m.bindDone src = false → exec (.bindRequest src) s = .next s)
    ∧ (m.bindDone src = true → v ≠ 0 → ∃ t, exec (.bindRequest src) s = .next t ∧ OnlyEvents { m with binds := m.binds.setResult v src } t.dev)
    ∧ (m.bindDone src = true → v = 0 → m.released r = true → ∃ t, exec (.bindRequest src) s = .next t ∧ moved t r (targetOf (reqTarget w)) ∧ t.dev.bindDone src = true)
    ∧ (m.bindDone src = true → v = 0 → m.released r = false → ∃ t, exec (.bindRequest src) s = .next t
      ∧ t.dev.binds = { m.binds.setDone false src with waiting := m.binds.waiting ++ [{ res := r, target := reqTarget w, src := src }] }
      ∧ t.dev.parts = m.parts ∧ t.dev.rings = m.rings)
    ∧ (∀ (q : Resource) (b : Rebind), m.binds.waiting.find? (fun w => decide (resKey w.res = resKey q)) = some b → (b.res.kind = 7 ∨ m.fencedDie (dieOf b.res) = false) →
      m.ownerIs b.res (fun x => decide (x.st = .suspended)) = false →
      (m.released b.res = false → exec (.bindApply q) s = .next s)
      ∧ (m.released b.res = true → ∃ t, exec (.bindApply q) s = .next t ∧ moved t b.res (targetOf b.target) ∧ b ∉ t.dev.binds.waiting ∧ t.dev.bindDone b.src = true))
    ∧ (∀ q : Resource, (∃ e ∈ m.binds.readying, resKey e = resKey q) → (q.kind = 7 ∨ m.fencedDie (dieOf q) = false) →
      (q.kind = 1 → ((m.die (dieOf q)).leaf q.index (Fin.ofNat 4 q.leaf)).scrub = false) →
      ∃ t, exec (.resourceReady q) s = .next t ∧ t.dev.binds = { m.binds with readying := m.binds.readying.filter (fun e => decide (resKey e ≠ resKey q)) }
        ∧ (q.kind = 6 → tget 0 t.dev.sec.stackKeys (resKey q) = Config.freeKey m.free ++ Config.freeKey (m.free + 1)) ∧ (q.kind ≠ 6 → t.dev.sec = m.sec)
        ∧ t.dev.dies = m.dies ∧ t.dev.parts = m.parts)
  )
  ∧
  (
  ∀ s : State, let m := s.dev
    (∀ (v : Word) (set : Dbl), let p : Pid := Fin.ofNat 16 (bits (m.reg partSel) 3 0)
      m.power.st ≠ .off → (m.part p).st = .empty → v.getLsbD 31 = true → tget none m.sec.devsets (bits v 3 0) = some set →
      ∃ t, exec (.partSetWrite v) s = .next t ∧ (t.dev.part p).slot = some (bits v 3 0) ∧ (t.dev.part p).setId = set
        ∧ (t.dev.part p).st = .empty ∧ (∀ q ≠ p, t.dev.part q = m.part q) ∧ (∀ r, t.dev.owner r = m.owner r)
        ∧ (¬ ((m.part p).slot.isSome = true ∧ (m.part p).setId = set) → ∀ d t' l, tget 0 m.binds.owners (resKey (resLeaf d t' (l : LeafId).val)) = p.val + 1 → t' < 4160 → ((t.dev.die d).leaf t' l).scrub = true)
        ∧ ((m.part p).slot.isSome = true → (m.part p).setId = set → t.dev.dies = m.dies))
    ∧ (∀ v : Word, let p : Pid := Fin.ofNat 16 (bits (m.reg partSel) 3 0)
      m.power.st ≠ .off → (m.part p).st ≠ .empty → exec (.partSetWrite v) s = .next s)
    ∧ (∀ (d : DieId) (t : TileId) (l : LeafId), m.inService d = true → ((m.die d).leaf t.val l).scrub = true → 0 < ((m.die d).leaf t.val l).sweeps →
      (((m.die d).leaf t.val l).sweepDue true = true → exec (.leafScrubComplete d t l) s = .next s)
      ∧ (((m.die d).leaf t.val l).sweepDue true = false → ∃ u, exec (.leafScrubComplete d t l) s = .next u
        ∧ (u.dev.die d).leaf t.val l = { (m.die d).leaf t.val l with scrub := false, sweeps := 0, progFail := [], runDue := true }
        ∧ (∀ c, c ∈ ((u.dev.die d).tile t.val).failPend ↔ c ∈ ((m.die d).tile t.val).failPend ∨ c ∈ ((m.die d).leaf t.val l).progFail)
        ∧ u.dev.parts = m.parts ∧ (∀ j ≠ t.val, (u.dev.die d).tile j = (m.die d).tile j)))
  )

/-- R403, R407: a measurement round takes each controller's value; with a strict majority a die in the minority for the second round in a row is
fenced and no other is, and with none DISPUTED stands. A watchdog's expiry restarts a die's controller and passes the primary on where it held
it, and at the restart's end a die no longer matching is fenced. -/
def Obligations.MeasurementRoundsAndPartialResets : Prop :=
  ∀ (s : State), let m := s.dev
    (∀ meas : List (Option (BitVec 384)), let ms := m.healthy.filterMap (fun d => if (m.die d).saf.resetting then none else (meas.getD d.val none).map (fun v => (d, v)))
      ms ≠ [] → ∃ t, exec (.measurementRound meas) s = .next t ∧ t.dev.map.disputed = (majorityOf ms).isNone
        ∧ ∀ d, (t.dev.die d).cls = .fenced ↔ (m.die d).cls = .fenced
          ∨ ∃ v, (d, v) ∈ ms ∧ (majorityOf ms).isSome = true ∧ majorityOf ms ≠ some v ∧ 1 ≤ (m.die d).saf.minority)
    ∧ (∀ d, m.inService d = true → (m.die d).saf.resetting = false → ∃ t, exec (.saffronWatchdogExpiry d) s = .next t ∧ (t.dev.die d).saf.resetting = true
      ∧ t.dev.parts = m.parts ∧ (∀ e, (t.dev.die e).cls = (m.die e).cls) ∧ (m.map.primary ≠ some d → t.dev.map = m.map) ∧ (m.map.primary = some d → t.dev.map.primary ≠ some d))
    ∧ (∀ d same, m.inService d = true → (m.die d).saf.resetting = true → ∃ t, exec (.partialResetDone d same) s = .next t
      ∧ (same = true → t = (s.withDev (m.modDie d (fun x => { x with saf := { x.saf with resetting := false, majority := true, minority := 0 } }))))
      ∧ (same = false → t.dev.fencedDie d = true ∧ ∀ e ≠ d, (t.dev.die e).cls = (m.die e).cls))

/-! ### Attestation and the management path -/

/-- R402, R404, R405, with a primary elected: GET_VERSION, GET_CAPABILITIES, NEGOTIATE_ALGORITHMS, GET_DIGESTS and GET_CERTIFICATE of slot 0 are
answered, CHALLENGE and GET_MEASUREMENTS with a signature whose SLH-DSA counterpart GET_SLH_SIGNATURE then fetches; the report holds block 0x01 to
0x0B, those of the loaded partitions, and each pending image with its flag. Response and error codes are SPDM's (log entry 30). -/
def Obligations.SpdmRequestsAreAnswered : Prop :=
  ∀ (s : State) (path : SpdmPath), let m := s.dev
    let told (os : List Out) : Dev := { m with out := m.out ++ os }
    let signed (o : Out) : State := s.withDev ({ told [o, .spdmSig (Config.rsaSignature m.free)] with
      sec := { m.sec with sigReady := some m.free }, free := m.free + 1 })
    m.spdmReach path = true → m.map.primary.isSome = true → m.power.st ≠ .off →
    exec (.getVersion path) s = .next (s.withDev (told [.spdm 0x04 [0x12, 0x13]]))
    ∧ exec (.getCapabilities path) s = .next (s.withDev (told [.spdm 0x61 [4]]))
    ∧ exec (.getDigests path) s = .next (s.withDev (told [.spdm 0x01 [1, Config.certDigest.toNat]]))
    ∧ (∀ ok, ∃ t, exec (.negotiateAlgorithms path ok) s = .next t
      ∧ (∀ k, tget false t.dev.sec.algOk k = if k = (if path = .doe then 0 else 1) then ok else tget false m.sec.algOk k)
      ∧ t = (s.withDev ({ told [if ok then .spdm 0x63 [3072, 384, 384, 256] else .spdmError 0x01] with sec := { m.sec with algOk := t.dev.sec.algOk } })))
    ∧ (∀ slot off len, exec (.getCertificate path slot off len) s = .next (s.withDev (told
      [if slot = 0 then .spdm 0x02 ((List.range len).map (fun i => (Config.certByte (off + i)).toNat)) else .spdmError 0x01])))
    ∧ (∀ nonce, exec (.challenge path nonce) s = .next (signed (.spdm 0x03 [Config.certDigest.toNat, nonce.toNat]))
      ∧ exec (.getMeasurements path 0 nonce) s = .next (signed (.spdm 0x60 [m.report.length]))
      ∧ exec (.getMeasurements path 0xFF nonce) s = .next (signed (.spdmMeas m.report))
      ∧ ∀ i, i ≠ 0 → i ≠ 0xFF → exec (.getMeasurements path i nonce) s = .next (if ∃ b ∈ m.report, b.1 = i
          then signed (.spdmMeas (m.report.filter (fun b => decide (b.1 = i)))) else s.withDev (told [.spdmError 0x01])))
    ∧ exec (.getSlhSignature path) s = .next (s.withDev (told [match m.sec.sigReady with
      | some n => .spdmSlh (Config.slhSignature n)
      | none => .spdmError 0x04]))
    ∧ (∀ h n, exec (.chunkGet path h n) s = .next (s.withDev (told [if m.sec.sigReady.isSome then .spdm 0x06 [h, n] else .spdmError 0x04])))
    ∧ (∀ i, 1 ≤ i → i ≤ 0x0B → ∃ v, (i, false, v) ∈ m.report)
    ∧ (∀ p : Pid, (m.part p).almanac.isSome = true ↔ ∃ v, (0x10 + p.val, false, v) ∈ m.report)
    ∧ (∀ c n dg, (c, n, dg) ∈ m.sec.pending → (0x40 + c, true, [dg.toNat]) ∈ m.report)

/-- R391, R404: up to four secure sessions, each under the lowest number not in use; FINISH completes one or, not verified, ends it, and only a
finished one ends on request, beats, or updates its key, and programs IDE keys over DOE: one cachemem stream, four selective, one link.

R408, R431: while no primary is elected, and in Off, every SPDM request is answered with ResponseNotReady and so is RESPOND_IF_READY; with a
primary again that answers the request kept, as the request would be answered now. -/
def Obligations.SpdmSessionsIdeAndNotReady : Prop :=
  (
  ∀ (s : State) (path : SpdmPath) (n : Nat), let m := s.dev
    let xs := m.sec.sessions
    let told (ys : List Session) (o : Out) : State := s.withDev ({ m with out := m.out ++ [o], sec := { m.sec with sessions := ys } })
    let upd (f : Session → Session) : List Session := xs.map (fun y => if y.id = n then f y else y)
    let dropped : List Session := xs.filter (fun y => decide (y.id ≠ n))
    (m.spdmReach path = true → m.map.primary.isSome = true → m.power.st ≠ .off →
      (xs.length < 4 → ∃ k < 4, (∀ x ∈ xs, x.id ≠ k) ∧ (∀ j < k, ∃ x ∈ xs, x.id = j) ∧ exec (.keyExchange path) s = .next (s.withDev ({ m with
        sec := { m.sec with sessions := xs ++ [{ id := k, path := path, finished := false, keyGen := 0 }] }, out := m.out ++ [.spdm 0x64 [k]], free := m.free + 1 })))
      ∧ (4 ≤ xs.length → exec (.keyExchange path) s = .next (told xs (.spdmError 0x0A)))
      ∧ (∀ x, m.session path n = some x → x.finished = false →
        exec (.finish path n true) s = .next (told (upd (fun y => { y with finished := true })) (.spdm 0x65 [n]))
        ∧ exec (.finish path n false) s = .next (told dropped (.spdmError 0x06))
        ∧ ∀ c ∈ [Instr.endSession path n, .heartbeat path n, .keyUpdate path n], exec c s = .next (told xs (.spdmError 0x04)))
      ∧ (∀ x, m.session path n = some x → x.finished = true →
        exec (.endSession path n) s = .next (told dropped (.spdm 0x6C [n])) ∧ exec (.heartbeat path n) s = .next (told xs (.spdm 0x68 [n]))
        ∧ exec (.keyUpdate path n) s = .next (told (upd (fun y => { y with keyGen := y.keyGen + 1 })) (.spdm 0x69 [n]))))
    ∧ (∀ (kind : IdeKind) (stream : Nat), let most := if kind = .selective then 4 else 1
      let same (x : IdeStream) : Prop := x.kind = kind ∧ x.stream = stream
      let ide (ys : List IdeStream) : State := s.withDev ({ m with sec := { m.sec with ide := ys } })
      m.spdmReach .doe = true → (m.session .doe n).any (fun x => x.finished) = true →
      ((∃ x ∈ m.sec.ide, same x) → exec (.ideKeyProgram n kind stream true) s = .next (ide (m.sec.ide.map (fun x => if same x then { x with keyGen := x.keyGen + 1 } else x)))
        ∧ exec (.ideKeyProgram n kind stream false) s = .next s)
      ∧ ((∀ x ∈ m.sec.ide, ¬ same x) → exec (.ideKeyProgram n kind stream true) s = .next s
        ∧ exec (.ideKeyProgram n kind stream false) s = .next (if (m.sec.ide.filter (fun x => decide (x.kind = kind))).length < most
          then ide (m.sec.ide ++ [{ kind := kind, stream := stream, keyGen := 0 }]) else s)))
  )
  ∧
  (
  ∀ (s : State) (c : Instr) (path : SpdmPath), requestPath c = some path → let m := s.dev
    m.spdmReach path = true →
    ((m.map.primary = none ∨ m.power.st = .off) →
      exec c s = .next (s.withDev ({ m with out := m.out ++ [.spdmNotReady], sec := { m.sec with deferred := some c } }))
      ∧ ((∀ d, m.sec.deferred = some d → requestPath d = some path) → exec (.respondIfReady path) s = .next (s.withDev ({ m with out := m.out ++ [.spdmNotReady] }))))
    ∧ (m.map.primary.isSome = true → m.power.st ≠ .off → m.sec.deferred = some c → ∃ t, exec c s = .next t
      ∧ exec (.respondIfReady path) s = .next { t with dev := { t.dev with sec := { t.dev.sec with deferred := none } } })
  )

/-- R445: REG_READ answers what the register reads; REG_WRITE writes every RW or WO register as a write of the host does, but the management
copies where there are two, and answers 2 for the RING_ block, for a reserved offset and, by the model's choice (log entry 31), in Off.

R445, R446: OBJ_BEGIN opens a transfer of kind 1 to 3 under the lowest handle not in use; OBJ_DATA stores its bytes, within the length
announced, and changes no other byte; LOG_READ answers with the record of that SEQ or the next one held, and 3 when there is none; SET_DEST
sets the destination address. -/
def Obligations.ManagementRegistersAndTransfers : Prop :=
  (
  ∀ (s : State) (off : BitVec 20) (v : Word), let m := s.dev
    let a := off.toNat
    m.board.standby = true → m.board.mgmtFail = false →
    (a % 4 = 0 → ∃ t, exec (.regRead off) s = .next t ∧ t.dev.out = m.out ++ [.mctp 0x01 0 (m.regValue .mgmt a)] ∧ t.dev.parts = m.parts
        ∧ t.dev.rings = m.rings ∧ t.dev.regs = m.regs ∧ t.dev.power = m.power ∧ t.dev.binds = m.binds)
    ∧ (m.power.st = .off → exec (.regWrite off v) s = .next (s.withDev ({ m with out := m.out ++ [.mctp 0x02 2 0] })))
    ∧ (m.power.st ≠ .off → a % 4 = 0 →
      (a / 0x1000 = 0x80 → exec (.regWrite off v) s = .next (s.withDev ({ m with out := m.out ++ [.mctp 0x02 2 0] })))
      ∧ (a / 0x1000 ≠ 0x80 → (if a < 0x80000 then a % 0x10000 ∉ dieRegisters.map (fun e => e.1) else a ∉ moduleRegisters.map (fun e => e.1)) →
        exec (.regWrite off v) s = .next (s.withDev ({ m with out := m.out ++ [.mctp 0x02 2 0] })))
      ∧ (a / 0x1000 ≠ 0x80 → a ∉ [0x81000, 0x81004, 0x82000, 0x831A0] → (m.writeReg .host a v).isSome = true → ∃ t, exec (.registerWrite off v) s = .next t
        ∧ exec (.regWrite off v) s = .next (t.withDev ({ t.dev with out := t.dev.out ++ [.mctp 0x02 0 0] })))
      ∧ (a = 0x81000 → ∃ w, exec (.regWrite off v) s = .next (s.withDev ({ m with out := m.out ++ [.mctp 0x02 0 0], binds := { m.binds with mgmtReq := w } }))
        ∧ exec (.registerWrite off v) { s with dev := { m with binds := { m.binds with hostReq := m.binds.mgmtReq } } }
          = .next (s.withDev ({ m with binds := { m.binds with hostReq := w } })))
      ∧ (a = 0x82000 → v.getLsbD 31 = false → exec (.regWrite off v) s
          = .next (s.withDev ({ m with out := m.out ++ [.mctp 0x02 0 0], power := { m.power with mgmtTarget := bits v 27 26 } }))
        ∧ exec (.registerWrite off v) s = .next (s.withDev ({ m with power := { m.power with hostTarget := bits v 27 26 } }))))
  )
  ∧
  (
  ∀ s : State, let m := s.dev
    let xs := m.board.xfers
    let told (b : Board) (os : List Out) : State := s.withDev ({ m with board := b, out := m.out ++ os })
    m.board.standby = true → m.board.mgmtFail = false →
    (∀ kind length, xs.length < 256 →
      (1 ≤ kind → kind ≤ 3 → ∃ h < 256, (∀ x ∈ xs, x.handle ≠ h) ∧ (∀ j < h, ∃ x ∈ xs, x.handle = j) ∧ exec (.objBegin kind length) s
        = .next (told { m.board with xfers := xs ++ [{ handle := h, kind := kind, length := length, bytes := [] }] } [.mctp 0x10 0 0, .mctpHandle h]))
      ∧ (kind = 0 ∨ 3 < kind → exec (.objBegin kind length) s = .next (told m.board [.mctp 0x10 1 0])))
    ∧ (∀ h off data x, xs.find? (fun x => decide (x.handle = h)) = some x →
      (off + data.length ≤ x.length → ∃ t y, exec (.objData h off data) s = .next t ∧ t.dev.board.xfers.find? (fun x => decide (x.handle = h)) = some y
        ∧ (∀ a, mread y.bytes a = if off ≤ a ∧ a < off + data.length then data.getD (a - off) 0 else mread x.bytes a) ∧ y = { x with bytes := y.bytes }
        ∧ t.dev.board.xfers.filter (fun x => decide (x.handle ≠ h)) = xs.filter (fun x => decide (x.handle ≠ h))
        ∧ t = told { m.board with xfers := t.dev.board.xfers } [.mctp 0x11 0 0])
      ∧ (x.length < off + data.length → exec (.objData h off data) s = .next (told m.board [.mctp 0x11 1 0])))
    ∧ (∀ (q : Dbl), (∀ r, m.flash.log.find? (fun r => decide (q ≤ r.seq)) = some r → exec (.logRead q) s = .next (told m.board [.mctp 0x20 0 0, .mctpRec (some (derpolBytes m.sec.idtag r))]))
      ∧ ((∀ r ∈ m.flash.log, r.seq < q) → exec (.logRead q) s = .next (told m.board [.mctp 0x20 3 0, .mctpRec none])))
    ∧ (∀ mac, exec (.setDest mac) s = .next (told { m.board with mac := mac } [.mctp 0x30 0 0]))
  )

/-- R396, R402, R406, R367: OBJ_END checks the object. A firmware image that Svaontas signed, in form and with an SVN not below its
component's minimum becomes pending; a pattern pack so signed, in form and of a version above the same pack's takes its slot; any other is refused
with no effect but its events. Without a primary the answer is busy. -/
def Obligations.FirmwareAndPacksAreCheckedAndTaken : Prop :=
  ∀ (s : State) (h : Nat) (x : Xfer), let m := s.dev
    let ended (status : Nat) : Dev := { m with
      board := { m.board with xfers := m.board.xfers.filter (fun y => decide (y.handle ≠ h)) }, out := m.out ++ [.mctp 0x12 status 0] }
    let refused (o : MgmtObject) : Prop := ∃ t, exec (.objEnd h (some o)) s = .next t ∧ OnlyEvents (ended 1) t.dev
    let vendor (g : Signature) : Prop := g.rsaOk = true ∧ g.slhOk = true ∧ m.sec.svendor = (g.rsaKeyId, g.slhKeyId)
    m.board.standby = true → m.board.mgmtFail = false → m.board.xfers.find? (fun x => decide (x.handle = h)) = some x →
    (m.map.primary = none → ∀ o, exec (.objEnd h o) s = .next (s.withDev ({ m with out := m.out ++ [.mctp 0x12 2 0] })))
    ∧ (m.map.primary.isSome = true → x.kind = 1 → ∀ magic format comp svn dg g,
      let ok := magic = 0x314D49574638564E#64 ∧ format = 1 ∧ 2 ≤ comp ∧ comp ≤ 5 ∧ tget 0 m.sec.svnMin comp ≤ svn ∧ vendor g
      (ok → ∃ t, exec (.objEnd h (some (.firmware magic format comp svn dg g))) s = .next t
        ∧ (∀ k, tget (0, 0) t.dev.sec.pending k = if k = comp then (svn, dg) else tget (0, 0) m.sec.pending k)
        ∧ t = s.withDev ({ ended 0 with sec := { m.sec with pending := t.dev.sec.pending } }))
      ∧ (¬ ok → refused (.firmware magic format comp svn dg g)))
    ∧ (m.map.primary.isSome = true → x.kind = 2 → ∀ magic format cls slot patterns packId version slices length rsvd dg g,
      let ok := magic = 0x314B50545038564E#64 ∧ format = 1 ∧ 1 ≤ cls ∧ cls ≤ 4 ∧ slot < 8 ∧ 1 ≤ patterns ∧ patterns ≤ 65535 ∧ 1 ≤ slices ∧ slices ≤ 4096
        ∧ length ≤ 16777216 ∧ rsvd = 0 ∧ vendor g ∧ ∀ n k, (n, some k) ∈ m.sec.packs → k.packId = packId → k.version < version
      (ok → ∃ t, exec (.objEnd h (some (.pack magic format cls slot patterns packId version slices length rsvd dg g))) s = .next t
        ∧ (∀ k, tget none t.dev.sec.packs k = if k = slot then some { packId := packId, cls := cls, version := version, slices := slices, digest := dg } else tget none m.sec.packs k)
        ∧ t = s.withDev ({ ended 0 with sec := { m.sec with packs := t.dev.sec.packs } }))
      ∧ (¬ ok → refused (.pack magic format cls slot patterns packId version slices length rsvd dg g)))

/-- R396 to R398, R454: a configuration record in form, signed by the right party, fresh for its type or device set, naming this module (a DEVSET
none) and with its body in range takes effect, its SEQ becoming the last accepted; any other is refused with no effect but its events. An OWNER or
TEST_UNLOCK record is accepted only while no partition exists, and the latter opens the unlock. -/
def Obligations.ConfigurationRecordsTakeEffect : Prop :=
  ∀ (s : State) (h : Nat) (x : Xfer) (magic : Dbl) (format length : Nat) (seq idtag : Dbl) (rsvd : Nat) (b : RecordBody) (dg : BitVec 384) (g : Signature), let m := s.dev
    let c := Instr.objEnd h (some (.record magic format length seq idtag rsvd b dg g))
    let ended (status : Nat) : Dev := { m with
      board := { m.board with xfers := m.board.xfers.filter (fun y => decide (y.handle ≠ h)) }, out := m.out ++ [.mctp 0x12 status 0] }
    let signer : Option (Dbl × Dbl) := match b with
      | .owner _ _ | .retireClear _ _ | .testUnlock _ _ _ _ => some m.sec.svendor
      | .devset _ _ _ _ _ | .svnMin _ | .bindSrc _ => m.sec.owner
    let body : Prop := match b with
      | .owner _ _ => ∀ p, (m.part p).st = .notInBeing
      | .devset set slot count member r => slot < 16 ∧ 1 ≤ count ∧ count ≤ 4096 ∧ member = true ∧ r = 0 ∧ idtag = 0 ∧ m.lastSetSeq set < seq
      | .svnMin _ => True
      | .bindSrc src => src ≤ 2
      | .retireClear d t => d < 8 ∧ t < 4160
      | .testUnlock dur _ flags r => 1 ≤ dur ∧ dur ≤ 86400 ∧ flags.toNat < 4 ∧ r = 0 ∧ ∀ p, (m.part p).st = .notInBeing
    let fresh : Prop := match b with
      | .devset _ _ _ _ _ => True
      | _ => idtag = m.sec.idtag ∧ tget 0 m.sec.seqAcc (recordType b) < seq
    let ok := magic = 0x314752464338564E#64 ∧ format = 1 ∧ length ≤ 16777216 ∧ rsvd = 0 ∧ g.rsaOk = true ∧ g.slhOk = true
      ∧ signer = some (g.rsaKeyId, g.slhKeyId) ∧ fresh ∧ body
    m.board.standby = true → m.board.mgmtFail = false → m.map.primary.isSome = true →
    m.board.xfers.find? (fun x => decide (x.handle = h)) = some x → x.kind = 3 →
    (¬ ok → ∃ t, exec c s = .next t ∧ OnlyEvents (ended 1) t.dev)
    ∧ (ok → ∃ t, exec c s = .next t ∧ t.dev.out = (ended 0).out ∧ t.dev.parts = m.parts ∧ t.dev.rings = m.rings ∧ t.dev.regs = m.regs ∧ t.dev.power = m.power ∧ t.dev.binds = m.binds
      ∧ t.dev.sec.recDigests = m.sec.recDigests ++ [dg]
      ∧ (∀ k, tget 0 t.dev.sec.seqAcc k = if k = recordType b ∧ recordType b ≠ 2 then seq else tget 0 m.sec.seqAcc k)
      ∧ (match b with
        | .owner r k => t.dev.sec.owner = some (r, k)
        | _ => t.dev.sec.owner = m.sec.owner)
      ∧ (match b with
        | .devset set slot _ _ _ => t.dev.lastSetSeq set = seq ∧ ∀ k, tget none t.dev.sec.devsets k = if k = slot then some set else tget none m.sec.devsets k
        | _ => t.dev.sec.setSeq = m.sec.setSeq ∧ t.dev.sec.devsets = m.sec.devsets)
      ∧ (match b with
        | .svnMin mins => ∀ k, tget 0 t.dev.sec.svnMin k = ((mins.reverse.find? (fun e => decide (e.1 = k))).map (fun e => e.2)).getD (tget 0 m.sec.svnMin k)
        | _ => t.dev.sec.svnMin = m.sec.svnMin)
      ∧ (match b with
        | .bindSrc src => t.dev.sec.bindSrc = src
        | _ => t.dev.sec.bindSrc = m.sec.bindSrc)
      ∧ (match b with
        | .testUnlock dur mask flags _ => t.dev.board.unlock = some { openedAt := m.stamps, durationS := dur, mask := mask, margin := flags.getLsbD 0, priv := flags.getLsbD 1 }
        | _ => t.dev.board.unlock = m.board.unlock)
      ∧ (match b with
        | .retireClear d t' =>
          let e : DieId := Fin.ofNat 8 d
          let own (b : Bool) : Nat := copyKey e .tile t' 0 b
          let linked (n : Nat) : Prop := ∃ r sp bad l, m.readStore [] e .tile t' 0 = some r ∧ r.payload = .tile .retiredSpare l sp bad ∧ l.toNat = n
          t.dev.flash = { m.flash with store := t.dev.flash.store }
          ∧ (∀ k, (∀ b, k ≠ own b) → (∀ n b, linked n → k ≠ copyKey e .tile n 0 b) → tget [] t.dev.flash.store k = tget [] m.flash.store k)
          ∧ (¬ linked t' → ∀ b r st l sp bad, readRecord m.sec.idtag e .tile t' 0 (tget [] m.flash.store (own b)) = some r → r.payload = .tile st l sp bad →
            tget [] t.dev.flash.store (own b) = recordBytes m.sec.idtag e .tile t' 0 { r with payload := .tile .analog 0x1FFF#13 sp bad })
        | _ => t.dev.flash = m.flash))

/-! ### Power -/

/-- R426, R427: a request of either copy to leave Vigil or Repose is an exit, in Run it is done at once; during start-up, with an unlock open or
with a partition STOPPED, Vigil is entered at once when nothing is held, and any other request is refused with its reason in EV-PWR-01.

R422, R423, R425: in normal service a request for Vigil, Repose or Off is put to the blocks in order: the first that refuses ends it unentered
and is counted; otherwise it is in progress, accepted at once where no block defers. RING refuses while work is held, CDM refuses Repose and
Off with a port keyed, PART defers a rebind, CLV a tile with an open window. The blocks that defer are asked again until DEFER_MAX. -/
def Obligations.PowerRequestsAndHandshake : Prop :=
  (
  ∀ (s : State) (src : Source), let m := s.dev
    let aim (t : Nat) : Power := match src with
      | .host => { m.power with hostTarget := t }
      | .mgmt => { m.power with mgmtTarget := t }
    let reason (n : Nat) (t : State) : Prop := ∀ d, m.clockDie = some d →
      ((t.dev.die d).evBuf.getLast?.map (fun e => (e.code, e.data))) = some (.pwr 1, BitVec.ofNat 64 n)
    let why : Nat := if m.board.stage < 5 then 1 else if m.board.unlock.isSome = true then 2 else 3
    m.power.req = none →
    (m.power.st = .run → exec (.powerRequestRun src) s = .next (s.withDev ({ m with power := (aim 0).setResult (some src) 0 })))
    ∧ (m.power.st = .vigil → exec (.powerRequestRun src) s = .next (s.withDev ({ m with
      power := { aim 0 with req := some { target := 0, src := some src, accepted := true, exiting := true, deferring := [] }, exitAsked := true } })))
    ∧ (m.power.st = .repose → exec (.powerRequestRun src) s = .next (s.withDev ({ m with
      power := { aim 0 with req := some { target := 0, src := some src, accepted := true, exiting := true, deferring := [] } } })))
    ∧ (m.power.st = .run → (m.board.stage < 5 ∨ m.board.unlock.isSome = true ∨ ∃ p, (m.part p).st = .stopped) →
      (m.workHeld = false → ∃ t, exec (.powerRequestVigil src) s = .next t
        ∧ t.dev = { m with dies := t.dev.dies, power := Power.setResult { aim 1 with st := .vigil, byTimer := false, exitAsked := false } (some src) 0 }
        ∧ ∀ d, t.dev.die d = if m.inService d then { m.die d with awake := false, vddMv := 650 } else m.die d)
      ∧ (m.workHeld = true → ∃ t, exec (.powerRequestVigil src) s = .next t ∧ PowerRefused (aim 1) (some src) 1 9 m t.dev ∧ reason 4 t)
      ∧ (∃ t, exec (.powerRequestRepose src) s = .next t ∧ PowerRefused (aim 2) (some src) 2 9 m t.dev ∧ reason why t)
      ∧ (∃ t, exec (.powerRequestOff src) s = .next t ∧ PowerRefused (aim 3) (some src) 3 9 m t.dev ∧ reason why t))
  )
  ∧
  (
  ∀ (s : State) (src : Source), let m := s.dev
    let aim (t : Nat) : Power := match src with
      | .host => { m.power with hostTarget := t }
      | .mgmt => { m.power with mgmtTarget := t }
    let order : List Nat := [10, 11, 8, 4, 7, 1, 5, 2, 3, 12]
    (m.power.req = none → m.power.st = .run → 5 ≤ m.board.stage → m.board.unlock = none → (∀ p, (m.part p).st ≠ .stopped) →
      ∀ c tg, (c, tg) ∈ [(Instr.powerRequestVigil src, 1), (.powerRequestRepose src, 2), (.powerRequestOff src, 3)] →
      (∀ b, order.find? (fun b => decide (m.blockAnswer tg b = .refuse)) = some b → ∃ t, exec c s = .next t ∧ PowerRefused (aim tg) (some src) tg b m t.dev)
      ∧ ((∀ b ∈ order, m.blockAnswer tg b ≠ .refuse) → let ds := order.filter (fun b => decide (m.blockAnswer tg b = .defer))
        let rq : PowerReq := { target := tg, src := some src, accepted := decide (ds = []), exiting := false, deferring := ds }
        exec c s = .next (s.withDev ({ m with power := { aim tg with req := some rq } })))
      ∧ ((∃ p, (m.part p).st = .running) → ∃ t, exec c s = .next t ∧ PowerRefused (aim tg) (some src) tg 10 m t.dev)
      ∧ (m.workHeld = false → (∀ p, (m.part p).intr = none) → 2 ≤ tg → (∃ d p, m.inService d = true ∧ ((m.die d).port p).key.isSome = true) →
        ∃ t, exec c s = .next t ∧ PowerRefused (aim tg) (some src) tg 4 m t.dev)
      ∧ (m.workHeld = false → (∀ p, (m.part p).intr = none) → tg = 1 → m.binds.waiting ≠ [] → ∃ t r, exec c s = .next t
        ∧ t.dev.power.req = some r ∧ r.accepted = false ∧ 11 ∈ r.deferring)
      ∧ (m.workHeld = false → (∀ p, (m.part p).intr = none) → tg = 1 → (∃ d i, m.inService d = true ∧ ((m.die d).tile i).win.isSome = true) → ∃ t r, exec c s = .next t
        ∧ t.dev.power.req = some r ∧ r.accepted = false ∧ 1 ∈ r.deferring))
    ∧ (∀ r n, m.power.req = some r → r.accepted = false → r.exiting = false →
      let still := r.deferring.filter (fun b => decide (m.blockAnswer r.target b = .defer))
      (∀ b, r.deferring.find? (fun b => decide (m.blockAnswer r.target b = .refuse)) = some b →
        ∃ t, exec (.powerDeferRetry n) s = .next t ∧ PowerRefused m.power r.src r.target b m t.dev)
      ∧ ((∀ b ∈ r.deferring, m.blockAnswer r.target b ≠ .refuse) →
        (still = [] → exec (.powerDeferRetry n) s = .next (s.withDev ({ m with power := { m.power with req := some { r with accepted := true, deferring := [] } } })))
        ∧ (still ≠ [] → n < 10 * bits (m.reg pwrLimitCfg) 9 0 →
          exec (.powerDeferRetry n) s = .next (s.withDev ({ m with power := { m.power with req := some { r with deferring := still } } })))
        ∧ (∀ b, still.head? = some b → 10 * bits (m.reg pwrLimitCfg) 9 0 ≤ n →
          ∃ t, exec (.powerDeferRetry n) s = .next t ∧ PowerRefused m.power r.src r.target b m t.dev)))
  )

/-- R413, R422, R430, R431: the state every block accepted is reached. Vigil puts the healthy dies to sleep; Repose saves stage SRAM in the stack's
save area, which goes into self-refresh, with the rails down, and its exit restores both; Off removes every rail once every record that waits has
entered the log. Partitions and ring sets stay as they are, but in Off. -/
def Obligations.PowerStatesAreReached : Prop :=
  ∀ (s : State) (r : PowerReq), let m := s.dev
    m.power.req = some r → r.accepted = true →
    (r.target = 1 → r.exiting = false → ∃ t, exec .powerStateReached s = .next t
      ∧ t.dev = { m with dies := t.dev.dies, power := { m.power.setResult r.src 0 with req := none, st := .vigil, byTimer := false, exitAsked := false } }
      ∧ ∀ d, t.dev.die d = if m.inService d then { m.die d with awake := false, vddMv := 650 } else m.die d)
    ∧ (r.target = 2 → r.exiting = false → ∃ t, exec .powerStateReached s = .next t
      ∧ t.dev.power = { m.power.setResult r.src 0 with req := none, st := .repose } ∧ t.dev.parts = m.parts ∧ t.dev.rings = m.rings ∧ t.dev.sec = m.sec
      ∧ ∀ d, (m.inService d = false → t.dev.die d = m.die d) ∧ (m.inService d = true → (t.dev.die d).rails = false ∧ (t.dev.die d).sram = []
        ∧ (t.dev.die d).stack.save = some (m.die d).sram ∧ (t.dev.die d).stack.mem = (m.die d).stack.mem ∧ (t.dev.die d).stack.selfRef = true))
    ∧ (r.target = 0 → r.exiting = true → m.power.exitAsked = false → m.power.st = .repose → (∀ k, (m.ring k).kept = none) → ∃ t, exec .powerStateReached s = .next t
      ∧ t.dev.power = { m.power.setResult r.src 0 with req := none, st := .run, byTimer := false, exitAsked := false } ∧ t.dev.parts = m.parts ∧ t.dev.rings = m.rings
      ∧ ∀ d, (m.inService d = false → t.dev.die d = m.die d) ∧ (m.inService d = true → (t.dev.die d).rails = true ∧ (t.dev.die d).stack.selfRef = false
        ∧ (∀ mem, (m.die d).stack.save = some mem → (t.dev.die d).sram = mem) ∧ (t.dev.die d).stack.save = none
        ∧ (t.dev.die d).vddMv = (if (m.die d).hot then 650 else plVolts m.power.pl)))
    ∧ (r.target = 3 → r.exiting = false → ∃ t f, exec .powerStateReached s = .next t ∧ RailsRemoved 5 { m with flash := f } t.dev
      ∧ f.leafBinds = m.flash.leafBinds ∧ f.retired = m.flash.retired
      ∧ (let waiting := m.evMod ++ m.healthy.flatMap (fun d => (if 0 < (m.die d).evLost then [m.lostEvent d] else []) ++ (m.die d).evBuf)
        waiting.length + m.flash.log.length ≤ 65536 → ∃ new, f.log = m.flash.log ++ new ∧ new.map (fun r => r.ev) = waiting
          ∧ ∀ i (h : i < new.length), new[i].seq = m.flash.nextSeq + BitVec.ofNat 64 i))

/-- R426, R428, R429: Vigil is entered by AUTO_VIGIL_MS through the handshake and by the idle timer without one, counted. At a wake a die takes its
readings: a placed leaf whose temperature has moved too far falls due, a kept snoop that shows a new descriptor begins the exit to Run, and an
exit asked for goes on. A die with nothing due sleeps again. -/
def Obligations.VigilEntriesWakesAndSleep : Prop :=
  ∀ s : State, let m := s.dev
    (m.power.st = .run → m.power.req = none → m.workHeld = false →
      (bits (m.reg pwrVigilCfg) 31 16 ≠ 0 → m.unasked = 0 → (∀ b ∈ powerBlocks, m.blockAnswer 1 b = .accept) →
        exec .autoVigilExpiry s = .next (s.withDev ({ m with power := { m.power with req := some { target := 1, src := none, accepted := true, exiting := false, deferring := [] } } })))
      ∧ (bits (m.reg pwrIdle) 13 0 ≠ 0 → m.unasked ≠ 0 → ∃ t, exec .idleTimerExpiry s = .next t
        ∧ t.dev = { m with dies := t.dev.dies, power := { m.power with st := .vigil, byTimer := true, exitAsked := false, timerEntries := t.dev.power.timerEntries } }
        ∧ t.dev.power.timerEntries.toNat = min (m.power.timerEntries.toNat + 1) 0x7FFF
        ∧ ∀ d, t.dev.die d = if m.inService d then { m.die d with awake := false, vddMv := 650 } else m.die d))
    ∧ (∀ d rs refv band vref, m.power.st = .vigil → m.inService d = true → (m.die d).awake = false → ∃ t, exec (.vigilWake d rs refv band vref) s = .next t
      ∧ (t.dev.die d).awake = true ∧ (m.power.req.all (fun r => r.exiting) = true → ∀ e ≠ d, t.dev.die e = m.die e) ∧ t.dev.parts = m.parts ∧ t.dev.rings = m.rings
      ∧ (m.power.exitAsked = true → m.power.req.any (fun r => r.exiting) = true → t.dev.power = { m.power with exitAsked := false })
      ∧ (m.power.exitAsked = false → m.power.req = none → (∃ k l, (m.ring k).enabled = true ∧ (m.ring k).kept = some l ∧ l.subTail ≠ (m.ring k).accepted) →
        t.dev.power = { m.power with req := some { target := 0, src := none, accepted := true, exiting := true, deferring := [] } })
      ∧ (m.power.exitAsked = false → m.power.req = none → (∀ k l, (m.ring k).enabled = true → (m.ring k).kept = some l → l.subTail = (m.ring k).accepted) →
        t.dev.power = m.power)
      ∧ (∀ i l, let f := (m.die d).leaf i l
        let dt := if f.frozen then min (bits (m.reg pwrLimitCfg) 21 17) (bits ((m.die d).reg calCfg) 4 0) else bits (m.reg pwrLimitCfg) 21 17
        f.placed = true → 16 * dt < ((t.dev.die d).tempAt i - f.cal.tcal.toInt).natAbs → ((t.dev.die d).leaf i l).runDue = true))
    ∧ (∀ d, m.power.st = .vigil → (m.die d).awake = true → (m.die d).wakeBusy = false →
      exec (.vigilSleep d) s = .next (s.withDev (m.modDie d (fun x => { x with awake := false }))))

/-- R418, R419, R421: a level written in Run sets the core voltage of every healthy die that is not held at 0.65 V, and nothing else; the
operator cap factor falls by 1/64 where ten samples are above CAP_W in the mean, down to 1/64 and with EV-PWR-03 at its first fall, and
rises by 1/64 after 10 ms without a change and a mean below 0.97 CAP_W.

R420, R421, R440: the thermal cap of a die falls by 8/64 to 16/64 at THERM_C and rises by 8/64 to 64/64 below THERM_C − 2 °C, but not
while the die is held after 105 °C; below 100 °C it recovers its voltage; at 115 °C every rail is removed and the thermal alert stands. -/
def Obligations.LevelsAndCaps : Prop :=
  (
  ∀ s : State, let m := s.dev
    let w := m.power
    let cap := bits (m.reg pwrCap) 10 0
    let sum (n : Nat) : Nat := (w.samples.drop (w.samples.length - n)).foldl (· + ·) 0
    (∀ v, w.st = .run → ∃ t, exec (.plWrite v) s = .next t ∧ t.dev = { m with dies := t.dev.dies, power := { w with pl := bits v 2 0 } }
      ∧ ∀ d, t.dev.die d = if m.inService d = true ∧ (m.die d).hot = false ∧ (m.die d).rails = true
        then { m.die d with vddMv := ([650, 650, 650, 650, 700, 750, 800, 850] : List Nat).getD (bits v 2 0) 0 } else m.die d)
    ∧ (∀ v, w.st = .vigil ∨ w.st = .repose → exec (.plWrite v) s = .next (s.withDev ({ m with power := { w with pl := bits v 2 0 } })))
    ∧ (∀ watts vin, w.st ≠ .off → exec (.powerSample watts vin) s = .next (s.withDev ({ m with power := { w with
      samples := (w.samples ++ [watts]).drop (w.samples.length - 99), since := w.since + 1, sinceRaise := w.sinceRaise + 1, vin := BitVec.ofNat 11 (min vin 0x7FF) } })))
    ∧ (10 ≤ w.since →
      (10 * cap < sum 10 → 1 < w.cOp → ∃ t, exec .capCheck s = .next t ∧ t.dev.power = { w with since := 0, cOp := w.cOp - 1, changed := true }
        ∧ OnlyEvents { m with power := t.dev.power } t.dev ∧ (w.cOp ≠ 64 → t.dev = { m with power := t.dev.power })
        ∧ (w.cOp = 64 → ∀ d, m.clockDie = some d → (((t.dev.die d).evBuf).getLast?.map (fun e => e.code)) = some (.pwr 3)))
      ∧ ((sum 10 ≤ 10 * cap ∨ w.cOp ≤ 1) → exec .capCheck s = .next (s.withDev ({ m with power := { w with since := 0 } }))))
    ∧ (w.sinceRaise < 100 → exec .capRaiseCheck s = .next s)
    ∧ (100 ≤ w.sinceRaise → w.samples.length ≤ 100 →
      (w.changed = false → sum 100 < 97 * cap → w.cOp < 64 →
        exec .capRaiseCheck s = .next (s.withDev ({ m with power := { w with sinceRaise := 0, cOp := w.cOp + 1 } })))
      ∧ ((w.changed = true ∨ 97 * cap ≤ sum 100 ∨ 64 ≤ w.cOp) →
        exec .capRaiseCheck s = .next (s.withDev ({ m with power := { w with sinceRaise := 0, changed := false } }))))
  )
  ∧
  (
  ∀ (s : State) (d : DieId), let m := s.dev
    let x := m.die d
    let c : Int := bits (m.reg pwrLimitCfg) 16 10
    m.inService d = true →
    (x.hot = false → (∃ t ∈ x.sensors, 16 * c ≤ t) →
      exec (.thermalCapFall d) s = .next (s.withDev (m.modDie d (fun x => { x with thermCap := max 16 (x.thermCap - 8) }))))
    ∧ (x.hot = false → (∀ t ∈ x.sensors, t < 16 * (c - 2)) →
      exec (.thermalCapRise d) s = .next (s.withDev (m.modDie d (fun x => { x with thermCap := min 64 (x.thermCap + 8) }))))
    ∧ (x.hot = true → exec (.thermalCapFall d) s = .next s ∧ exec (.thermalCapRise d) s = .next s)
    ∧ (x.hot = true → x.rails = true → m.power.st = .run → (∀ t ∈ x.sensors, t < 16 * 100) → exec (.overtempRecovered d) s = .next (s.withDev (m.modDie d (fun x =>
      { x with hot := false, vddMv := ([650, 650, 650, 650, 700, 750, 800, 850] : List Nat).getD m.power.pl 800 }))))
    ∧ (m.power.st ≠ .off → x.rails = true → (∃ t ∈ x.sensors, 16 * 115 ≤ t) → ∃ t, exec (.thermalTrip115 d) s = .next t ∧ RailsRemoved 3 m t.dev
      ∧ t.dev.board.thermTrip = true)
  )

/-! ### Supply, resets and start-up -/

/-- R438, R439, R440, R451: J1 out of its range, the loss of the standby supply and PWR_EN low remove every rail, the first with the fault alert
standing; module flash is kept. J1 in range with PWR_EN high starts the module, with TEST_EN low: every die boots, a pending image runs, and
nothing else comes up yet; with TEST_EN high it stays at standby good. -/
def Obligations.SupplyRemovesRailsAndStarts : Prop :=
  ∀ s : State, let m := s.dev
    let b := m.board
    (∃ t, exec .standbyPowerLoss s = .next t ∧ RailsRemoved 0 m t.dev ∧ t.dev.board.standby = false)
    ∧ (b.standby = false → exec .standbyPowerGood s = .next (s.withDev ({ m with board := { b with standby := true, upNs := 0 } })))
    ∧ (∀ mV, b.standby = true →
      (54000 ≤ mV → mV ≤ 66000 → exec (.j1OutOfRange mV) s = .next s)
      ∧ (mV < 54000 ∨ 66000 < mV → (m.power.st ≠ .off → ∃ t, exec (.j1OutOfRange mV) s = .next t
          ∧ RailsRemoved (if mV < 54000 then 1 else 2) m t.dev ∧ t.dev.board.j1Latch = true ∧ t.dev.alertFault = true)
        ∧ (m.power.st = .off → exec (.j1OutOfRange mV) s = .next (s.withDev ({ m with board := { b with j1Latch := true } })))))
    ∧ (b.standby = true → m.power.st = .off →
      exec (.powerOnStart true) s = .next (s.withDev ({ m with board := { b with j1Latch := false, pwrEn := true, testEn := true } }))
      ∧ ∃ t, exec (.powerOnStart false) s = .next t
        ∧ t.dev = { m with
            board := { b with j1Latch := false, pwrEn := true, testEn := false, stage := 1, upNs := 0 }
            dies := t.dev.dies, power := { m.power with st := .run }, sec := { m.sec with running := t.dev.sec.running, pending := [] } }
        ∧ (∀ d, t.dev.die d = { m.die d with booted := true, storeSeq := tget 0 m.flash.storeSeq d.val })
        ∧ ∀ k, tget (0, 0) t.dev.sec.running k = ((m.sec.pending.reverse.find? (fun e => decide (e.1 = k))).map (fun e => e.2)).getD (tget (0, 0) m.sec.running k))
    ∧ (m.power.st = .off → exec .pwrEnLow s = .next (s.withDev ({ m with board := { b with pwrEn := false } })))
    ∧ (m.power.st ≠ .off → ∃ t f, exec .pwrEnLow s = .next t ∧ RailsRemoved 4 { m with flash := f } t.dev ∧ t.dev.board.pwrEn = false
      ∧ f.store = m.flash.store ∧ f.leafBinds = m.flash.leafBinds ∧ (b.unlock = none → f.log = m.flash.log)
      ∧ ∀ d : DieId, tget [] f.retired d.val = if (m.die d).stack.clearTab then [] else tget [] m.flash.retired d.val)

/-- R45, R406, R451, R459: MOD_RST_N, and MODULE of SAF_RESET with its KEY, are module-level resets: nothing running is kept, fences are cleared,
module flash is kept but for the tables CLEAR_TABLE names, and start-up begins at boot with the pending images running, unless TEST_EN is high or
PWR_EN low. PARTIAL resets one die's controller and nothing else; without KEY nothing happens. -/
def Obligations.ModuleLevelAndPartialResets : Prop :=
  ∀ (s : State) (v : Word) (te : Bool), let m := s.dev
    (∀ c, (c = .modRstNAssert te ∧ m.board.standby = true) ∨ (c = .safResetModule v te ∧ m.map.primary.isSome = true ∧ v.getLsbD 31 = true ∧ bits v 15 8 = 0xA5) →
      ∃ t, exec c s = .next t ∧ (∀ p, t.dev.part p = Part.reset) ∧ (∀ k, t.dev.ring k = RingSet.reset) ∧ t.dev.binds = BindCtl.reset ∧ t.dev.regs = []
        ∧ t.dev.board.testEn = te ∧ t.dev.board.lastOff = (if m.power.st = .off then m.board.lastOff else 6) ∧ t.dev.board.unlock = none
        ∧ t.dev.flash.store = m.flash.store ∧ t.dev.flash.leafBinds = m.flash.leafBinds ∧ t.dev.sec.seqAcc = m.sec.seqAcc ∧ t.dev.sec.sessions = []
        ∧ (∀ d : DieId, tget [] t.dev.flash.retired d.val = if (m.die d).stack.clearTab then [] else tget [] m.flash.retired d.val)
        ∧ (m.board.standby = true → m.board.pwrEn = true → m.board.j1Latch = false → te = false → t.dev.power.st = .run ∧ t.dev.board.stage = 1
          ∧ (∀ d, t.dev.die d = { Die.reset with booted := true, storeSeq := tget 0 m.flash.storeSeq d.val }) ∧ t.dev.sec.pending = []
          ∧ ∀ k, tget (0, 0) t.dev.sec.running k = ((m.sec.pending.reverse.find? (fun e => decide (e.1 = k))).map (fun e => e.2)).getD (tget (0, 0) m.sec.running k))
        ∧ (m.board.pwrEn = false ∨ m.board.j1Latch = true ∨ te = true → t.dev.power = Power.reset ∧ (∀ d, t.dev.die d = Die.reset)
          ∧ t.dev.sec.pending = m.sec.pending))
    ∧ (m.map.primary.isSome = true → bits v 15 8 ≠ 0xA5 → exec (.safResetModule v te) s = .next s ∧ exec (.safResetPartial v) s = .next s)
    ∧ (∀ d : DieId, m.map.primary.isSome = true → bits v 15 8 = 0xA5 → v.getLsbD 31 = false → v.getLsbD 30 = true → bits v 18 16 = d.val →
      m.inService d = true → (m.die d).saf.resetting = false → ∃ t, exec (.safResetPartial v) s = .next t ∧ (t.dev.die d).saf.resetting = true
        ∧ bits (t.dev.reg safReset) 18 16 = d.val ∧ t.dev.parts = m.parts ∧ t.dev.rings = m.rings ∧ (∀ e, (t.dev.die e).cls = (m.die e).cls)
        ∧ (m.map.primary ≠ some d → t.dev.map = m.map))

/-- R442, R448, R452: a host-link reset discards what the host gave the ring sets, aborts a running step before its commit point, ends IDE, and
leaves dies in their classes, stacks, committed weights, almanacs, bindings and epochs as they are. Then the link is trained anew on half 0, on half 1
after a timeout where the port is bifurcated; configuration requests are retried until CXL ready, which the election allows. -/
def Obligations.HostLinkResetAndTraining : Prop :=
  ∀ s : State, let m := s.dev
    let b := m.board
    (∀ kind, (∀ p, (m.part p).intr = none) → (∀ p r, (m.part p).run = some r → r.decided = false ∧ (m.part p).almanac.isSome = true) →
      ∃ t, exec (.hostLinkReset kind) s = .next t
        ∧ (∀ k, t.dev.ring k = { t.dev.ring k with enabled := false, disabling := false, kept := none, held := [], slots := [], ctrl := (m.ring k).ctrl, bases := (m.ring k).bases })
        ∧ (∀ p, let x := m.part p
          let y := t.dev.part p
          y.st = (if x.st = .running then .loaded else x.st) ∧ (x.st = .running → y.run = none) ∧ (x.st = .suspended → y.run = x.run)
          ∧ y.epoch = x.epoch ∧ y.almanac = x.almanac ∧ y.variant = x.variant ∧ y.bufs = [] ∧ y.loading = none ∧ y.armed = none
          ∧ y.com.masters = x.com.masters ∧ y.com.opt = x.com.opt ∧ y.com.steps = x.com.steps)
        ∧ (∀ d, (t.dev.die d).cls = (m.die d).cls ∧ (t.dev.die d).stack = (m.die d).stack) ∧ t.dev.binds = m.binds ∧ t.dev.sec = { m.sec with ide := [] }
        ∧ t.dev.board = { b with linkUp := b.linkUp && (decide (kind = .flr) || decide (kind = .cxlReset)), memActive := false, cacheEn := false,
                                 perst := b.perst || decide (kind = .perst), stage := if b.stage = 4 then 3 else b.stage })
    ∧ (b.perst = true → exec .perstRelease s = .next (s.withDev ({ m with board := { b with perst := false, half := 0 } })))
    ∧ (b.bifurcated = true → b.perst = false → b.linkUp = false → exec .cxlHalf0Timeout s = .next (s.withDev ({ m with board := { b with half := 1 } })))
    ∧ (1 ≤ b.stage → b.perst = false → exec .cxlLinkUp s = .next (s.withDev ({ m with board := { b with linkUp := true } })))
    ∧ (∀ tag c, b.linkUp = true → exec (.cxlConfigRequest tag c) s = .next (s.withDev (if b.memActive = true
        then { m with board := { b with cacheEn := c.getD b.cacheEn }, out := m.out ++ [.configReply tag false] }
        else { m with out := m.out ++ [.configReply tag true] })))
    ∧ (b.linkUp = true → 3 ≤ b.stage → (∀ d, (m.die d).cls ≠ .unclassified) → (m.map.primary.isSome = true ∨ ∀ d, m.inService d = false) →
      exec .cxlReady s = .next (s.withDev ({ m with board := { b with memActive := true, stage := max 4 b.stage } })))

/-- R43, R45, R186, R450: at rails good a die comes up with its reference trimmed against REFV, its DIE record written, or, REFV out of range, as
its DIE record has it, and is fenced with neither;
below 0 °C it warms up, and without REFCLK it waits; one whose warm-up or wait ends in vain is fenced. The start-up test begins once every die
is ready or fenced, and classifies every die: in service where its test passed and its stack trained, fenced otherwise. -/
def Obligations.StartupClassifiesDies : Prop :=
  ∀ (s : State) (d : DieId), let m := s.dev
    let readied (t : State) (least : Nat) : Prop := t.dev.board.stage = if least = 2 ∧ (∀ e, t.dev.fencedDie e = true
      ∨ ((t.dev.die e).rails = true ∧ (t.dev.die e).warmup = false ∧ (t.dev.die e).refWait = false)) then 3 else least
    (∀ f : RailsFound, (m.die d).booted = true → (m.die d).cls = .unclassified → (m.die d).rails = false → ∃ t, exec (.railsGood d f) s = .next t
      ∧ readied t (max 2 m.board.stage) ∧ t.dev.parts = m.parts
      ∧ (∀ e ≠ d, (t.dev.die e).cls = (m.die e).cls)
      ∧ (let x := m.die d
        let y := t.dev.die d
        let up (trim : Int) (ratio : Nat) (ts : List Int) (o : BitVec 12) (g : BitVec 16) : Prop :=
          y = { x with
            rails := true, analog := true, vddMv := 800, warmup := f.cold, refclkOk := f.refclk, refWait := !f.refclk, vrefTrim := trim, bandRatio := ratio
            mon := { x.mon with refvOk := f.refvOk, refv := BitVec.ofNat 17 f.refv, trims := y.mon.trims, o := o, g := g }
            storeSeq := y.storeSeq, storeDue := y.storeDue, discarded := y.discarded, evBuf := y.evBuf, evLost := y.evLost }
          ∧ ∀ i, tget 0 y.mon.trims i = ts.getD i 0
        (f.refvOk = true → up f.vrefTrim f.ratio f.trims f.monO f.monG ∧ (∀ e ≠ d, t.dev.die e = m.die e)
          ∧ ∃ b r, tget [] t.dev.flash.store (copyKey d .die 0 0 b) = recordBytes m.sec.idtag d .die 0 0 r ∧ r.payload = y.storePayload .die 0 0
            ∧ r.seq = x.storeSeq + 1 ∧ tget [] t.dev.flash.store (copyKey d .die 0 0 !b) = [])
        ∧ (∀ r trim ratio ts o g, f.refvOk = false → m.readStore f.errors d .die 0 0 = some r → r.payload = .die trim ratio ts o g → up trim ratio ts o g)
        ∧ (f.refvOk = false → m.readStore f.errors d .die 0 0 = none → t.dev.fencedDie d = true)))
    ∧ ((m.die d).warmup = true → (∃ t, exec (.warmupEnd d true) s = .next t ∧ readied t m.board.stage ∧ t.dev = { m.modDie d (fun x => { x with warmup := false }) with board := t.dev.board })
      ∧ ∃ t, exec (.warmupEnd d false) s = .next t ∧ readied t m.board.stage ∧ t.dev.fencedDie d = true)
    ∧ ((m.die d).refWait = true → ∃ t, exec (.refclkWaitTimeout d) s = .next t ∧ readied t m.board.stage ∧ t.dev.fencedDie d = true
      ∧ ∀ e ≠ d, (t.dev.die e).cls = (m.die e).cls)
    ∧ (∀ passed trained up, m.board.stage = 3 → (∃ e, (m.die e).cls = .unclassified) → ∃ t, exec (.startupTestDone passed trained up) s = .next t
      ∧ ((∀ p, (t.dev.part p).intr = none) → t.dev.dieMap = t.dev.dieMapWord)
      ∧ ((m.die d).cls ≠ .unclassified → (t.dev.die d).cls = (m.die d).cls)
      ∧ ((m.die d).cls = .unclassified → trained.getLsbD d.val = true → passed.getLsbD d.val = true → (t.dev.die d).cls = .inService ∧ (t.dev.die d).stack.trained = true
        ∧ (up = false → ∀ i < 1024, tget false m.flash.cubesRet (d.val * 1024 + i) = true → ((t.dev.die d).cube i).st = .retired))
      ∧ ((m.die d).cls = .unclassified → (trained.getLsbD d.val = false ∨ passed.getLsbD d.val = false) → (t.dev.die d).cls = .fenced))

/-! ### Test hooks and the test port -/

/-- R454, R455, R460: under an open unlock that permits the class selected, each setting of that class takes the fields written that lie in their
ranges, and STALL withholds one acknowledgement; otherwise the write has no effect. At closing, by CLOSE or when the duration has run out,
every TST_ field of a die reads its reset value and every test partition's job stops, and no other partition changes.

R453: the test port. BYPASS and IDCODE work always; EXTEST and CLAMP drive the pins, HIGHZ floats them and SAMPLE/PRELOAD exchanges the boundary
register with TEST_EN high, and with it low each loads BYPASS. A private instruction stops the model where it works (the spec gives it no
effect) and loads BYPASS elsewhere. -/
def Obligations.TestHooksAndTestPort : Prop :=
  (
  ∀ s : State, let m := s.dev
    let closes (c : Instr) : Prop := ∃ t, exec c s = .next t ∧ t.dev.board = { m.board with unlock := none, sev3 := t.dev.board.sev3 }
      ∧ (∀ d (r : RegDef), (t.dev.die d).reg r = if r.off % 0x10000 < 0x8000 then (m.die d).reg r else r.reset) ∧ (∀ d, (t.dev.die d).stallSet = [])
      ∧ (∀ p, m.board.testParts.getLsbD p.val = false → t.dev.part p = m.part p)
      ∧ (∀ p, m.board.testParts.getLsbD p.val = true → (m.part p).hasJob = true → (t.dev.part p).st = .stopped ∧ (t.dev.part p).run = none)
    (∀ (d : DieId) (v : Word), let x := m.die d
      let cls := bits (x.reg tstClassSel) 2 0
      let permitted := m.dieRegs d = true ∧ ∃ u, m.board.unlock = some u ∧ u.mask.getLsbD cls = true
      (∀ c r fs, (c, r, fs) ∈ [(Instr.ackDelayWrite d v, tstAckDelay, [whole 31 31, range 15 0 0 65535]), (.stretchWrite d v, tstStretch, [whole 31 31, range 9 0 16 1023]),
          (.backpressWrite d v, tstBackpress, [whole 31 31, range 25 16 0 1000, range 15 0 0 65535]), (.patternWrite d v, tstPattern, [whole 31 31, range 15 0 1 65535])] →
        (permitted → ∃ t, exec c s = .next t
          ∧ (∀ f ∈ fs, bits ((t.dev.die d).reg (banked r cls)) f.hi f.lo
            = if f.least ≤ bits v f.hi f.lo ∧ bits v f.hi f.lo ≤ f.most then bits v f.hi f.lo else bits (x.reg (banked r cls)) f.hi f.lo)
          ∧ (∀ q : RegDef, q.off ≠ (banked r cls).off → (t.dev.die d).reg q = x.reg q)
          ∧ t = (s.withDev (m.modDie d (fun x => { x with regs := (t.dev.die d).regs }))))
        ∧ (¬ permitted → exec c s = .next s))
      ∧ (permitted → v.getLsbD 31 = true → x.stallSet = [] → exec (.stallGo d v) s = .next (s.withDev (m.modDie d (fun x => { x with stallSet := [(cls, 1)] }))))
      ∧ (¬ permitted ∨ x.stallSet ≠ [] → exec (.stallGo d v) s = .next s))
    ∧ (∀ v, m.power.st ≠ .off → m.board.unlock.isSome = true → v.getLsbD 30 = true → closes (.unlockCloseWrite v))
    ∧ (∀ u, m.board.unlock = some u → (u.durationS * 1000000000 ≤ (m.elapsed u.openedAt).toNat → closes .unlockExpiry)
      ∧ ((m.elapsed u.openedAt).toNat < u.durationS * 1000000000 → exec .unlockExpiry s = .next s))
  )
  ∧
  (
  ∀ s : State, let m := s.dev
    let b := m.board
    let loads (i : JtagIr) (drive float : Bool) : Dev := { m with board := { b with ir := i, pinsDriven := drive, pinsFloat := float } }
    b.standby = true →
    exec .bypass s = .next (s.withDev (loads .bypass false false))
    ∧ exec .idcode s = .next (s.withDev ({ loads .idcode false false with out := m.out ++ [.tdo 0x18A104F3#32] }))
    ∧ (b.testEn = true →
      exec .extest s = .next (s.withDev (loads .extest true false)) ∧ exec .clamp s = .next (s.withDev (loads .clamp true false))
      ∧ exec .highz s = .next (s.withDev (loads .highz false true))
      ∧ ∀ cap pre, exec (.samplePreload cap pre) s = .next (s.withDev ({ loads .sample false false with
          board := { (loads .sample false false).board with boundary := pre }, out := m.out ++ [.boundary cap] })))
    ∧ (b.testEn = false → ∀ cap pre, ∀ c ∈ [Instr.extest, .clamp, .highz, .samplePreload cap pre], exec c s = .next (s.withDev (loads .bypass false false)))
    ∧ (∀ n, (b.testEn = false → (∃ u, b.unlock = some u ∧ u.priv = true) → exec (.privateInstruction n) s = .refused .privateInstruction)
      ∧ (¬ (b.testEn = false ∧ ∃ u, b.unlock = some u ∧ u.priv = true) → exec (.privateInstruction n) s = .next (s.withDev (loads .bypass false false))))
  )

/-! ### Invariants -/

/-- The invariants below hold at reset: each set-up register's fields lie in their ranges, and every memory is canonical. -/
def Obligations.ResetMeetsTheInvariants : Prop := SetUpInRange State.reset.dev ∧ MemoriesCanonical State.reset.dev

/-- R237, R456: whatever is written, a field of a set-up register keeps a value in its range and a reserved bit keeps its reset value, through every
step from any state in which that holds. -/
def Obligations.SetUpRegistersStayInRange : Prop :=
  ∀ s t : State, SetUpInRange s.dev → step s = .next t → SetUpInRange t.dev

/-- Every step keeps every byte memory in its canonical form, so that equal memories are equal data (the model's, log entry 6). -/
def Obligations.MemoriesStayCanonical : Prop :=
  ∀ s t : State, MemoriesCanonical s.dev → step s = .next t → MemoriesCanonical t.dev

/-- R45: no command returns a fenced die to service; a fence ends only with the reset of the whole module, and a die enters service only by its
start-up classification, unclassified before. -/
def Obligations.FencedDiesNeverReturnToService : Prop :=
  ∀ (c : Instr) (s t : State) (d : DieId), exec c s = .next t →
    (s.dev.fencedDie d = true → t.dev.inService d = false)
    ∧ (s.dev.inService d = false → t.dev.inService d = true → (s.dev.die d).cls = .unclassified ∧ ∃ p k u, c = .startupTestDone p k u)
    ∧ (s.dev.fencedDie d = true → t.dev.fencedDie d = false → (∀ e, (t.dev.die e).cls = .unclassified) ∧ ∀ p, t.dev.part p = Part.reset)

/-- R241: a step writes only its working halves: no command outside those listed in `changesCommitted` changes the committed masters, the committed optimiser
state or the step count of any partition, whatever steps, faults, rollbacks and die losses it brings. -/
def Obligations.CommittedStateChangesOnlyAtItsCommands : Prop :=
  ∀ (c : Instr) (s t : State) (p : Pid), changesCommitted c = false → exec c s = .next t →
    (t.dev.part p).com.masters = (s.dev.part p).com.masters ∧ (t.dev.part p).com.opt = (s.dev.part p).com.opt
      ∧ (t.dev.part p).com.steps = (s.dev.part p).com.steps

/-- R397: the last accepted SEQ of a record type never falls, through any step, resets and the loss of power included. -/
def Obligations.AcceptedSequenceNumbersNeverFall : Prop :=
  ∀ (s t : State) (k : Nat), step s = .next t → tget 0 s.dev.sec.seqAcc k ≤ tget 0 t.dev.sec.seqAcc k

/-! ### The container as bytes -/

/-- R273 to R279, R320 to R324, R342: the header of a container is 256 bytes and a directory entry 32, and wherever the load checks a directory entry's
LENGTH, it is that of the section's bytes, padded to 64 bytes but for the SIGNATURE section; a LAYER section's COUNT is that of its entries. The padding is the model's (log entry 119). -/
def Obligations.SectionsFillTheirDirectoryLength : Prop :=
  ∀ (a : Container) (e : DirEntry) (f : Nat × Nat) (wrapped rsa slh : List Byte),
    wrapped.length = 40 → rsa.length = 384 → slh.length = 16224 → sectionForm a e = some f →
    (headerBytes a).length = 256 ∧ (dirBytes e).length = 32
      ∧ (∃ bs, sectionBytes a wrapped rsa slh e = some bs ∧ f.2 = if e.typ = 0xFF then bs.length else pad64 bs.length)
      ∧ (e.typ = 2 → f.1 = a.layerTab.length + a.tensorTab.length)
end

