-- ==== Sys2Proof/Laws/State.lean ====
section
/-! SUPPORT. What each update of the state leaves alone, one lemma per field, and what it reads as where it acts, so that no proof
unfolds a record update. -/

namespace Sys2Proof.Machine

open Sys2Proof

/-! ### Dev.modDie -/

@[simp] theorem Dev.modDie_board (m : Dev) (d : DieId) (f : Die → Die) : (m.modDie d f).board = m.board := rfl
@[simp] theorem Dev.modDie_parts (m : Dev) (d : DieId) (f : Die → Die) : (m.modDie d f).parts = m.parts := rfl
@[simp] theorem Dev.modDie_rings (m : Dev) (d : DieId) (f : Die → Die) : (m.modDie d f).rings = m.rings := rfl
@[simp] theorem Dev.modDie_map (m : Dev) (d : DieId) (f : Die → Die) : (m.modDie d f).map = m.map := rfl
@[simp] theorem Dev.modDie_binds (m : Dev) (d : DieId) (f : Die → Die) : (m.modDie d f).binds = m.binds := rfl
@[simp] theorem Dev.modDie_power (m : Dev) (d : DieId) (f : Die → Die) : (m.modDie d f).power = m.power := rfl
@[simp] theorem Dev.modDie_sec (m : Dev) (d : DieId) (f : Die → Die) : (m.modDie d f).sec = m.sec := rfl
@[simp] theorem Dev.modDie_flash (m : Dev) (d : DieId) (f : Die → Die) : (m.modDie d f).flash = m.flash := rfl
@[simp] theorem Dev.modDie_digest (m : Dev) (d : DieId) (f : Die → Die) : (m.modDie d f).digest = m.digest := rfl
@[simp] theorem Dev.modDie_recov (m : Dev) (d : DieId) (f : Die → Die) : (m.modDie d f).recov = m.recov := rfl
@[simp] theorem Dev.modDie_dieMap (m : Dev) (d : DieId) (f : Die → Die) : (m.modDie d f).dieMap = m.dieMap := rfl
@[simp] theorem Dev.modDie_evMod (m : Dev) (d : DieId) (f : Die → Die) : (m.modDie d f).evMod = m.evMod := rfl
@[simp] theorem Dev.modDie_regs (m : Dev) (d : DieId) (f : Die → Die) : (m.modDie d f).regs = m.regs := rfl
@[simp] theorem Dev.modDie_out (m : Dev) (d : DieId) (f : Die → Die) : (m.modDie d f).out = m.out := rfl
@[simp] theorem Dev.modDie_free (m : Dev) (d : DieId) (f : Die → Die) : (m.modDie d f).free = m.free := rfl

/-! ### Dev.modPart -/

@[simp] theorem Dev.modPart_board (m : Dev) (p : Pid) (f : Part → Part) : (m.modPart p f).board = m.board := rfl
@[simp] theorem Dev.modPart_dies (m : Dev) (p : Pid) (f : Part → Part) : (m.modPart p f).dies = m.dies := rfl
@[simp] theorem Dev.modPart_rings (m : Dev) (p : Pid) (f : Part → Part) : (m.modPart p f).rings = m.rings := rfl
@[simp] theorem Dev.modPart_map (m : Dev) (p : Pid) (f : Part → Part) : (m.modPart p f).map = m.map := rfl
@[simp] theorem Dev.modPart_binds (m : Dev) (p : Pid) (f : Part → Part) : (m.modPart p f).binds = m.binds := rfl
@[simp] theorem Dev.modPart_power (m : Dev) (p : Pid) (f : Part → Part) : (m.modPart p f).power = m.power := rfl
@[simp] theorem Dev.modPart_sec (m : Dev) (p : Pid) (f : Part → Part) : (m.modPart p f).sec = m.sec := rfl
@[simp] theorem Dev.modPart_flash (m : Dev) (p : Pid) (f : Part → Part) : (m.modPart p f).flash = m.flash := rfl
@[simp] theorem Dev.modPart_digest (m : Dev) (p : Pid) (f : Part → Part) : (m.modPart p f).digest = m.digest := rfl
@[simp] theorem Dev.modPart_recov (m : Dev) (p : Pid) (f : Part → Part) : (m.modPart p f).recov = m.recov := rfl
@[simp] theorem Dev.modPart_dieMap (m : Dev) (p : Pid) (f : Part → Part) : (m.modPart p f).dieMap = m.dieMap := rfl
@[simp] theorem Dev.modPart_evMod (m : Dev) (p : Pid) (f : Part → Part) : (m.modPart p f).evMod = m.evMod := rfl
@[simp] theorem Dev.modPart_regs (m : Dev) (p : Pid) (f : Part → Part) : (m.modPart p f).regs = m.regs := rfl
@[simp] theorem Dev.modPart_out (m : Dev) (p : Pid) (f : Part → Part) : (m.modPart p f).out = m.out := rfl
@[simp] theorem Dev.modPart_free (m : Dev) (p : Pid) (f : Part → Part) : (m.modPart p f).free = m.free := rfl

/-! ### Dev.modRing -/

@[simp] theorem Dev.modRing_board (m : Dev) (k : SetId) (f : RingSet → RingSet) : (m.modRing k f).board = m.board := rfl
@[simp] theorem Dev.modRing_dies (m : Dev) (k : SetId) (f : RingSet → RingSet) : (m.modRing k f).dies = m.dies := rfl
@[simp] theorem Dev.modRing_parts (m : Dev) (k : SetId) (f : RingSet → RingSet) : (m.modRing k f).parts = m.parts := rfl
@[simp] theorem Dev.modRing_map (m : Dev) (k : SetId) (f : RingSet → RingSet) : (m.modRing k f).map = m.map := rfl
@[simp] theorem Dev.modRing_binds (m : Dev) (k : SetId) (f : RingSet → RingSet) : (m.modRing k f).binds = m.binds := rfl
@[simp] theorem Dev.modRing_power (m : Dev) (k : SetId) (f : RingSet → RingSet) : (m.modRing k f).power = m.power := rfl
@[simp] theorem Dev.modRing_sec (m : Dev) (k : SetId) (f : RingSet → RingSet) : (m.modRing k f).sec = m.sec := rfl
@[simp] theorem Dev.modRing_flash (m : Dev) (k : SetId) (f : RingSet → RingSet) : (m.modRing k f).flash = m.flash := rfl
@[simp] theorem Dev.modRing_digest (m : Dev) (k : SetId) (f : RingSet → RingSet) : (m.modRing k f).digest = m.digest := rfl
@[simp] theorem Dev.modRing_recov (m : Dev) (k : SetId) (f : RingSet → RingSet) : (m.modRing k f).recov = m.recov := rfl
@[simp] theorem Dev.modRing_dieMap (m : Dev) (k : SetId) (f : RingSet → RingSet) : (m.modRing k f).dieMap = m.dieMap := rfl
@[simp] theorem Dev.modRing_evMod (m : Dev) (k : SetId) (f : RingSet → RingSet) : (m.modRing k f).evMod = m.evMod := rfl
@[simp] theorem Dev.modRing_regs (m : Dev) (k : SetId) (f : RingSet → RingSet) : (m.modRing k f).regs = m.regs := rfl
@[simp] theorem Dev.modRing_out (m : Dev) (k : SetId) (f : RingSet → RingSet) : (m.modRing k f).out = m.out := rfl
@[simp] theorem Dev.modRing_free (m : Dev) (k : SetId) (f : RingSet → RingSet) : (m.modRing k f).free = m.free := rfl

/-! ### Dev.emit -/

@[simp] theorem Dev.emit_board (m : Dev) (o : Out) : (m.emit o).board = m.board := rfl
@[simp] theorem Dev.emit_dies (m : Dev) (o : Out) : (m.emit o).dies = m.dies := rfl
@[simp] theorem Dev.emit_parts (m : Dev) (o : Out) : (m.emit o).parts = m.parts := rfl
@[simp] theorem Dev.emit_rings (m : Dev) (o : Out) : (m.emit o).rings = m.rings := rfl
@[simp] theorem Dev.emit_map (m : Dev) (o : Out) : (m.emit o).map = m.map := rfl
@[simp] theorem Dev.emit_binds (m : Dev) (o : Out) : (m.emit o).binds = m.binds := rfl
@[simp] theorem Dev.emit_power (m : Dev) (o : Out) : (m.emit o).power = m.power := rfl
@[simp] theorem Dev.emit_sec (m : Dev) (o : Out) : (m.emit o).sec = m.sec := rfl
@[simp] theorem Dev.emit_flash (m : Dev) (o : Out) : (m.emit o).flash = m.flash := rfl
@[simp] theorem Dev.emit_digest (m : Dev) (o : Out) : (m.emit o).digest = m.digest := rfl
@[simp] theorem Dev.emit_recov (m : Dev) (o : Out) : (m.emit o).recov = m.recov := rfl
@[simp] theorem Dev.emit_dieMap (m : Dev) (o : Out) : (m.emit o).dieMap = m.dieMap := rfl
@[simp] theorem Dev.emit_evMod (m : Dev) (o : Out) : (m.emit o).evMod = m.evMod := rfl
@[simp] theorem Dev.emit_regs (m : Dev) (o : Out) : (m.emit o).regs = m.regs := rfl
@[simp] theorem Dev.emit_free (m : Dev) (o : Out) : (m.emit o).free = m.free := rfl

/-! ### Dev.drawn -/

@[simp] theorem Dev.drawn_board (m : Dev) (n : Nat) : (m.drawn n).board = m.board := rfl
@[simp] theorem Dev.drawn_dies (m : Dev) (n : Nat) : (m.drawn n).dies = m.dies := rfl
@[simp] theorem Dev.drawn_parts (m : Dev) (n : Nat) : (m.drawn n).parts = m.parts := rfl
@[simp] theorem Dev.drawn_rings (m : Dev) (n : Nat) : (m.drawn n).rings = m.rings := rfl
@[simp] theorem Dev.drawn_map (m : Dev) (n : Nat) : (m.drawn n).map = m.map := rfl
@[simp] theorem Dev.drawn_binds (m : Dev) (n : Nat) : (m.drawn n).binds = m.binds := rfl
@[simp] theorem Dev.drawn_power (m : Dev) (n : Nat) : (m.drawn n).power = m.power := rfl
@[simp] theorem Dev.drawn_sec (m : Dev) (n : Nat) : (m.drawn n).sec = m.sec := rfl
@[simp] theorem Dev.drawn_flash (m : Dev) (n : Nat) : (m.drawn n).flash = m.flash := rfl
@[simp] theorem Dev.drawn_digest (m : Dev) (n : Nat) : (m.drawn n).digest = m.digest := rfl
@[simp] theorem Dev.drawn_recov (m : Dev) (n : Nat) : (m.drawn n).recov = m.recov := rfl
@[simp] theorem Dev.drawn_dieMap (m : Dev) (n : Nat) : (m.drawn n).dieMap = m.dieMap := rfl
@[simp] theorem Dev.drawn_evMod (m : Dev) (n : Nat) : (m.drawn n).evMod = m.evMod := rfl
@[simp] theorem Dev.drawn_regs (m : Dev) (n : Nat) : (m.drawn n).regs = m.regs := rfl
@[simp] theorem Dev.drawn_out (m : Dev) (n : Nat) : (m.drawn n).out = m.out := rfl

/-! ### Dev.publishMap -/

@[simp] theorem Dev.publishMap_board (m : Dev) : (m.publishMap).board = m.board := rfl
@[simp] theorem Dev.publishMap_dies (m : Dev) : (m.publishMap).dies = m.dies := rfl
@[simp] theorem Dev.publishMap_parts (m : Dev) : (m.publishMap).parts = m.parts := rfl
@[simp] theorem Dev.publishMap_rings (m : Dev) : (m.publishMap).rings = m.rings := rfl
@[simp] theorem Dev.publishMap_map (m : Dev) : (m.publishMap).map = m.map := rfl
@[simp] theorem Dev.publishMap_binds (m : Dev) : (m.publishMap).binds = m.binds := rfl
@[simp] theorem Dev.publishMap_power (m : Dev) : (m.publishMap).power = m.power := rfl
@[simp] theorem Dev.publishMap_sec (m : Dev) : (m.publishMap).sec = m.sec := rfl
@[simp] theorem Dev.publishMap_flash (m : Dev) : (m.publishMap).flash = m.flash := rfl
@[simp] theorem Dev.publishMap_digest (m : Dev) : (m.publishMap).digest = m.digest := rfl
@[simp] theorem Dev.publishMap_recov (m : Dev) : (m.publishMap).recov = m.recov := rfl
@[simp] theorem Dev.publishMap_evMod (m : Dev) : (m.publishMap).evMod = m.evMod := rfl
@[simp] theorem Dev.publishMap_regs (m : Dev) : (m.publishMap).regs = m.regs := rfl
@[simp] theorem Dev.publishMap_out (m : Dev) : (m.publishMap).out = m.out := rfl
@[simp] theorem Dev.publishMap_free (m : Dev) : (m.publishMap).free = m.free := rfl

/-! ### Dev.setOwner -/

@[simp] theorem Dev.setOwner_board (m : Dev) (r : Resource) (p : Option Pid) : (m.setOwner r p).board = m.board := rfl
@[simp] theorem Dev.setOwner_dies (m : Dev) (r : Resource) (p : Option Pid) : (m.setOwner r p).dies = m.dies := rfl
@[simp] theorem Dev.setOwner_parts (m : Dev) (r : Resource) (p : Option Pid) : (m.setOwner r p).parts = m.parts := rfl
@[simp] theorem Dev.setOwner_rings (m : Dev) (r : Resource) (p : Option Pid) : (m.setOwner r p).rings = m.rings := rfl
@[simp] theorem Dev.setOwner_map (m : Dev) (r : Resource) (p : Option Pid) : (m.setOwner r p).map = m.map := rfl
@[simp] theorem Dev.setOwner_power (m : Dev) (r : Resource) (p : Option Pid) : (m.setOwner r p).power = m.power := rfl
@[simp] theorem Dev.setOwner_sec (m : Dev) (r : Resource) (p : Option Pid) : (m.setOwner r p).sec = m.sec := rfl
@[simp] theorem Dev.setOwner_flash (m : Dev) (r : Resource) (p : Option Pid) : (m.setOwner r p).flash = m.flash := rfl
@[simp] theorem Dev.setOwner_digest (m : Dev) (r : Resource) (p : Option Pid) : (m.setOwner r p).digest = m.digest := rfl
@[simp] theorem Dev.setOwner_recov (m : Dev) (r : Resource) (p : Option Pid) : (m.setOwner r p).recov = m.recov := rfl
@[simp] theorem Dev.setOwner_dieMap (m : Dev) (r : Resource) (p : Option Pid) : (m.setOwner r p).dieMap = m.dieMap := rfl
@[simp] theorem Dev.setOwner_evMod (m : Dev) (r : Resource) (p : Option Pid) : (m.setOwner r p).evMod = m.evMod := rfl
@[simp] theorem Dev.setOwner_regs (m : Dev) (r : Resource) (p : Option Pid) : (m.setOwner r p).regs = m.regs := rfl
@[simp] theorem Dev.setOwner_out (m : Dev) (r : Resource) (p : Option Pid) : (m.setOwner r p).out = m.out := rfl
@[simp] theorem Dev.setOwner_free (m : Dev) (r : Resource) (p : Option Pid) : (m.setOwner r p).free = m.free := rfl

/-! ### Dev.setReg -/

@[simp] theorem Dev.setReg_board (m : Dev) (r : RegDef) (v : Word) : (m.setReg r v).board = m.board := rfl
@[simp] theorem Dev.setReg_dies (m : Dev) (r : RegDef) (v : Word) : (m.setReg r v).dies = m.dies := rfl
@[simp] theorem Dev.setReg_parts (m : Dev) (r : RegDef) (v : Word) : (m.setReg r v).parts = m.parts := rfl
@[simp] theorem Dev.setReg_rings (m : Dev) (r : RegDef) (v : Word) : (m.setReg r v).rings = m.rings := rfl
@[simp] theorem Dev.setReg_map (m : Dev) (r : RegDef) (v : Word) : (m.setReg r v).map = m.map := rfl
@[simp] theorem Dev.setReg_binds (m : Dev) (r : RegDef) (v : Word) : (m.setReg r v).binds = m.binds := rfl
@[simp] theorem Dev.setReg_power (m : Dev) (r : RegDef) (v : Word) : (m.setReg r v).power = m.power := rfl
@[simp] theorem Dev.setReg_sec (m : Dev) (r : RegDef) (v : Word) : (m.setReg r v).sec = m.sec := rfl
@[simp] theorem Dev.setReg_flash (m : Dev) (r : RegDef) (v : Word) : (m.setReg r v).flash = m.flash := rfl
@[simp] theorem Dev.setReg_digest (m : Dev) (r : RegDef) (v : Word) : (m.setReg r v).digest = m.digest := rfl
@[simp] theorem Dev.setReg_recov (m : Dev) (r : RegDef) (v : Word) : (m.setReg r v).recov = m.recov := rfl
@[simp] theorem Dev.setReg_dieMap (m : Dev) (r : RegDef) (v : Word) : (m.setReg r v).dieMap = m.dieMap := rfl
@[simp] theorem Dev.setReg_evMod (m : Dev) (r : RegDef) (v : Word) : (m.setReg r v).evMod = m.evMod := rfl
@[simp] theorem Dev.setReg_out (m : Dev) (r : RegDef) (v : Word) : (m.setReg r v).out = m.out := rfl
@[simp] theorem Dev.setReg_free (m : Dev) (r : RegDef) (v : Word) : (m.setReg r v).free = m.free := rfl

/-! ### Dev.modCom -/

@[simp] theorem Dev.modCom_board (m : Dev) (p : Pid) (f : Committed → Committed) : (m.modCom p f).board = m.board := rfl
@[simp] theorem Dev.modCom_dies (m : Dev) (p : Pid) (f : Committed → Committed) : (m.modCom p f).dies = m.dies := rfl
@[simp] theorem Dev.modCom_rings (m : Dev) (p : Pid) (f : Committed → Committed) : (m.modCom p f).rings = m.rings := rfl
@[simp] theorem Dev.modCom_map (m : Dev) (p : Pid) (f : Committed → Committed) : (m.modCom p f).map = m.map := rfl
@[simp] theorem Dev.modCom_binds (m : Dev) (p : Pid) (f : Committed → Committed) : (m.modCom p f).binds = m.binds := rfl
@[simp] theorem Dev.modCom_power (m : Dev) (p : Pid) (f : Committed → Committed) : (m.modCom p f).power = m.power := rfl
@[simp] theorem Dev.modCom_sec (m : Dev) (p : Pid) (f : Committed → Committed) : (m.modCom p f).sec = m.sec := rfl
@[simp] theorem Dev.modCom_flash (m : Dev) (p : Pid) (f : Committed → Committed) : (m.modCom p f).flash = m.flash := rfl
@[simp] theorem Dev.modCom_digest (m : Dev) (p : Pid) (f : Committed → Committed) : (m.modCom p f).digest = m.digest := rfl
@[simp] theorem Dev.modCom_recov (m : Dev) (p : Pid) (f : Committed → Committed) : (m.modCom p f).recov = m.recov := rfl
@[simp] theorem Dev.modCom_dieMap (m : Dev) (p : Pid) (f : Committed → Committed) : (m.modCom p f).dieMap = m.dieMap := rfl
@[simp] theorem Dev.modCom_evMod (m : Dev) (p : Pid) (f : Committed → Committed) : (m.modCom p f).evMod = m.evMod := rfl
@[simp] theorem Dev.modCom_regs (m : Dev) (p : Pid) (f : Committed → Committed) : (m.modCom p f).regs = m.regs := rfl
@[simp] theorem Dev.modCom_out (m : Dev) (p : Pid) (f : Committed → Committed) : (m.modCom p f).out = m.out := rfl
@[simp] theorem Dev.modCom_free (m : Dev) (p : Pid) (f : Committed → Committed) : (m.modCom p f).free = m.free := rfl

/-! ### Dev.modRun -/

@[simp] theorem Dev.modRun_board (m : Dev) (p : Pid) (f : StepRun → StepRun) : (m.modRun p f).board = m.board := rfl
@[simp] theorem Dev.modRun_dies (m : Dev) (p : Pid) (f : StepRun → StepRun) : (m.modRun p f).dies = m.dies := rfl
@[simp] theorem Dev.modRun_rings (m : Dev) (p : Pid) (f : StepRun → StepRun) : (m.modRun p f).rings = m.rings := rfl
@[simp] theorem Dev.modRun_map (m : Dev) (p : Pid) (f : StepRun → StepRun) : (m.modRun p f).map = m.map := rfl
@[simp] theorem Dev.modRun_binds (m : Dev) (p : Pid) (f : StepRun → StepRun) : (m.modRun p f).binds = m.binds := rfl
@[simp] theorem Dev.modRun_power (m : Dev) (p : Pid) (f : StepRun → StepRun) : (m.modRun p f).power = m.power := rfl
@[simp] theorem Dev.modRun_sec (m : Dev) (p : Pid) (f : StepRun → StepRun) : (m.modRun p f).sec = m.sec := rfl
@[simp] theorem Dev.modRun_flash (m : Dev) (p : Pid) (f : StepRun → StepRun) : (m.modRun p f).flash = m.flash := rfl
@[simp] theorem Dev.modRun_digest (m : Dev) (p : Pid) (f : StepRun → StepRun) : (m.modRun p f).digest = m.digest := rfl
@[simp] theorem Dev.modRun_recov (m : Dev) (p : Pid) (f : StepRun → StepRun) : (m.modRun p f).recov = m.recov := rfl
@[simp] theorem Dev.modRun_dieMap (m : Dev) (p : Pid) (f : StepRun → StepRun) : (m.modRun p f).dieMap = m.dieMap := rfl
@[simp] theorem Dev.modRun_evMod (m : Dev) (p : Pid) (f : StepRun → StepRun) : (m.modRun p f).evMod = m.evMod := rfl
@[simp] theorem Dev.modRun_regs (m : Dev) (p : Pid) (f : StepRun → StepRun) : (m.modRun p f).regs = m.regs := rfl
@[simp] theorem Dev.modRun_out (m : Dev) (p : Pid) (f : StepRun → StepRun) : (m.modRun p f).out = m.out := rfl
@[simp] theorem Dev.modRun_free (m : Dev) (p : Pid) (f : StepRun → StepRun) : (m.modRun p f).free = m.free := rfl

/-! ### Dev.count -/

@[simp] theorem Dev.count_board (m : Dev) (d : DieId) (k : CntKey) (n : Nat) : (m.count d k n).board = m.board := rfl
@[simp] theorem Dev.count_parts (m : Dev) (d : DieId) (k : CntKey) (n : Nat) : (m.count d k n).parts = m.parts := rfl
@[simp] theorem Dev.count_rings (m : Dev) (d : DieId) (k : CntKey) (n : Nat) : (m.count d k n).rings = m.rings := rfl
@[simp] theorem Dev.count_map (m : Dev) (d : DieId) (k : CntKey) (n : Nat) : (m.count d k n).map = m.map := rfl
@[simp] theorem Dev.count_binds (m : Dev) (d : DieId) (k : CntKey) (n : Nat) : (m.count d k n).binds = m.binds := rfl
@[simp] theorem Dev.count_power (m : Dev) (d : DieId) (k : CntKey) (n : Nat) : (m.count d k n).power = m.power := rfl
@[simp] theorem Dev.count_sec (m : Dev) (d : DieId) (k : CntKey) (n : Nat) : (m.count d k n).sec = m.sec := rfl
@[simp] theorem Dev.count_flash (m : Dev) (d : DieId) (k : CntKey) (n : Nat) : (m.count d k n).flash = m.flash := rfl
@[simp] theorem Dev.count_digest (m : Dev) (d : DieId) (k : CntKey) (n : Nat) : (m.count d k n).digest = m.digest := rfl
@[simp] theorem Dev.count_recov (m : Dev) (d : DieId) (k : CntKey) (n : Nat) : (m.count d k n).recov = m.recov := rfl
@[simp] theorem Dev.count_dieMap (m : Dev) (d : DieId) (k : CntKey) (n : Nat) : (m.count d k n).dieMap = m.dieMap := rfl
@[simp] theorem Dev.count_evMod (m : Dev) (d : DieId) (k : CntKey) (n : Nat) : (m.count d k n).evMod = m.evMod := rfl
@[simp] theorem Dev.count_regs (m : Dev) (d : DieId) (k : CntKey) (n : Nat) : (m.count d k n).regs = m.regs := rfl
@[simp] theorem Dev.count_out (m : Dev) (d : DieId) (k : CntKey) (n : Nat) : (m.count d k n).out = m.out := rfl
@[simp] theorem Dev.count_free (m : Dev) (d : DieId) (k : CntKey) (n : Nat) : (m.count d k n).free = m.free := rfl

/-! ### Reading back -/

@[simp] theorem Dev.modDie_die (m : Dev) (d : DieId) (f : Die → Die) : (m.modDie d f).die d = f (m.die d) := by
  simp [Dev.modDie, Dev.die]

theorem Dev.modDie_die_ne (m : Dev) (d e : DieId) (f : Die → Die) (h : e ≠ d) : (m.modDie d f).die e = m.die e := by
  have hv : d.val ≠ e.val := fun hh => h (Fin.ext hh.symm)
  simp [Dev.modDie, Dev.die, hv]

theorem Dev.modDie_die_if (m : Dev) (d e : DieId) (f : Die → Die) : (m.modDie d f).die e = if e = d then f (m.die d) else m.die e := by
  by_cases h : e = d
  · subst h; simp
  · simp [h, Dev.modDie_die_ne]

@[simp] theorem Dev.modPart_part (m : Dev) (p : Pid) (f : Part → Part) : (m.modPart p f).part p = f (m.part p) := by
  simp [Dev.modPart, Dev.part]

theorem Dev.modPart_part_ne (m : Dev) (p q : Pid) (f : Part → Part) (h : q ≠ p) : (m.modPart p f).part q = m.part q := by
  have hv : p.val ≠ q.val := fun hh => h (Fin.ext hh.symm)
  simp [Dev.modPart, Dev.part, hv]

theorem Dev.modPart_part_if (m : Dev) (p q : Pid) (f : Part → Part) : (m.modPart p f).part q = if q = p then f (m.part p) else m.part q := by
  by_cases h : q = p
  · subst h; simp
  · simp [h, Dev.modPart_part_ne]

@[simp] theorem Dev.modRing_ring (m : Dev) (k : SetId) (f : RingSet → RingSet) : (m.modRing k f).ring k = f (m.ring k) := by
  simp [Dev.modRing, Dev.ring]

theorem Dev.modRing_ring_ne (m : Dev) (k j : SetId) (f : RingSet → RingSet) (h : j ≠ k) : (m.modRing k f).ring j = m.ring j := by
  have hv : k.val ≠ j.val := fun hh => h (Fin.ext hh.symm)
  simp [Dev.modRing, Dev.ring, hv]

@[simp] theorem Dev.modDie_part (m : Dev) (d : DieId) (f : Die → Die) (p : Pid) : (m.modDie d f).part p = m.part p := rfl
@[simp] theorem Dev.modDie_ring (m : Dev) (d : DieId) (f : Die → Die) (k : SetId) : (m.modDie d f).ring k = m.ring k := rfl
@[simp] theorem Dev.modPart_die (m : Dev) (p : Pid) (f : Part → Part) (d : DieId) : (m.modPart p f).die d = m.die d := rfl
@[simp] theorem Dev.modPart_ring (m : Dev) (p : Pid) (f : Part → Part) (k : SetId) : (m.modPart p f).ring k = m.ring k := rfl
@[simp] theorem Dev.modRing_die (m : Dev) (k : SetId) (f : RingSet → RingSet) (d : DieId) : (m.modRing k f).die d = m.die d := rfl
@[simp] theorem Dev.modRing_part (m : Dev) (k : SetId) (f : RingSet → RingSet) (p : Pid) : (m.modRing k f).part p = m.part p := rfl

/-- The whole of the dies, told one by one. -/
theorem dies_ext (v w : Vector Die 8) (h : ∀ d : DieId, v[d] = w[d]) : v = w := by
  ext i hi
  exact h ⟨i, hi⟩

@[simp] theorem State.go_eq (s : State) (f : Dev → Dev) : s.go f = .next { s with dev := f s.dev } := rfl

@[simp] theorem when_true {α : Type} (f : α → α) (x : α) : when true f x = f x := rfl
@[simp] theorem when_false {α : Type} (f : α → α) (x : α) : when false f x = x := rfl

end Sys2Proof.Machine
end

