-- ==== Sys2Proof/Laws/Table.lean ====
section
/-! SUPPORT. What the operations on sparse tables and byte memory do: a read after a write, and that every operation keeps the
canonical form. -/

namespace Sys2Proof.Machine

variable {α : Type}

/-! ### Reads -/

@[simp] theorem tget_nil (d : α) (k : Nat) : tget d [] k = d := rfl

theorem tget_filter (d : α) (t : Tab α) (p : Nat → Bool) (k : Nat) :
    tget d (t.filter (fun e => p e.1)) k = if p k then tget d t k else d := by
  induction t with
  | nil => simp
  | cons e t ih =>
    obtain ⟨j, v⟩ := e
    by_cases hp : p j <;> by_cases hj : j = k <;> simp_all [List.filter, tget]

theorem tget_tdel (d : α) (t : Tab α) (k j : Nat) : tget d (tdel t k) j = if j = k then d else tget d t j := by
  have h := tget_filter d t (fun i => decide (i ≠ k)) j
  simp only [tdel]
  rw [h]
  by_cases hj : j = k <;> simp [hj]

theorem tget_tkeep (d : α) (t : Tab α) (p : Nat → Bool) (k : Nat) :
    tget d (tkeep t p) k = if p k then tget d t k else d := tget_filter d t p k

theorem tget_tins (d : α) (t : Tab α) (k j : Nat) (v : α) (h : ∀ e ∈ t, e.1 ≠ k) :
    tget d (tins k v t) j = if j = k then v else tget d t j := by
  induction t with
  | nil => simp only [tins, tget, eq_comm]
  | cons e t ih =>
    obtain ⟨i, w⟩ := e
    have hi : i ≠ k := h (i, w) (by simp)
    have ih := ih (fun e he => h e (by simp [he]))
    unfold tins
    by_cases hlt : k < i
    · simp only [hlt, if_true, tget, eq_comm]
    · simp only [hlt, if_false, tget, ih]
      by_cases hij : i = j
      · subst hij; simp [hi]
      · simp [hij]

theorem tdel_keys (t : Tab α) (k : Nat) : ∀ e ∈ tdel t k, e.1 ≠ k := by
  intro e he
  simpa [tdel] using (List.mem_filter.mp he).2

variable [DecidableEq α]

/-- A read after a write: the value written at its key, what was there at every other. -/
theorem tget_tset (d : α) (t : Tab α) (k j : Nat) (v : α) :
    tget d (tset d t k v) j = if j = k then v else tget d t j := by
  unfold tset
  by_cases hv : v = d
  · simp [hv, tget_tdel]
  · simp only [hv, if_false]
    rw [tget_tins d _ k j v (tdel_keys t k), tget_tdel]
    by_cases hj : j = k <;> simp [hj]

@[simp] theorem tget_tset_self (d : α) (t : Tab α) (k : Nat) (v : α) : tget d (tset d t k v) k = v := by
  simp [tget_tset]

@[simp] theorem tget_tset_ne (d : α) (t : Tab α) (k j : Nat) (v : α) (h : j ≠ k) :
    tget d (tset d t k v) j = tget d t j := by
  simp [tget_tset, h]

theorem tget_tmod (d : α) (t : Tab α) (k j : Nat) (f : α → α) :
    tget d (tmod d t k f) j = if j = k then f (tget d t k) else tget d t j := tget_tset d t k j _

@[simp] theorem tget_tmod_self (d : α) (t : Tab α) (k : Nat) (f : α → α) : tget d (tmod d t k f) k = f (tget d t k) := by
  simp [tget_tmod]

/-! ### The canonical form -/

theorem twf_cons (d : α) (k : Nat) (v : α) (t : Tab α) :
    twf d ((k, v) :: t) = true ↔ v ≠ d ∧ (∀ e ∈ t, k < e.1) ∧ twf d t = true := by
  simp [twf, Bool.and_eq_true, and_assoc]

@[simp] theorem twf_nil (d : α) : twf d ([] : Tab α) = true := rfl

theorem twf_filter (d : α) (t : Tab α) (p : Nat × α → Bool) (h : twf d t = true) : twf d (t.filter p) = true := by
  induction t with
  | nil => simp
  | cons e t ih =>
    obtain ⟨k, v⟩ := e
    obtain ⟨hv, hk, ht⟩ := (twf_cons d k v t).mp h
    by_cases hp : p (k, v) = true
    · rw [List.filter_cons_of_pos hp, twf_cons]
      exact ⟨hv, fun e he => hk e ((List.mem_filter.mp he).1), ih ht⟩
    · rw [List.filter_cons_of_neg hp]
      exact ih ht

theorem twf_tdel (d : α) (t : Tab α) (k : Nat) (h : twf d t = true) : twf d (tdel t k) = true := twf_filter d t _ h
theorem twf_tkeep (d : α) (t : Tab α) (p : Nat → Bool) (h : twf d t = true) : twf d (tkeep t p) = true := twf_filter d t _ h

omit [DecidableEq α] in
theorem tins_keys (t : Tab α) (k : Nat) (v : α) : ∀ e ∈ tins k v t, e.1 = k ∨ e ∈ t := by
  induction t with
  | nil => simp [tins]
  | cons e t ih =>
    obtain ⟨j, w⟩ := e
    unfold tins
    split
    · intro x hx
      rcases List.mem_cons.mp hx with rfl | hx
      · exact Or.inl rfl
      · exact Or.inr hx
    · intro x hx
      rcases List.mem_cons.mp hx with rfl | hx
      · exact Or.inr (by simp)
      · rcases ih x hx with h | h
        · exact Or.inl h
        · exact Or.inr (by simp [h])

theorem twf_tins (d : α) (t : Tab α) (k : Nat) (v : α) (hv : v ≠ d) (hk : ∀ e ∈ t, e.1 ≠ k) (h : twf d t = true) :
    twf d (tins k v t) = true := by
  induction t with
  | nil => simp [tins, twf, hv]
  | cons e t ih =>
    obtain ⟨j, w⟩ := e
    obtain ⟨hw, hj, ht⟩ := (twf_cons d j w t).mp h
    have hjk : j ≠ k := hk (j, w) (by simp)
    unfold tins
    split
    · rename_i hlt
      rw [twf_cons]
      refine ⟨hv, ?_, h⟩
      intro e he
      rcases List.mem_cons.mp he with rfl | he
      · exact hlt
      · exact Nat.lt_trans hlt (hj e he)
    · rename_i hlt
      rw [twf_cons]
      refine ⟨hw, ?_, ih (fun e he => hk e (by simp [he])) ht⟩
      intro e he
      rcases tins_keys t k v e he with h | h
      · omega
      · exact hj e h

/-- Every write keeps the canonical form. -/
theorem twf_tset (d : α) (t : Tab α) (k : Nat) (v : α) (h : twf d t = true) : twf d (tset d t k v) = true := by
  unfold tset
  split
  · exact twf_tdel d t k h
  · rename_i hv
    exact twf_tins d _ k v hv (tdel_keys t k) (twf_tdel d t k h)

theorem twf_tmod (d : α) (t : Tab α) (k : Nat) (f : α → α) (h : twf d t = true) : twf d (tmod d t k f) = true :=
  twf_tset d t k _ h

theorem twf_tsetAll (d : α) (es : List (Nat × α)) (t : Tab α) (h : twf d t = true) : twf d (tsetAll d t es) = true := by
  unfold tsetAll
  induction es generalizing t with
  | nil => exact h
  | cons e es ih => exact ih _ (twf_tset d t e.1 e.2 h)

theorem twf_tmapv (d : α) (f : α → α) (t : Tab α) (h : twf d t = true) : twf d (tmapv d f t) = true := by
  unfold tmapv
  induction t with
  | nil => simp
  | cons e t ih =>
    obtain ⟨k, v⟩ := e
    obtain ⟨hv, hk, ht⟩ := (twf_cons d k v t).mp h
    by_cases hf : f v = d
    · simpa [hf] using ih ht
    · have hc : List.filter (fun e => decide (e.2 ≠ d)) (List.map (fun e => (e.1, f e.2)) ((k, v) :: t))
          = (k, f v) :: List.filter (fun e => decide (e.2 ≠ d)) (List.map (fun e => (e.1, f e.2)) t) := by
        simp [hf]
      rw [hc, twf_cons]
      refine ⟨hf, ?_, ih ht⟩
      intro e he
      obtain ⟨x, hx, rfl⟩ := List.mem_map.mp ((List.mem_filter.mp he).1)
      exact hk x hx

/-- Two canonical tables that read alike are the same data. -/
theorem tab_ext (d : α) (t u : Tab α) (ht : twf d t = true) (hu : twf d u = true) (h : ∀ k, tget d t k = tget d u k) : t = u := by
  induction t generalizing u with
  | nil =>
    cases u with
    | nil => rfl
    | cons e u =>
      obtain ⟨k, v⟩ := e
      have := h k
      have hv := ((twf_cons d k v u).mp hu).1
      simp [tget] at this
      exact absurd this.symm hv
  | cons e t ih =>
    obtain ⟨k, v⟩ := e
    obtain ⟨hv, hk, ht'⟩ := (twf_cons d k v t).mp ht
    have low : ∀ (s : Tab α) (j : Nat), (∀ e ∈ s, j < e.1) → tget d s j = d := by
      intro s j hs
      induction s with
      | nil => rfl
      | cons x s ihs =>
        obtain ⟨i, w⟩ := x
        have : i ≠ j := Nat.ne_of_gt (hs (i, w) (by simp))
        simp only [tget, this, if_false]
        exact ihs (fun e he => hs e (by simp [he]))
    cases u with
    | nil =>
      have := h k
      simp [tget] at this
      exact absurd this hv
    | cons x u =>
      obtain ⟨j, w⟩ := x
      obtain ⟨hw, hj, hu'⟩ := (twf_cons d j w u).mp hu
      have hkj : k = j := by
        rcases Nat.lt_trichotomy k j with hlt | heq | hgt
        · have h1 := h k
          have : tget d ((j, w) :: u) k = d := low _ k (by
            intro e he
            rcases List.mem_cons.mp he with rfl | he
            · exact hlt
            · exact Nat.lt_trans hlt (hj e he))
          rw [this] at h1
          simp [tget] at h1
          exact absurd h1 hv
        · exact heq
        · have h1 := h j
          have : tget d ((k, v) :: t) j = d := low _ j (by
            intro e he
            rcases List.mem_cons.mp he with rfl | he
            · exact hgt
            · exact Nat.lt_trans hgt (hk e he))
          rw [this] at h1
          simp [tget] at h1
          exact absurd h1.symm hw
      subst hkj
      have hvw : v = w := by simpa [tget] using h k
      subst hvw
      congr 1
      apply ih u ht' hu'
      intro i
      by_cases hik : k = i
      · subst hik
        rw [low t k hk, low u k hj]
      · simpa [tget, hik] using h i

/-- The later of two writes to a key of a canonical table stands. -/
theorem tset_tset (d : α) (t : Tab α) (k : Nat) (v w : α) (h : twf d t = true) : tset d (tset d t k v) k w = tset d t k w := by
  apply tab_ext d _ _ (twf_tset d _ k w (twf_tset d t k v h)) (twf_tset d t k w h)
  intro j
  by_cases hj : j = k
  · subst hj; simp
  · simp [hj]

/-! ### Byte memory -/

theorem mread_mwrite (m : Memory) (a b : Nat) (v : Byte) : mread (mwrite m a v) b = if b = a then v else mread m b :=
  tget_tset 0 m a b v

theorem mwrite_wf (m : Memory) (a : Nat) (v : Byte) (h : Memory.wf m = true) : Memory.wf (mwrite m a v) = true :=
  twf_tset 0 m a v h

theorem mwriteBytes_wf (bs : List Byte) (m : Memory) (a : Nat) (h : Memory.wf m = true) : Memory.wf (mwriteBytes m a bs) = true := by
  induction bs generalizing m a with
  | nil => exact h
  | cons b bs ih => exact ih _ _ (mwrite_wf m a b h)

/-- Writing bytes from `a` on: each byte at its place, every other as it was. -/
theorem mread_mwriteBytes (bs : List Byte) (m : Memory) (a b : Nat) :
    mread (mwriteBytes m a bs) b = if a ≤ b then bs.getD (b - a) (mread m b) else mread m b := by
  induction bs generalizing m a with
  | nil => simp [mwriteBytes]
  | cons x bs ih =>
    rw [mwriteBytes, ih, mread_mwrite]
    by_cases hab : a ≤ b
    · by_cases heq : b = a
      · subst heq
        rw [if_neg (by omega), if_pos rfl, if_pos (Nat.le_refl _)]
        simp
      · have h1 : a + 1 ≤ b := by omega
        obtain ⟨n, hn⟩ : ∃ n, b - a = n + 1 := ⟨b - a - 1, by omega⟩
        have h2 : b - (a + 1) = n := by omega
        simp [hab, h1, heq, hn, h2]
    · have h1 : ¬ a + 1 ≤ b := by omega
      have h2 : b ≠ a := by omega
      simp [hab, h1, h2]

end Sys2Proof.Machine
end

