-- ==== Sys2Proof/Laws/Ops.lean ====
section
/-! SUPPORT. What each shared operation of Machine/Ops.lean can do, said once: units after a change, registers, counters, owners, events,
the descriptor that is up and its completion. -/

namespace Sys2Proof.Machine

open Sys2Proof

/-! ### Units of a die -/

@[simp] theorem Die.modTile_tile (x : Die) (t : Nat) (f : Tile → Tile) : (x.modTile t f).tile t = f (x.tile t) := by
  simp [Die.modTile, Die.tile]
theorem Die.modTile_tile_if (x : Die) (t j : Nat) (f : Tile → Tile) : (x.modTile t f).tile j = if j = t then f (x.tile t) else x.tile j := by
  simp [Die.modTile, Die.tile, tget_tmod]
@[simp] theorem Die.modCube_cube (x : Die) (c : Nat) (f : Cube → Cube) : (x.modCube c f).cube c = f (x.cube c) := by
  simp [Die.modCube, Die.cube]
theorem Die.modCube_cube_if (x : Die) (c j : Nat) (f : Cube → Cube) : (x.modCube c f).cube j = if j = c then f (x.cube c) else x.cube j := by
  simp [Die.modCube, Die.cube, tget_tmod]
@[simp] theorem Die.modWunit_wunit (x : Die) (u : Nat) (f : WUnit → WUnit) : (x.modWunit u f).wunit u = f (x.wunit u) := by
  simp [Die.modWunit, Die.wunit]
theorem Die.modWunit_wunit_if (x : Die) (u j : Nat) (f : WUnit → WUnit) : (x.modWunit u f).wunit j = if j = u then f (x.wunit u) else x.wunit j := by
  simp [Die.modWunit, Die.wunit, tget_tmod]
@[simp] theorem Die.modPort_port (x : Die) (q : PortId) (f : Port → Port) : (x.modPort q f).port q = f (x.port q) := by
  simp [Die.modPort, Die.port]
theorem Die.modPort_port_ne (x : Die) (q r : PortId) (f : Port → Port) (h : r ≠ q) : (x.modPort q f).port r = x.port r := by
  have hv : r.val ≠ q.val := fun e => h (Fin.ext e)
  simp [Die.modPort, Die.port, tget_tmod, hv]
@[simp] theorem Tile.modLeaf_leaf (y : Tile) (l : LeafId) (f : Leaf → Leaf) : (y.modLeaf l f).leaf l = f (y.leaf l) := by
  simp [Tile.modLeaf, Tile.leaf]
theorem Tile.modLeaf_leaf_ne (y : Tile) (l k : LeafId) (f : Leaf → Leaf) (h : k ≠ l) : (y.modLeaf l f).leaf k = y.leaf k := by
  have hv : k.val ≠ l.val := fun e => h (Fin.ext e)
  simp [Tile.modLeaf, Tile.leaf, tget_tmod, hv]
@[simp] theorem Die.modLeaf_leaf (x : Die) (t : Nat) (l : LeafId) (f : Leaf → Leaf) : (x.modLeaf t l f).leaf t l = f (x.leaf t l) := by
  simp [Die.modLeaf, Die.leaf]
theorem Die.modLeaf_tile_ne (x : Die) (t j : Nat) (l : LeafId) (f : Leaf → Leaf) (h : j ≠ t) : (x.modLeaf t l f).tile j = x.tile j := by
  simp [Die.modLeaf, Die.modTile_tile_if, h]

/-! ### Registers -/

@[simp] theorem rget_rset (t : Tab Word) (r : RegDef) (v : Word) : rget (rset t r v) r = v := by
  simp [rget, rset, BitVec.xor_assoc]
theorem rget_rset_ne (t : Tab Word) (r q : RegDef) (v : Word) (h : q.off ≠ r.off) : rget (rset t r v) q = rget t q := by
  simp [rget, rset, h]
@[simp] theorem Die.reg_setReg (x : Die) (r : RegDef) (v : Word) : (x.setReg r v).reg r = v := rget_rset ..
theorem Die.reg_setReg_ne (x : Die) (r q : RegDef) (v : Word) (h : q.off ≠ r.off) : (x.setReg r v).reg q = x.reg q := rget_rset_ne _ _ _ _ h
@[simp] theorem Dev.reg_setReg (m : Dev) (r : RegDef) (v : Word) : (m.setReg r v).reg r = v := rget_rset ..
theorem Dev.reg_setReg_ne (m : Dev) (r q : RegDef) (v : Word) (h : q.off ≠ r.off) : (m.setReg r v).reg q = m.reg q := rget_rset_ne _ _ _ _ h

/-! ### Counters -/

/-- A count adds to its own counter, up to 0xFFFFFFFF, and to no other. -/
theorem Die.count_counter (x : Die) (k j : CntKey) (n : Nat) :
    (x.count k n).counter j = if j.code = k.code then satAdd32 (x.counter k) n else x.counter j := by
  simp [Die.count, Die.counter, tget_tmod]
@[simp] theorem Die.count_counter_self (x : Die) (k : CntKey) (n : Nat) : (x.count k n).counter k = satAdd32 (x.counter k) n := by
  simp [Die.count_counter]
@[simp] theorem Dev.count_counter_self (m : Dev) (d : DieId) (k : CntKey) (n : Nat) :
    ((m.count d k n).die d).counter k = satAdd32 ((m.die d).counter k) n := by
  simp [Dev.count]

/-! ### Owners -/

theorem Dev.setOwner_owner (m : Dev) (r : Resource) (p : Option Pid) : (m.setOwner r p).owner r = p := by
  cases p with
  | none => simp [Dev.setOwner, Dev.owner]
  | some p => simp [Dev.setOwner, Dev.owner, Fin.ofNat, Nat.mod_eq_of_lt p.isLt]
theorem Dev.setOwner_owner_ne (m : Dev) (r q : Resource) (p : Option Pid) (h : resKey q ≠ resKey r) : (m.setOwner r p).owner q = m.owner q := by
  simp [Dev.setOwner, Dev.owner, h]

/-! ### Events -/

theorem Die.buffer_eq (x : Die) (e : Event) : x.buffer e = { x with evBuf := (x.buffer e).evBuf, evLost := (x.buffer e).evLost } := by
  unfold Die.buffer
  split <;> rfl

theorem OnlyEvents.refl (m : Dev) : OnlyEvents m m := ⟨rfl, fun _ => rfl⟩

theorem OnlyEvents.trans {a b c : Dev} (h : OnlyEvents a b) (k : OnlyEvents b c) : OnlyEvents a c := by
  constructor
  · rw [k.1, h.1]
  · intro d
    rw [k.2 d, h.2 d]

theorem OnlyEvents.buffer (m : Dev) (i : DieId) (e : Event) : OnlyEvents m (m.modDie i (fun x => x.buffer e)) := by
  refine ⟨rfl, fun d => ?_⟩
  by_cases h : d = i
  · subst h
    simp only [Dev.modDie_die]
    exact Die.buffer_eq _ _
  · rw [Dev.modDie_die_ne _ _ _ _ h]

theorem record_onlyEvents (m : Dev) (det : Option DieId) (e : Event) : OnlyEvents m (m.record det e) := by
  have alert : OnlyEvents m (when (decide (e.sev = 3)) (fun m => { m with board := { m.board with sev3 := true } }) m) := by
    unfold when
    split
    · exact ⟨rfl, fun _ => rfl⟩
    · exact OnlyEvents.refl m
  unfold Dev.record
  dsimp only
  split
  · exact alert.trans (OnlyEvents.buffer _ _ _)
  · exact alert.trans ⟨rfl, fun _ => rfl⟩

theorem abortEntry_onlyEvents (m : Dev) (blk : Nat) : OnlyEvents m (m.abortEntry blk) := by
  unfold Dev.abortEntry
  split
  · split
    · exact OnlyEvents.trans ⟨rfl, fun _ => rfl⟩ (record_onlyEvents _ _ _)
    · exact OnlyEvents.refl m
  · exact OnlyEvents.refl m

/-- Everything raising an event can do. -/
theorem raise_onlyEvents (m : Dev) (det : Option DieId) (e : Event) : OnlyEvents m (m.raise det e) := by
  unfold Dev.raise when
  split
  · exact OnlyEvents.trans (record_onlyEvents _ _ _) (abortEntry_onlyEvents _ _)
  · exact record_onlyEvents _ _ _

theorem raiseP_onlyEvents (m : Dev) (det : Option DieId) (p : Pid) (e : Event) : OnlyEvents m (m.raiseP det p e) := raise_onlyEvents _ _ _

theorem OnlyEvents.parts {m n : Dev} (h : OnlyEvents m n) : n.parts = m.parts := by rw [h.1]
theorem OnlyEvents.rings {m n : Dev} (h : OnlyEvents m n) : n.rings = m.rings := by rw [h.1]
theorem OnlyEvents.binds {m n : Dev} (h : OnlyEvents m n) : n.binds = m.binds := by rw [h.1]
theorem OnlyEvents.sec {m n : Dev} (h : OnlyEvents m n) : n.sec = m.sec := by rw [h.1]
theorem OnlyEvents.flash {m n : Dev} (h : OnlyEvents m n) : n.flash = m.flash := by rw [h.1]
theorem OnlyEvents.regs {m n : Dev} (h : OnlyEvents m n) : n.regs = m.regs := by rw [h.1]
theorem OnlyEvents.out {m n : Dev} (h : OnlyEvents m n) : n.out = m.out := by rw [h.1]
theorem OnlyEvents.map {m n : Dev} (h : OnlyEvents m n) : n.map = m.map := by rw [h.1]
theorem OnlyEvents.free {m n : Dev} (h : OnlyEvents m n) : n.free = m.free := by rw [h.1]
theorem OnlyEvents.cls {m n : Dev} (h : OnlyEvents m n) (d : DieId) : (n.die d).cls = (m.die d).cls := by rw [h.2 d]
theorem OnlyEvents.tiles {m n : Dev} (h : OnlyEvents m n) (d : DieId) : (n.die d).tiles = (m.die d).tiles := by rw [h.2 d]
theorem OnlyEvents.cnt {m n : Dev} (h : OnlyEvents m n) (d : DieId) : (n.die d).cnt = (m.die d).cnt := by rw [h.2 d]

@[simp] theorem raise_parts (m : Dev) (det : Option DieId) (e : Event) : (m.raise det e).parts = m.parts := (raise_onlyEvents m det e).parts
@[simp] theorem raise_rings (m : Dev) (det : Option DieId) (e : Event) : (m.raise det e).rings = m.rings := (raise_onlyEvents m det e).rings
@[simp] theorem raise_binds (m : Dev) (det : Option DieId) (e : Event) : (m.raise det e).binds = m.binds := (raise_onlyEvents m det e).binds
@[simp] theorem raise_sec (m : Dev) (det : Option DieId) (e : Event) : (m.raise det e).sec = m.sec := (raise_onlyEvents m det e).sec
@[simp] theorem raise_flash (m : Dev) (det : Option DieId) (e : Event) : (m.raise det e).flash = m.flash := (raise_onlyEvents m det e).flash
@[simp] theorem raise_regs (m : Dev) (det : Option DieId) (e : Event) : (m.raise det e).regs = m.regs := (raise_onlyEvents m det e).regs
@[simp] theorem raise_out (m : Dev) (det : Option DieId) (e : Event) : (m.raise det e).out = m.out := (raise_onlyEvents m det e).out
@[simp] theorem raise_map (m : Dev) (det : Option DieId) (e : Event) : (m.raise det e).map = m.map := (raise_onlyEvents m det e).map
@[simp] theorem raise_free (m : Dev) (det : Option DieId) (e : Event) : (m.raise det e).free = m.free := (raise_onlyEvents m det e).free
@[simp] theorem raise_part (m : Dev) (det : Option DieId) (e : Event) (p : Pid) : (m.raise det e).part p = m.part p := by
  simp [Dev.part]
@[simp] theorem raise_ring (m : Dev) (det : Option DieId) (e : Event) (k : SetId) : (m.raise det e).ring k = m.ring k := by
  simp [Dev.ring]
@[simp] theorem raiseP_part (m : Dev) (det : Option DieId) (p q : Pid) (e : Event) : (m.raiseP det p e).part q = m.part q := raise_part ..
@[simp] theorem raiseP_parts (m : Dev) (det : Option DieId) (p : Pid) (e : Event) : (m.raiseP det p e).parts = m.parts := raise_parts ..
@[simp] theorem raiseP_rings (m : Dev) (det : Option DieId) (p : Pid) (e : Event) : (m.raiseP det p e).rings = m.rings := raise_rings ..

/-! ### The descriptor that is up -/

/-- What coming up for execution asks of the descriptor, its ring set and its partition. -/
theorem comeUp_exec (m : Dev) (k : SetId) (op : Nat) (h : Held) (p : Pid) : m.comeUp k op = .exec h p →
    (m.ring k).head = some h ∧ m.partOf k = some p ∧ h.desc.opcode.toNat = op ∧ h.st ≠ .executing ∧ (m.part p).intr = none ∧ m.rebindWaits p = false
      ∧ h.desc.seq = h.index ∧ dWellFormed h.desc = true ∧ (anyRingOpcode op = true ∨ (m.ring k).isControl = controlOpcode op)
      ∧ legalIn op (m.part p).st = true := by
  unfold Dev.comeUp
  split
  · rename_i h' p' hh hp
    split
    · simp
    · split
      · simp
      · split
        · simp
        · split
          · simp
          · split
            · simp
            · intro e
              cases e
              simp_all
              cases hc : anyRingOpcode op <;> simp_all
  · intro e
    cases e

theorem execHead_exec (m : Dev) (k : SetId) (op : Nat) (f : Held → Pid → Dev → Dev) (h : Held) (p : Pid) (e : m.comeUp k op = .exec h p) :
    m.execHead k op f = f h p m := by
  simp [Dev.execHead, e]

theorem execHead_idle (m : Dev) (k : SetId) (op : Nat) (f : Held → Pid → Dev → Dev) (e : m.comeUp k op = .idle) : m.execHead k op f = m := by
  simp [Dev.execHead, e]

/-- A completion that does not halt changes the descriptor that is up and nothing else. -/
theorem completeHead_eq (m : Dev) (k : SetId) (status detail : Nat) (step : Dbl) (slot : Option Nat) :
    m.completeHead k status detail step slot false = m.modRing k (fun r =>
      { r with held := modHead (Held.complete (m.epochOf k) m.mapHealthy status detail step slot false) r.held }) := rfl

@[simp] theorem completeHead_held (m : Dev) (k : SetId) (status detail : Nat) (step : Dbl) (slot : Option Nat) :
    ((m.completeHead k status detail step slot false).ring k).held
      = modHead (Held.complete (m.epochOf k) m.mapHealthy status detail step slot false) (m.ring k).held := by
  simp [completeHead_eq]
@[simp] theorem completeHead_parts (m : Dev) (k : SetId) (status detail : Nat) (step : Dbl) (slot : Option Nat) :
    (m.completeHead k status detail step slot false).parts = m.parts := rfl
@[simp] theorem completeHead_dies (m : Dev) (k : SetId) (status detail : Nat) (step : Dbl) (slot : Option Nat) :
    (m.completeHead k status detail step slot false).dies = m.dies := rfl
@[simp] theorem completeHead_ring_ne (m : Dev) (k j : SetId) (status detail : Nat) (step : Dbl) (slot : Option Nat) (h : j ≠ k) :
    (m.completeHead k status detail step slot false).ring j = m.ring j := by
  rw [completeHead_eq]
  exact Dev.modRing_ring_ne _ _ _ _ h

@[simp] theorem reject_parts (m : Dev) (k : SetId) (d : Nat) : (m.reject k d).parts = m.parts := rfl
@[simp] theorem completeOk_parts (m : Dev) (k : SetId) : (m.completeOk k).parts = m.parts := rfl
@[simp] theorem setHead_parts (m : Dev) (k : SetId) (f : Held → Held) : (m.setHead k f).parts = m.parts := rfl
@[simp] theorem setHead_held (m : Dev) (k : SetId) (f : Held → Held) : ((m.setHead k f).ring k).held = modHead f (m.ring k).held := by
  simp [Dev.setHead]

/-- Before the descriptor that is up every held one is done, and `modHead` changes that one alone. -/
theorem modHead_split (f : Held → Held) (hs : List Held) (h : Held) (e : hs.find? (fun h => !h.isDone) = some h) :
    ∃ a b, hs = a ++ h :: b ∧ (∀ x ∈ a, x.isDone = true) ∧ h.isDone = false ∧ modHead f hs = a ++ f h :: b := by
  induction hs with
  | nil => simp at e
  | cons x t ih =>
    by_cases hx : x.isDone = true
    · simp only [List.find?_cons, hx, Bool.not_true] at e
      obtain ⟨a, b, rfl, ha, hd, hm⟩ := ih e
      exact ⟨x :: a, b, rfl, by simpa [hx] using ha, hd, by simp [modHead, hx, hm]⟩
    · simp only [List.find?_cons, hx, Bool.not_false] at e
      cases e
      exact ⟨[], t, rfl, by simp, by simpa using hx, by simp [modHead, hx]⟩

/-! ### Healthy dies, time -/

theorem mem_healthy (m : Dev) (d : DieId) : d ∈ m.healthy ↔ m.inService d = true := by
  have all : ∀ d : DieId, d ∈ dieIds := by decide
  simp [Dev.healthy, all d]

theorem mem_partIds (p : Pid) : p ∈ partIds := by
  revert p
  decide

@[simp] theorem tick_parts (m : Dev) : (tick m).parts = m.parts := rfl
@[simp] theorem tick_rings (m : Dev) : (tick m).rings = m.rings := rfl
@[simp] theorem tick_sec (m : Dev) : (tick m).sec = m.sec := rfl
@[simp] theorem tick_regs (m : Dev) : (tick m).regs = m.regs := rfl
theorem tick_die (m : Dev) (d : DieId) : (tick m).die d = (m.die d).tick := by
  simp [tick, Dev.die]

/-! ### Stage SRAM -/

theorem leBytes_length {w : Nat} (v : BitVec w) (n : Nat) : (leBytes v n).length = n := by
  induction n generalizing v with
  | zero => rfl
  | succ n ih => simp [leBytes, ih]

theorem length_words (ws : List Word) : (ws.flatMap (fun w => leBytes w 4)).length = 4 * ws.length := by
  induction ws with
  | nil => rfl
  | cons w ws ih => simp only [List.flatMap_cons, List.length_append, leBytes_length, ih, List.length_cons]; omega

/-- Byte `j` of word `i`, least significant byte first. -/
theorem getD_words (ws : List Word) (i j : Nat) (hi : i < ws.length) (hj : j < 4) :
    (ws.flatMap (fun w => leBytes w 4)).getD (4 * i + j) 0 = ((ws.getD i 0) >>> (8 * j)).setWidth 8 := by
  induction ws generalizing i with
  | nil => simp at hi
  | cons w ws ih =>
    have hl := leBytes_length w 4
    rw [List.flatMap_cons, List.getD_eq_getElem?_getD]
    cases i with
    | zero =>
      rw [List.getElem?_append_left (by omega)]
      have hj' : j = 0 ∨ j = 1 ∨ j = 2 ∨ j = 3 := by omega
      rcases hj' with rfl | rfl | rfl | rfl <;> simp [leBytes]
    | succ n =>
      rw [List.getElem?_append_right (by omega), hl, show 4 * (n + 1) + j - 4 = 4 * n + j by omega, ← List.getD_eq_getElem?_getD,
        ih n (by simpa using hi)]
      simp

/-- A piece written: its bytes at their addresses where it lies within stage SRAM, every other byte as before. -/
theorem Die.put_sram (x : Die) (p : Pid) (addr : Nat) (fmt : PieceFmt) (k : Int) (bs : List Byte) (b : Nat) :
    mread (x.put p addr fmt k bs).sram b
      = if addr + bs.length ≤ Config.sramBytes ∧ addr ≤ b ∧ b < addr + bs.length then bs.getD (b - addr) 0 else mread x.sram b := by
  unfold Die.put
  by_cases h : addr + bs.length ≤ Config.sramBytes
  · cases bs with
    | nil => simp <;> (intros; omega)
    | cons c bs =>
      rw [if_pos (by simpa using h)]
      show mread (mwriteBytes x.sram addr (c :: bs)) b = _
      rw [mread_mwriteBytes]
      by_cases k : addr ≤ b
      · rw [if_pos k]
        by_cases j : b < addr + (c :: bs).length
        · rw [if_pos ⟨h, k, j⟩, List.getD_eq_getElem?_getD, List.getD_eq_getElem?_getD, List.getElem?_eq_getElem (by omega)]; rfl
        · rw [if_neg (fun e => j e.2.2), List.getD_eq_getElem?_getD, List.getElem?_eq_none (by omega)]; rfl
      · rw [if_neg k, if_neg (fun e => k e.2.1)]
  · rw [if_neg (by simp [h]), if_neg (fun e => h e.1)]

theorem Die.put_wf (x : Die) (p : Pid) (addr : Nat) (fmt : PieceFmt) (k : Int) (bs : List Byte) (h : Memory.wf x.sram = true) :
    Memory.wf (x.put p addr fmt k bs).sram = true := by
  unfold Die.put
  split
  · exact mwriteBytes_wf bs _ addr h
  · exact h

/-- A piece written changes stage SRAM and its pieces alone. -/
theorem Die.put_eq (x : Die) (p : Pid) (addr : Nat) (fmt : PieceFmt) (k : Int) (bs : List Byte) :
    x.put p addr fmt k bs = { x with sram := (x.put p addr fmt k bs).sram, pieces := (x.put p addr fmt k bs).pieces } := by
  unfold Die.put; split <;> rfl

/-- Words written to stage SRAM: byte `j` of word `i` stands at its place, every byte outside the words is as it was. -/
theorem Die.putWords_in (x : Die) (p : Pid) (addr : Nat) (ws : List Word) (i j : Nat) (h : addr + 4 * ws.length ≤ Config.sramBytes)
    (hi : i < ws.length) (hj : j < 4) : mread (x.putWords p addr ws).sram (addr + 4 * i + j) = ((ws.getD i 0) >>> (8 * j)).setWidth 8 := by
  rw [Die.putWords, Die.put_sram, if_pos (by rw [length_words]; omega), show addr + 4 * i + j - addr = 4 * i + j by omega, getD_words ws i j hi hj]

theorem Die.putWords_out (x : Die) (p : Pid) (addr : Nat) (ws : List Word) (b : Nat) (h : b < addr ∨ addr + 4 * ws.length ≤ b) :
    mread (x.putWords p addr ws).sram b = mread x.sram b := by
  rw [Die.putWords, Die.put_sram, if_neg (by rw [length_words]; omega)]

/-- Publishing the die map changes it alone, and only with no interruption. -/
theorem publishIfCalm_eq (m : Dev) : m.publishIfCalm = { m with dieMap := m.publishIfCalm.dieMap } := by
  unfold Dev.publishIfCalm; split <;> rfl
@[simp] theorem publishIfCalm_parts (m : Dev) : m.publishIfCalm.parts = m.parts := by rw [publishIfCalm_eq]
@[simp] theorem publishIfCalm_dies (m : Dev) : m.publishIfCalm.dies = m.dies := by rw [publishIfCalm_eq]

@[simp] theorem stamps_length (m : Dev) : m.stamps.length = 8 := rfl

/-- The time since a set of stamps, on the counter of the die that holds the primary now. -/
theorem elapsed_eq (m n : Dev) (d : DieId) (h : n.clockDie = some d) : n.elapsed m.stamps = (n.die d).dcnt - (m.die d).dcnt := by
  have e : m.stamps.getD d.val 0 = (m.die d).dcnt := by
    match d with
    | 0 | 1 | 2 | 3 | 4 | 5 | 6 | 7 => rfl
  simp only [Dev.elapsed, h, e]

end Sys2Proof.Machine
end

