-- ==== Sys2Proof/Laws/Keep.lean ====
section
/-! SUPPORT. What the shared operations of every file leave alone: the set-up registers, the last accepted SEQ of each record type, and
the committed masters, optimiser state and step count of every partition. One lemma per operation, for the invariants over every step. -/

namespace Sys2Proof.Machine
open Sys2Proof

def Part.core (p : Part) : Tab Word × Tab Word × Dbl := (p.com.masters, p.com.opt, p.com.steps)

def Dev.keep (m : Dev) : Tab Word × Vector (Tab Word) 8 × Tab Dbl × Vector (Tab Word × Tab Word × Dbl) 16 :=
  (m.regs, m.dies.map Die.regs, m.sec.seqAcc, m.parts.map Part.core)

theorem Dev.keep_eta (m : Dev) : (m.regs, m.dies.map Die.regs, m.sec.seqAcc, m.parts.map Part.core) = m.keep := rfl

@[simp] theorem Dev.keep_mk (m : Dev) (b d p r ma bi po se fl di re dm ev o fr) (hd : d.map Die.regs = m.dies.map Die.regs)
  (hp : p.map Part.core = m.parts.map Part.core) (hs : se.seqAcc = m.sec.seqAcc) :
  Dev.keep ⟨b, d, p, r, ma, bi, po, se, fl, di, re, dm, ev, m.regs, o, fr⟩ = m.keep := by
  simp [Dev.keep, hd, hp, hs]

def Committed.core (c : Committed) : Tab Word × Tab Word × Dbl := (c.masters, c.opt, c.steps)

theorem Vector.map_set_same {α β : Type} {n : Nat} (v : Vector α n) (i : Nat) (h : i < n) (f : α → β) (x : α) (hx : f x = f v[i]) :
    (v.set i x).map f = v.map f := by
  ext j hj
  simp [Vector.getElem_set]
  intro e; subst e; exact hx

@[simp] theorem Dev.modDie_keep (m : Dev) (d : DieId) (f : Die → Die) (h : ∀ x, (f x).regs = x.regs) : (m.modDie d f).keep = m.keep := by
  unfold Dev.modDie
  apply Dev.keep_mk
  · exact Vector.map_set_same _ _ _ _ _ (h _)
  · rfl
  · rfl

@[simp] theorem Dev.modDie_regs_map (m : Dev) (d : DieId) (f : Die → Die) (h : ∀ x, (f x).regs = x.regs) :
    (m.modDie d f).dies.map Die.regs = m.dies.map Die.regs := by
  unfold Dev.modDie
  exact Vector.map_set_same _ _ _ _ _ (h _)

@[simp] theorem Dev.modPart_keep (m : Dev) (d : Pid) (f : Part → Part) (hm : ∀ x, (f x).com.masters = x.com.masters)
    (ho : ∀ x, (f x).com.opt = x.com.opt) (hs : ∀ x, (f x).com.steps = x.com.steps) : (m.modPart d f).keep = m.keep := by
  have h : ∀ x, (f x).core = x.core := fun x => by simp only [Part.core, hm, ho, hs]
  unfold Dev.modPart
  apply Dev.keep_mk
  · rfl
  · exact Vector.map_set_same _ _ _ _ _ (h _)
  · rfl

@[simp] theorem Dev.die_regs_get (m : Dev) (d : DieId) : m.dies[d.val].regs = (m.die d).regs := rfl

@[simp] theorem Dev.modRing_keep (m : Dev) (d : SetId) (f : RingSet → RingSet) : (m.modRing d f).keep = m.keep := rfl

@[simp] theorem foldl_keep {α : Type} (l : List α) (f : Dev → α → Dev) (m : Dev) (h : ∀ m x, (f m x).keep = m.keep) :
    (l.foldl f m).keep = m.keep := by
  induction l generalizing m with
  | nil => rfl
  | cons a t ih => simp [ih, h]

@[simp] theorem foldl_regs {α : Type} (l : List α) (f : Die → α → Die) (m : Die) (h : ∀ m x, (f m x).regs = m.regs) :
    (l.foldl f m).regs = m.regs := by
  induction l generalizing m with
  | nil => rfl
  | cons a t ih => simp [ih, h]

@[simp] theorem foldl_fst_keep {α β : Type} (l : List α) (f : Dev × β → α → Dev × β) (s : Dev × β) (h : ∀ s x, (f s x).1.keep = s.1.keep) :
    (l.foldl f s).1.keep = s.1.keep := by
  induction l generalizing s with
  | nil => rfl
  | cons a t ih => simp [ih, h]

@[simp] theorem when_keep (c : Bool) (f : Dev → Dev) (m : Dev) (h : ∀ m, (f m).keep = m.keep) : (when c f m).keep = m.keep := by
  cases c
  · rfl
  · exact h m

@[simp] theorem when_regs (c : Bool) (f : Die → Die) (m : Die) (h : ∀ m, (f m).regs = m.regs) : (when c f m).regs = m.regs := by
  cases c
  · rfl
  · exact h m

@[simp] theorem ite_keep (c : Prop) [Decidable c] (a b : Dev) : (if c then a else b).keep = if c then a.keep else b.keep := by
  split <;> rfl
@[simp] theorem ite_regs (c : Prop) [Decidable c] (a b : Die) : (if c then a else b).regs = if c then a.regs else b.regs := by
  split <;> rfl

@[simp] theorem Dev.modCom_keep (m : Dev) (b : Pid) (d : Committed → Committed) (hm : ∀ c, (d c).masters = c.masters) (ho : ∀ c, (d c).opt = c.opt) (hs : ∀ c, (d c).steps = c.steps) :
    (Dev.modCom m b d).keep = m.keep := by
  unfold Dev.modCom
  exact Dev.modPart_keep _ _ _ (fun _ => hm _) (fun _ => ho _) (fun _ => hs _)
@[simp] theorem Dev.modRun_keep (m : Dev) (b : Pid) (d : StepRun → StepRun) :
    (Dev.modRun m b d).keep = m.keep := by
  unfold Dev.modRun
  exact Dev.modPart_keep _ _ _ (fun _ => rfl) (fun _ => rfl) (fun _ => rfl)
@[simp] theorem Die.modTile_keep (x : Die) (b : Nat) (d : Tile → Tile) :
    (Die.modTile x b d).regs = x.regs := rfl
@[simp] theorem Die.modLeaf_keep (x : Die) (b : Nat) (d : LeafId) (e : Leaf → Leaf) :
    (Die.modLeaf x b d e).regs = x.regs := rfl
@[simp] theorem Die.modCube_keep (x : Die) (b : Nat) (d : Cube → Cube) :
    (Die.modCube x b d).regs = x.regs := rfl
@[simp] theorem Die.modWunit_keep (x : Die) (b : Nat) (d : WUnit → WUnit) :
    (Die.modWunit x b d).regs = x.regs := rfl
@[simp] theorem Die.modPort_keep (x : Die) (b : PortId) (d : Port → Port) :
    (Die.modPort x b d).regs = x.regs := rfl
@[simp] theorem Dev.emit_keep (m : Dev) (b : Out) :
    (Dev.emit m b).keep = m.keep := rfl
@[simp] theorem Dev.drawn_keep (m : Dev) (b : Nat) :
    (Dev.drawn m b).keep = m.keep := rfl
@[simp] theorem Dev.eachHealthy_keep (m : Dev) (b : Die → Die) (h : ∀ x, (b x).regs = x.regs) :
    (Dev.eachHealthy m b).keep = m.keep := by
  intros; unfold Dev.eachHealthy; repeat' (first | rfl | (simp; done) | intro _ | rw [foldl_keep] | rw [foldl_fst_keep] | rw [foldl_regs] | rw [when_keep] | rw [when_regs] | rw [Dev.modPart_keep] | rw [Dev.modDie_keep] | rw [Dev.modCom_keep] | (dsimp only) | split | (simp_all; done) | simp)
@[simp] theorem Dev.publishMap_keep (m : Dev) :
    (Dev.publishMap m).keep = m.keep := rfl
@[simp] theorem Die.count_keep (x : Die) (b : CntKey) (d : Nat) :
    (Die.count x b d).regs = x.regs := rfl
@[simp] theorem Die.clearBlock_keep (x : Die) (b : Nat) :
    (Die.clearBlock x b).regs = x.regs := rfl
@[simp] theorem Die.clearOne_keep (x : Die) (b : CntKey) :
    (Die.clearOne x b).regs = x.regs := rfl
@[simp] theorem Dev.count_keep (m : Dev) (b : DieId) (d : CntKey) (e : Nat) :
    (Dev.count m b d e).keep = m.keep := by
  intros; unfold Dev.count; repeat' (first | rfl | (simp; done) | intro _ | rw [foldl_keep] | rw [foldl_fst_keep] | rw [foldl_regs] | rw [when_keep] | rw [when_regs] | rw [Dev.modPart_keep] | rw [Dev.modDie_keep] | rw [Dev.modCom_keep] | (dsimp only) | split | (simp_all; done) | simp)
@[simp] theorem Dev.countTally_keep (m : Dev) (b : DieId) (d : Pid) (e : Nat) (f : Nat) (g : Tally) :
    (Dev.countTally m b d e f g).keep = m.keep := by
  intros; unfold Dev.countTally; repeat' (first | rfl | (simp; done) | intro _ | rw [foldl_keep] | rw [foldl_fst_keep] | rw [foldl_regs] | rw [when_keep] | rw [when_regs] | rw [Dev.modPart_keep] | rw [Dev.modDie_keep] | rw [Dev.modCom_keep] | (dsimp only) | split | (simp_all; done) | simp)
@[simp] theorem Die.buffer_keep (x : Die) (b : Event) :
    (Die.buffer x b).regs = x.regs := by simp [Die.buffer]
@[simp] theorem Dev.record_keep (m : Dev) (b : Option DieId) (d : Event) :
    (Dev.record m b d).keep = m.keep := by
  intros; unfold Dev.record; repeat' (first | rfl | (simp; done) | intro _ | rw [foldl_keep] | rw [foldl_fst_keep] | rw [foldl_regs] | rw [when_keep] | rw [when_regs] | rw [Dev.modPart_keep] | rw [Dev.modDie_keep] | rw [Dev.modCom_keep] | (dsimp only) | split | (simp_all; done) | simp)
@[simp] theorem Dev.abortEntry_keep (m : Dev) (b : Nat) :
    (Dev.abortEntry m b).keep = m.keep := by
  unfold Dev.abortEntry
  split <;> simp
@[simp] theorem Dev.raise_keep (m : Dev) (b : Option DieId) (d : Event) :
    (Dev.raise m b d).keep = m.keep := by simp [Dev.raise]
@[simp] theorem Dev.raiseP_keep (m : Dev) (b : Option DieId) (d : Pid) (e : Event) :
    (Dev.raiseP m b d e).keep = m.keep := by simp [Dev.raiseP]
@[simp] theorem Dev.setOwner_keep (m : Dev) (b : Resource) (d : Option Pid) :
    (Dev.setOwner m b d).keep = m.keep := rfl
@[simp] theorem Dev.haltRing_keep (m : Dev) (b : SetId) (d : Nat) :
    (Dev.haltRing m b d).keep = m.keep := by simp [Dev.haltRing]
@[simp] theorem Dev.completeHead_keep (m : Dev) (b : SetId) (d : Nat) (e : Nat) (f : Dbl) (g : Option Nat) (i : Bool) :
    (Dev.completeHead m b d e f g i).keep = m.keep := by simp [Dev.completeHead]
@[simp] theorem Dev.reject_keep (m : Dev) (b : SetId) (d : Nat) :
    (Dev.reject m b d).keep = m.keep := rfl
@[simp] theorem Dev.completeOk_keep (m : Dev) (b : SetId) :
    (Dev.completeOk m b).keep = m.keep := rfl
@[simp] theorem Dev.setHead_keep (m : Dev) (b : SetId) (d : Held → Held) :
    (Dev.setHead m b d).keep = m.keep := rfl
@[simp] theorem Dev.execHead_keep (m : Dev) (b : SetId) (d : Nat) (e : Held → Pid → Dev → Dev) (h : ∀ x y m, (e x y m).keep = m.keep) :
    (Dev.execHead m b d e).keep = m.keep := by
  unfold Dev.execHead
  split <;> simp_all
@[simp] theorem Dev.publish_keep (m : Dev) (b : SetId) (d : Payload) :
    (Dev.publish m b d).1.keep = m.keep := by
  intros; unfold Dev.publish; repeat' (first | rfl | (simp; done) | intro _ | rw [foldl_keep] | rw [foldl_fst_keep] | rw [foldl_regs] | rw [when_keep] | rw [when_regs] | rw [Dev.modPart_keep] | rw [Dev.modDie_keep] | rw [Dev.modCom_keep] | (dsimp only) | split | (simp_all; done) | simp)
@[simp] theorem Die.dropPieces_keep (m : Pid) (b : Die) :
    (Die.dropPieces m b).regs = b.regs := rfl
@[simp] theorem Dev.dropStaged_keep (m : Dev) (b : Pid) :
    (Dev.dropStaged m b).keep = m.keep := by
  intros; unfold Dev.dropStaged; repeat' (first | rfl | (simp; done) | intro _ | rw [foldl_keep] | rw [foldl_fst_keep] | rw [foldl_regs] | rw [when_keep] | rw [when_regs] | rw [Dev.modPart_keep] | rw [Dev.modDie_keep] | rw [Dev.modCom_keep] | (dsimp only) | split | (simp_all; done) | simp)
@[simp] theorem Dev.rejectArmed_keep (m : Dev) (b : Pid) :
    (Dev.rejectArmed m b).keep = m.keep := by
  unfold Dev.rejectArmed
  split <;> simp
@[simp] theorem Dev.publishIfCalm_keep (m : Dev) :
    (Dev.publishIfCalm m).keep = m.keep := by simp [Dev.publishIfCalm]
@[simp] theorem Dev.stopJob_keep (m : Dev) (b : Pid) :
    (Dev.stopJob m b).keep = m.keep := by simp [Dev.stopJob]
@[simp] theorem Die.tick_keep (x : Die) :
    (Die.tick x).regs = x.regs := by simp [Die.tick]
@[simp] theorem tick_keep (m : Dev) :
    (tick m).keep = m.keep := by simp [tick]
@[simp] theorem Dev.emitFlit_keep (m : Dev) (b : DieId) (d : PortId) (e : TxFlit) :
    (Dev.emitFlit m b d e).keep = m.keep := by simp [Dev.emitFlit]
@[simp] theorem Dev.pump_keep (m : Dev) (b : DieId) (d : PortId) :
    (Dev.pump m b d).keep = m.keep := by
  intros; unfold Dev.pump; repeat' (first | rfl | (simp; done) | intro _ | rw [foldl_keep] | rw [foldl_fst_keep] | rw [foldl_regs] | rw [when_keep] | rw [when_regs] | rw [Dev.modPart_keep] | rw [Dev.modDie_keep] | rw [Dev.modCom_keep] | (dsimp only) | split | (simp_all; done) | simp)
@[simp] theorem Dev.sendOn_keep (m : Dev) (b : DieId) (d : PortId) (e : Frame) :
    (Dev.sendOn m b d e).keep = m.keep := by
  intros; unfold Dev.sendOn; repeat' (first | rfl | (simp; done) | intro _ | rw [foldl_keep] | rw [foldl_fst_keep] | rw [foldl_regs] | rw [when_keep] | rw [when_regs] | rw [Dev.modPart_keep] | rw [Dev.modDie_keep] | rw [Dev.modCom_keep] | (dsimp only) | split | (simp_all; done) | simp)
@[simp] theorem Dev.sendRing_keep (m : Dev) (b : Pid) (d : RingEntry) (e : Frame) :
    (Dev.sendRing m b d e).keep = m.keep := by
  intros; unfold Dev.sendRing; repeat' (first | rfl | (simp; done) | intro _ | rw [foldl_keep] | rw [foldl_fst_keep] | rw [foldl_regs] | rw [when_keep] | rw [when_regs] | rw [Dev.modPart_keep] | rw [Dev.modDie_keep] | rw [Dev.modCom_keep] | (dsimp only) | split | (simp_all; done) | simp)
@[simp] theorem Dev.takeMark_keep (m : Dev) (b : Pid) (d : Nat) :
    (Dev.takeMark m b d).keep = m.keep := by simp [Dev.takeMark]
@[simp] theorem Dev.sendMarks_keep (m : Dev) (b : Pid) (d : Nat) :
    (Dev.sendMarks m b d).keep = m.keep := by
  intros; unfold Dev.sendMarks; repeat' (first | rfl | (simp; done) | intro _ | rw [foldl_keep] | rw [foldl_fst_keep] | rw [foldl_regs] | rw [when_keep] | rw [when_regs] | rw [Dev.modPart_keep] | rw [Dev.modDie_keep] | rw [Dev.modCom_keep] | (dsimp only) | split | (simp_all; done) | simp)
@[simp] theorem Dev.settlePorts_keep (m : Dev) (b : Pid) :
    (Dev.settlePorts m b).keep = m.keep := by
  intros; unfold Dev.settlePorts; repeat' (first | rfl | (simp; done) | intro _ | rw [foldl_keep] | rw [foldl_fst_keep] | rw [foldl_regs] | rw [when_keep] | rw [when_regs] | rw [Dev.modPart_keep] | rw [Dev.modDie_keep] | rw [Dev.modCom_keep] | (dsimp only) | split | (simp_all; done) | simp)
@[simp] theorem keepFrame_com (f : Frame) (x : Part) : (keepFrame f x).com = x.com := by
  unfold keepFrame; repeat' (first | rfl | split)
@[simp] theorem closeStep_masters (n : Nat) (x : Part) : (Part.closeStep n x).com.masters = x.com.masters := by
  unfold Part.closeStep; repeat' (first | rfl | split)
@[simp] theorem closeStep_opt (n : Nat) (x : Part) : (Part.closeStep n x).com.opt = x.com.opt := by
  unfold Part.closeStep; repeat' (first | rfl | split)
@[simp] theorem closeStep_steps (n : Nat) (x : Part) : (Part.closeStep n x).com.steps = x.com.steps := by
  unfold Part.closeStep; repeat' (first | rfl | split)
@[simp] theorem stashShown_com (x : Part) : (Part.stashShown x).com = x.com := by
  unfold Part.stashShown; split <;> rfl
@[simp] theorem Dev.countDecision_keep (m : Dev) (b : CntKey) (d : Nat) :
    (Dev.countDecision m b d).keep = m.keep := by
  unfold Dev.countDecision
  split <;> simp
@[simp] theorem Dev.countClamp_keep (m : Dev) (b : Pid) (d : Container) (e : Nat) (f : Nat) :
    (Dev.countClamp m b d e f).keep = m.keep := by
  unfold Dev.countClamp
  split <;> simp
@[simp] theorem Dev.fixExps_keep (m : Dev) (b : Pid) (d : Container) (e : Tab Word) (f : Tab Int → Committed → Committed) (hm : ∀ t c, (f t c).masters = c.masters) (ho : ∀ t c, (f t c).opt = c.opt) (hs : ∀ t c, (f t c).steps = c.steps) :
    (Dev.fixExps m b d e f).keep = m.keep := by
  intros; unfold Dev.fixExps; repeat' (first | rfl | (simp; done) | intro _ | rw [foldl_keep] | rw [foldl_fst_keep] | rw [foldl_regs] | rw [when_keep] | rw [when_regs] | rw [Dev.modPart_keep] | rw [Dev.modDie_keep] | rw [Dev.modCom_keep] | (dsimp only) | split | (simp_all; done) | simp)
@[simp] theorem Dev.fixMasters_keep (m : Dev) (b : Pid) :
    (Dev.fixMasters m b).keep = m.keep := by
  unfold Dev.fixMasters
  split <;> simp
@[simp] theorem Dev.fixEpacts_keep (m : Dev) (b : Pid) :
    (Dev.fixEpacts m b).keep = m.keep := by
  unfold Dev.fixEpacts
  split <;> simp
@[simp] theorem Dev.leaveDigital_keep (m : Dev) (b : Pid) (d : Container) :
    (Dev.leaveDigital m b d).keep = m.keep := by simp [Dev.leaveDigital]
@[simp] theorem Dev.countScales_keep (m : Dev) (b : Pid) (d : Scales) :
    (Dev.countScales m b d).keep = m.keep := by simp [Dev.countScales]
@[simp] theorem Dev.endProbe_keep (m : Dev) (b : Pid) :
    (Dev.endProbe m b).keep = m.keep := by
  unfold Dev.endProbe
  split <;> simp
@[simp] theorem Dev.missedPreempt_keep (m : Dev) (b : Pid) (d : Dbl) :
    (Dev.missedPreempt m b d).keep = m.keep := by
  unfold Dev.missedPreempt
  split <;> simp
@[simp] theorem Dev.settleUnits_keep (m : Dev) (b : Pid) :
    (Dev.settleUnits m b).keep = m.keep := by simp [Dev.settleUnits]
@[simp] theorem Dev.completeStep_keep (m : Dev) (b : SetId) (d : Nat) (e : Nat) (f : Dbl) (g : Option Nat) :
    (Dev.completeStep m b d e f g).keep = m.keep := by simp [Dev.completeStep]
@[simp] theorem Dev.abortStep_keep (m : Dev) (b : Pid) (d : AbortCause) :
    (Dev.abortStep m b d).keep = m.keep := by
  unfold Dev.abortStep
  split <;> simp
@[simp] theorem Dev.readLine_keep (m : Dev) (b : SetId) (d : Doorbell) :
    (Dev.readLine m b d).keep = m.keep := by
  intros; unfold Dev.readLine; repeat' (first | rfl | (simp; done) | intro _ | rw [foldl_keep] | rw [foldl_fst_keep] | rw [foldl_regs] | rw [when_keep] | rw [when_regs] | rw [Dev.modPart_keep] | rw [Dev.modDie_keep] | rw [Dev.modCom_keep] | (dsimp only) | split | (simp_all; done) | simp)
@[simp] theorem Dev.readKept_keep (m : Dev) (b : List SetId) :
    (Dev.readKept m b).keep = m.keep := by
  intros; unfold Dev.readKept; repeat' (first | rfl | (simp; done) | intro _ | rw [foldl_keep] | rw [foldl_fst_keep] | rw [foldl_regs] | rw [when_keep] | rw [when_regs] | rw [Dev.modPart_keep] | rw [Dev.modDie_keep] | rw [Dev.modCom_keep] | (dsimp only) | split | (simp_all; done) | simp)
@[simp] theorem toForm_masters (b : Bool) (x : Part) : (Part.toForm b x).com.masters = x.com.masters := by
  unfold Part.toForm; dsimp only; split <;> rfl
@[simp] theorem toForm_opt (b : Bool) (x : Part) : (Part.toForm b x).com.opt = x.com.opt := by
  unfold Part.toForm; dsimp only; split <;> rfl
@[simp] theorem toForm_steps (b : Bool) (x : Part) : (Part.toForm b x).com.steps = x.com.steps := by
  unfold Part.toForm; dsimp only; split <;> rfl
@[simp] theorem resumed_masters (i : Interrupt) (b : Bool) (x : Part) : (Part.resumed i b x).com.masters = x.com.masters := by
  simp [Part.resumed]
@[simp] theorem resumed_opt (i : Interrupt) (b : Bool) (x : Part) : (Part.resumed i b x).com.opt = x.com.opt := by
  simp [Part.resumed]
@[simp] theorem resumed_steps (i : Interrupt) (b : Bool) (x : Part) : (Part.resumed i b x).com.steps = x.com.steps := by
  simp [Part.resumed]
@[simp] theorem Dev.stopWindows_keep (m : Dev) (b : Pid) :
    (Dev.stopWindows m b).keep = m.keep := by
  intros; unfold Dev.stopWindows; repeat' (first | rfl | (simp; done) | intro _ | rw [foldl_keep] | rw [foldl_fst_keep] | rw [foldl_regs] | rw [when_keep] | rw [when_regs] | rw [Dev.modPart_keep] | rw [Dev.modDie_keep] | rw [Dev.modCom_keep] | (dsimp only) | split | (simp_all; done) | simp)
@[simp] theorem Dev.endJob_keep (m : Dev) (b : Pid) :
    (Dev.endJob m b).keep = m.keep := by simp [Dev.endJob]
@[simp] theorem Dev.secondFault_keep (m : Dev) (b : Option DieId) (d : Pid) :
    (Dev.secondFault m b d).keep = m.keep := by simp [Dev.secondFault]
@[simp] theorem Dev.interrupt_keep (m : Dev) (det : Option DieId) (p : Pid) (i : Interrupt) : (Dev.interrupt m det p i).keep = m.keep := by
  have tail : ∀ (n : Dev) (f : Part → Part), (∀ x, (f x).com.masters = x.com.masters) → (∀ x, (f x).com.opt = x.com.opt)
      → (∀ x, (f x).com.steps = x.com.steps) → ((n.modPart p Part.stashShown).modPart p f).keep = n.keep := by
    intro n f hm ho hs
    rw [Dev.modPart_keep _ _ _ hm ho hs, Dev.modPart_keep _ _ _ (by simp) (by simp) (by simp)]
  have markd : ∀ c : Bool, (if c then m.sendMarks p 3 else m).keep = m.keep := by
    intro c; split <;> simp
  unfold Dev.interrupt
  extract_lets +onlyGivenNames x
  split
  · rfl
  · split
    · split
      · exact Dev.modPart_keep _ _ _ (fun _ => rfl) (fun _ => rfl) (fun _ => rfl)
      · simp
    · extract_lets marks m1 m2 m3 m4
      have h1 : m1.keep = m.keep := markd marks
      have h3 : m3.keep = m.keep := (Dev.stopWindows_keep _ _).trans ((Dev.dropStaged_keep _ _).trans h1)
      have h4 : m4.keep = m.keep := by
        clear_value m3
        unfold m4
        split
        · split
          · exact h3
          · exact (Dev.setHead_keep _ _ _).trans h3
        · exact h3
      clear_value m4 marks x
      rw [tail]
      · exact h4
      · intro _; rfl
      · intro _; rfl
      · intro _; rfl
@[simp] theorem Dev.movePlan_keep (m : Dev) (b : List Region) (d : List Region) :
    (Dev.movePlan m b d).keep = m.keep := by simp [Dev.movePlan]
@[simp] theorem Dev.rollback_keep (m : Dev) (b : Option DieId) (d : List Pid) (e : Nat) :
    (Dev.rollback m b d e).keep = m.keep := by simp [Dev.rollback]
@[simp] theorem Die.eachPort_keep (x : Die) (b : Port → Port) :
    (Die.eachPort x b).regs = x.regs := by
  unfold Die.eachPort
  repeat' (first | rfl | (simp; done) | split)
@[simp] theorem Die.drop_keep (x : Die) :
    (Die.drop x).regs = x.regs := rfl
@[simp] theorem Dev.electAfter_keep (m : Dev) (b : Option DieId) :
    (Dev.electAfter m b).keep = m.keep := by
  intros; unfold Dev.electAfter; repeat' (first | rfl | (simp; done) | intro _ | rw [foldl_keep] | rw [foldl_fst_keep] | rw [foldl_regs] | rw [when_keep] | rw [when_regs] | rw [Dev.modPart_keep] | rw [Dev.modDie_keep] | rw [Dev.modCom_keep] | (dsimp only) | split | (simp_all; done) | simp)
@[simp] theorem Dev.dieLoss_keep (m : Dev) (b : DieId) (d : Pid) :
    (Dev.dieLoss m b d).keep = m.keep := by
  intros; unfold Dev.dieLoss; repeat' (first | rfl | (simp; done) | intro _ | rw [foldl_keep] | rw [foldl_fst_keep] | rw [foldl_regs] | rw [when_keep] | rw [when_regs] | rw [Dev.modPart_keep] | rw [Dev.modDie_keep] | rw [Dev.modCom_keep] | (dsimp only) | split | (simp_all; done) | simp)
@[simp] theorem Dev.tooFew_keep (m : Dev) :
    (Dev.tooFew m).keep = m.keep := by simp [Dev.tooFew]
@[simp] theorem Dev.fence_keep (m : Dev) (b : DieId) :
    (Dev.fence m b).keep = m.keep := by
  intros; unfold Dev.fence; repeat' (first | rfl | (simp; done) | intro _ | rw [foldl_keep] | rw [foldl_fst_keep] | rw [foldl_regs] | rw [when_keep] | rw [when_regs] | rw [Dev.modPart_keep] | rw [Dev.modDie_keep] | rw [Dev.modCom_keep] | (dsimp only) | split | (simp_all; done) | simp)
@[simp] theorem Dev.raiseUnit_keep (m : Dev) (b : DieId) (d : Bool) (e : Nat) (f : Ev) :
    (Dev.raiseUnit m b d e f).keep = m.keep := by simp [Dev.raiseUnit]
@[simp] theorem Dev.barrier_keep (m : Dev) (b : SetId) :
    (Dev.barrier m b).keep = m.keep := by simp [Dev.barrier]
@[simp] theorem Dev.settleUnknown_keep (m : Dev) (b : SetId) :
    (Dev.settleUnknown m b).keep = m.keep := by
  unfold Dev.settleUnknown
  split <;> simp
@[simp] theorem Dev.badAccess_keep (m : Dev) :
    (Dev.badAccess m).keep = m.keep := by simp [Dev.badAccess]
@[simp] theorem Dev.writeRingCtrl_keep (m : Dev) (b : Word) :
    (Dev.writeRingCtrl m b).keep = m.keep := by
  intros; unfold Dev.writeRingCtrl; repeat' (first | rfl | (simp; done) | intro _ | rw [foldl_keep] | rw [foldl_fst_keep] | rw [foldl_regs] | rw [when_keep] | rw [when_regs] | rw [Dev.modPart_keep] | rw [Dev.modDie_keep] | rw [Dev.modCom_keep] | (dsimp only) | split | (simp_all; done) | simp)
@[simp] theorem rebuildBlock_masters (a : Container) (c : Committed) (b : Nat) : (rebuildBlock a c b).1.masters = c.masters := rfl
@[simp] theorem rebuildBlock_opt (a : Container) (c : Committed) (b : Nat) : (rebuildBlock a c b).1.opt = c.opt := rfl
@[simp] theorem rebuildBlock_steps (a : Container) (c : Committed) (b : Nat) : (rebuildBlock a c b).1.steps = c.steps := rfl
@[simp] theorem reEpact_masters (a : Container) (ss : List Site) (c : Committed) : (reEpact a ss c).masters = c.masters := rfl
@[simp] theorem reEpact_opt (a : Container) (ss : List Site) (c : Committed) : (reEpact a ss c).opt = c.opt := rfl
@[simp] theorem reEpact_steps (a : Container) (ss : List Site) (c : Committed) : (reEpact a ss c).steps = c.steps := rfl
@[simp] theorem reTarget_masters (a : Container) (ss : List Site) (c : Committed) : (reTarget a ss c).masters = c.masters := rfl
@[simp] theorem reTarget_opt (a : Container) (ss : List Site) (c : Committed) : (reTarget a ss c).opt = c.opt := rfl
@[simp] theorem reTarget_steps (a : Container) (ss : List Site) (c : Committed) : (reTarget a ss c).steps = c.steps := rfl
@[simp] theorem Die.startLeaf_keep (x : Die) (b : Nat) (d : LeafId) (e : Bool) (f : Tab Int) (g : Tab Byte) :
    (Die.startLeaf x b d e f g).regs = x.regs := rfl
@[simp] theorem Dev.programLeaf_keep (m : Dev) (b : Pid) (d : DieId) (e : Nat) (f : LeafId) (g : Bool) :
    (Dev.programLeaf m b d e f g).keep = m.keep := by
  intros; unfold Dev.programLeaf; repeat' (first | rfl | (simp; done) | intro _ | rw [foldl_keep] | rw [foldl_fst_keep] | rw [foldl_regs] | rw [when_keep] | rw [when_regs] | rw [Dev.modPart_keep] | rw [Dev.modDie_keep] | rw [Dev.modCom_keep] | (dsimp only) | split | (simp_all; done) | simp)
@[simp] theorem Dev.programHeld_keep (m : Dev) (b : Pid) (d : DieId) (e : Nat) (f : LeafId) (g : Bool) (i : Tab Byte) :
    (Dev.programHeld m b d e f g i).keep = m.keep := by
  intros; unfold Dev.programHeld; repeat' (first | rfl | (simp; done) | intro _ | rw [foldl_keep] | rw [foldl_fst_keep] | rw [foldl_regs] | rw [when_keep] | rw [when_regs] | rw [Dev.modPart_keep] | rw [Dev.modDie_keep] | rw [Dev.modCom_keep] | (dsimp only) | split | (simp_all; done) | simp)
@[simp] theorem Dev.rebuildTables_keep (m : Dev) (p : Pid) (d : DieId) (bs : List Nat) : (Dev.rebuildTables m p d bs).keep = m.keep := by
  unfold Dev.rebuildTables
  split
  · rename_i a _
    apply foldl_keep
    intro n b
    rw [Dev.countTally_keep, Dev.modCom_keep n p _ (fun c => rebuildBlock_masters a c b) (fun c => rebuildBlock_opt a c b) (fun c => rebuildBlock_steps a c b)]
  · rfl
@[simp] theorem Dev.refixEpacts_keep (m : Dev) (b : Pid) (d : Nat → Option DieId) (e : List Nat) :
    (Dev.refixEpacts m b d e).keep = m.keep := by
  intros; unfold Dev.refixEpacts; repeat' (first | rfl | (simp; done) | intro _ | rw [foldl_keep] | rw [foldl_fst_keep] | rw [foldl_regs] | rw [when_keep] | rw [when_regs] | rw [Dev.modPart_keep] | rw [Dev.modDie_keep] | rw [Dev.modCom_keep] | (dsimp only) | split | (simp_all; done) | simp)
@[simp] theorem Dev.recordSites_keep (m : Dev) (p : Pid) (d : DieId) (ss : List Site) : (Dev.recordSites m p d ss).keep = m.keep := by
  unfold Dev.recordSites
  split
  · rename_i a _
    rw [Dev.rebuildTables_keep, Dev.refixEpacts_keep,
      Dev.modCom_keep m p _ (fun c => reEpact_masters a ss c) (fun c => reEpact_opt a ss c) (fun c => reEpact_steps a ss c)]
  · rfl
@[simp] theorem Dev.waitHead_keep (m : Dev) (b : SetId) (d : Held) :
    (Dev.waitHead m b d).keep = m.keep := by simp [Dev.waitHead]
@[simp] theorem Dev.refuseObject_keep (m : Dev) (b : Pid) (d : SetId) (e : Nat) (f : Bool) :
    (Dev.refuseObject m b d e f).keep = m.keep := by simp [Dev.refuseObject]
@[simp] theorem Dev.clearLeaves_keep (m : Dev) (b : Pid) (d : DieId) :
    (Dev.clearLeaves m b d).keep = m.keep := by simp [Dev.clearLeaves]
@[simp] theorem Dev.placeLeaves_keep (m : Dev) (b : Container) (d : DieId) :
    (Dev.placeLeaves m b d).keep = m.keep := by simp [Dev.placeLeaves]
@[simp] theorem Dev.settleLeafProgram_keep (m : Dev) (b : Pid) :
    (Dev.settleLeafProgram m b).keep = m.keep := by
  intros; unfold Dev.settleLeafProgram; repeat' (first | rfl | (simp; done) | intro _ | rw [foldl_keep] | rw [foldl_fst_keep] | rw [foldl_regs] | rw [when_keep] | rw [when_regs] | rw [Dev.modPart_keep] | rw [Dev.modDie_keep] | rw [Dev.modCom_keep] | (dsimp only) | split | (simp_all; done) | simp)
@[simp] theorem Die.phases_keep (x : Die) (b : Nat) (d : Nat) (e : Bool) (f : Nat) (g : Nat) :
    (Die.phases x b d e f g).regs = x.regs := rfl
@[simp] theorem Die.put_keep (x : Die) (b : Pid) (d : Nat) (e : PieceFmt) (f : Int) (g : List Byte) :
    (Die.put x b d e f g).regs = x.regs := by simp [Die.put]
@[simp] theorem Die.putWords_keep (x : Die) (b : Pid) (d : Nat) (e : List Word) :
    (Die.putWords x b d e).regs = x.regs := by simp [Die.putWords]
@[simp] theorem Die.putCodes_keep (x : Die) (b : Pid) (d : Nat) (e : PieceFmt) (f : Int) (g : List Byte) :
    (Die.putCodes x b d e f g).regs = x.regs := by simp [Die.putCodes]
@[simp] theorem Dev.addAmax_keep (m : Dev) (b : Pid) (d : Nat) (e : Option (Nat × Int)) (f : List Word) :
    (Dev.addAmax m b d e f).keep = m.keep := by simp [Dev.addAmax]
@[simp] theorem Dev.stash_keep (m : Dev) (b : Pid) (d : DieId) (e : Nat) :
    (Dev.stash m b d e).keep = m.keep := by
  unfold Dev.stash
  repeat' (first | rfl | (simp; done) | split)
@[simp] theorem Dev.stashClass_keep (m : Dev) (b : Pid) (d : DieId) (e : Container) (f : Nat) (g : Nat) :
    (Dev.stashClass m b d e f g).keep = m.keep := by
  unfold Dev.stashClass
  split <;> simp
@[simp] theorem Dev.settleBlock_keep (m : Dev) (b : Pid) (d : DieId) (e : Nat) (f : Bool) (g : Settled) :
    (Dev.settleBlock m b d e f g).keep = m.keep := by
  intros; unfold Dev.settleBlock; repeat' (first | rfl | (simp; done) | intro _ | rw [foldl_keep] | rw [foldl_fst_keep] | rw [foldl_regs] | rw [when_keep] | rw [when_regs] | rw [Dev.modPart_keep] | rw [Dev.modDie_keep] | rw [Dev.modCom_keep] | (dsimp only) | split | (simp_all; done) | simp)
@[simp] theorem Dev.lateStash_keep (m : Dev) (b : Pid) (d : Nat) :
    (Dev.lateStash m b d).keep = m.keep := by
  unfold Dev.lateStash
  split <;> simp
@[simp] theorem Dev.putNF8_keep (m : Dev) (b : Pid) (d : DieId) (e : StepRun) (f : Nat × TensorEntry) (g : Nat) (i : Nat → Bool) (j : List Word) :
    (Dev.putNF8 m b d e f g i j).keep = m.keep := by simp [Dev.putNF8]
@[simp] theorem Dev.putAct_keep (m : Dev) (b : Pid) (d : DieId) (e : Container) (f : StepRun) (g : Nat) (i : Nat) (j : Nat → Bool) (k : List Word) :
    (Dev.putAct m b d e f g i j k).keep = m.keep := by
  unfold Dev.putAct
  split <;> simp
@[simp] theorem Dev.putGrad_keep (m : Dev) (b : Pid) (d : DieId) (e : Container) (f : StepRun) (g : Nat × TensorEntry) (i : Nat) (j : List (Nat × Word)) :
    (Dev.putGrad m b d e f g i j).keep = m.keep := by simp [Dev.putGrad]
@[simp] theorem Dev.putForward_keep (m : Dev) (b : Pid) (d : DieId) (e : Container) (f : StepRun) (g : Nat) (i : Nat) (j : Nat) (k : Nat) (l : List FwdOut) :
    (Dev.putForward m b d e f g i j k l).keep = m.keep := by simp [Dev.putForward]
@[simp] theorem Dev.useProduct_keep (m : Dev) (p : Pid) (d : DieId) (a : Container) (r : StepRun) (vs : List Word) (use : CubeUse) :
    ∀ n, Dev.useProduct m p d a r vs use = some n → n.keep = m.keep := by
  intro n h
  cases use <;> simp only [Dev.useProduct, Option.some.injEq, Option.map_eq_some_iff] at h
  · subst h; simp
  · subst h; simp
  · split at h <;> · cases h; simp
  · obtain ⟨y, -, rfl⟩ := h; simp
  · subst h; simp
@[simp] theorem Dev.releaseHalf_keep (m : Dev) (b : ResRef × Nat) :
    (Dev.releaseHalf m b).keep = m.keep := by
  intros; unfold Dev.releaseHalf; repeat' (first | rfl | (simp; done) | intro _ | rw [foldl_keep] | rw [foldl_fst_keep] | rw [foldl_regs] | rw [when_keep] | rw [when_regs] | rw [Dev.modPart_keep] | rw [Dev.modDie_keep] | rw [Dev.modCom_keep] | (dsimp only) | split | (simp_all; done) | simp)
@[simp] theorem Dev.dropGathered_keep (m : Dev) (b : Pid) (d : StepRun) (e : Nat) (f : Nat) :
    (Dev.dropGathered m b d e f).keep = m.keep := by simp [Dev.dropGathered]
@[simp] theorem Dev.sendOnce_keep (m : Dev) (b : Pid) (d : Container) (e : RingEntry) (f : Frame) :
    (Dev.sendOnce m b d e f).keep = m.keep := by simp [Dev.sendOnce]
@[simp] theorem Dev.sendFirst_keep (m : Dev) (b : Pid) (d : Container) (e : RingEntry) (f : Nat) :
    (Dev.sendFirst m b d e f).keep = m.keep := by
  unfold Dev.sendFirst
  split <;> simp
@[simp] theorem Dev.sendMirrorFirst_keep (m : Dev) (b : Pid) (d : Container) (e : RingEntry) (f : Nat) :
    (Dev.sendMirrorFirst m b d e f).keep = m.keep := by
  unfold Dev.sendMirrorFirst
  split <;> simp
@[simp] theorem Dev.uncovered_keep (m : Dev) (b : Option DieId) (d : Pid) (e : Container) :
    (Dev.uncovered m b d e).keep = m.keep := by simp [Dev.uncovered]
@[simp] theorem Dev.putFinals_keep (m : Dev) (b : Pid) (d : List (Nat × Word)) :
    (Dev.putFinals m b d).keep = m.keep := by simp [Dev.putFinals]
@[simp] theorem Dev.markSlot_keep (m : Dev) (b : Pid) (d : Frame) :
    (Dev.markSlot m b d).keep = m.keep := by simp [Dev.markSlot]
@[simp] theorem Dev.deliverReduce_keep (m : Dev) (b : Pid) (d : DieId) (e : Container) (f : RingEntry) (g : Frame) :
    (Dev.deliverReduce m b d e f g).keep = m.keep := by
  unfold Dev.deliverReduce
  split <;> simp
@[simp] theorem Dev.deliverGather_keep (m : Dev) (b : Pid) (d : Container) (e : RingEntry) (f : Frame) :
    (Dev.deliverGather m b d e f).keep = m.keep := by simp [Dev.deliverGather]
@[simp] theorem Dev.deliverData_keep (m : Dev) (b : Pid) (d : DieId) (e : Container) (f : RingEntry) (g : Frame) :
    (Dev.deliverData m b d e f g).keep = m.keep := by simp [Dev.deliverData]
@[simp] theorem Dev.closed_keep (m : Dev) (b : Pid) (d : Container) (e : Dbl) (f : List Word) :
    (Dev.closed m b d e f).keep = m.keep := by simp [Dev.closed]
@[simp] theorem Dev.closeReduce_keep (m : Dev) (b : Pid) (d : Option DieId) (e : Container) (f : RingEntry) (g : List (Dbl × Dbl)) (i : List Word) :
    (Dev.closeReduce m b d e f g i).keep = m.keep := by
  intros; unfold Dev.closeReduce; repeat' (first | rfl | (simp; done) | intro _ | rw [foldl_keep] | rw [foldl_fst_keep] | rw [foldl_regs] | rw [when_keep] | rw [when_regs] | rw [Dev.modPart_keep] | rw [Dev.modDie_keep] | rw [Dev.modCom_keep] | (dsimp only) | split | (simp_all; done) | simp)
@[simp] theorem Dev.deliverCloseReduce_keep (m : Dev) (b : Pid) (d : DieId) (e : Container) (f : RingEntry) (g : Frame) :
    (Dev.deliverCloseReduce m b d e f g).keep = m.keep := by simp [Dev.deliverCloseReduce]
@[simp] theorem Dev.deliverCloseGather_keep (m : Dev) (b : Pid) (d : Container) (e : RingEntry) (f : Frame) :
    (Dev.deliverCloseGather m b d e f).keep = m.keep := by simp [Dev.deliverCloseGather]
@[simp] theorem Dev.updateOne_keep (m : Dev) (b : Pid) (d : DieId) (e : Nat) (f : Nat) (g : Nat) :
    (Dev.updateOne m b d e f g).keep = m.keep := by
  unfold Dev.updateOne
  repeat' (first | rfl | (simp; done) | split)
@[simp] theorem Dev.normTotal_keep (m : Dev) (b : Pid) :
    (Dev.normTotal m b).keep = m.keep := by
  unfold Dev.normTotal
  split <;> simp
@[simp] theorem Dev.gradRow_keep (m : Dev) (b : Pid) (d : DieId) (e : Container) (f : StepRun) (g : Nat) (i : Nat) (j : Nat) (k : Nat) (l : List Word) :
    (Dev.gradRow m b d e f g i j k l).keep = m.keep := by
  unfold Dev.gradRow
  split <;> simp
@[simp] theorem Dev.runWOp_keep (m : Dev) (p : Pid) (d : DieId) (a : Container) (r : StepRun) (op : WOp) :
    ∀ n, Dev.runWOp m p d a r op = some n → n.keep = m.keep := by
  intro n h
  unfold Dev.runWOp at h
  dsimp only at h
  repeat' (first | (cases h; done) | split at h)
  all_goals first
    | (cases h; simp; done)
    | (cases h; split <;> simp; done)
    | (simp only [Option.map_eq_some_iff] at h; obtain ⟨y, -, rfl⟩ := h; simp; done)
@[simp] theorem Dev.authentic_keep (m : Dev) (b : DieId) (d : PortId) (e : Frame) :
    (Dev.authentic m b d e).1.keep = m.keep := by
  intros; unfold Dev.authentic; repeat' (first | rfl | (simp; done) | intro _ | rw [foldl_keep] | rw [foldl_fst_keep] | rw [foldl_regs] | rw [when_keep] | rw [when_regs] | rw [Dev.modPart_keep] | rw [Dev.modDie_keep] | rw [Dev.modCom_keep] | (dsimp only) | split | (simp_all; done) | simp)
@[simp] theorem Dev.holdFrame_keep (m : Dev) (b : DieId) (d : PortId) (e : Frame) :
    (Dev.holdFrame m b d e).keep = m.keep := by
  intros; unfold Dev.holdFrame; repeat' (first | rfl | (simp; done) | intro _ | rw [foldl_keep] | rw [foldl_fst_keep] | rw [foldl_regs] | rw [when_keep] | rw [when_regs] | rw [Dev.modPart_keep] | rw [Dev.modDie_keep] | rw [Dev.modCom_keep] | (dsimp only) | split | (simp_all; done) | simp)
@[simp] theorem Dev.leaveBuffer_keep (m : Dev) (b : DieId) (d : PortId) (e : Frame) :
    (Dev.leaveBuffer m b d e).keep = m.keep := by
  intros; unfold Dev.leaveBuffer; repeat' (first | rfl | (simp; done) | intro _ | rw [foldl_keep] | rw [foldl_fst_keep] | rw [foldl_regs] | rw [when_keep] | rw [when_regs] | rw [Dev.modPart_keep] | rw [Dev.modDie_keep] | rw [Dev.modCom_keep] | (dsimp only) | split | (simp_all; done) | simp)
@[simp] theorem Dev.lateFrame_keep (m : Dev) (b : DieId) (d : PortId) (e : Frame) :
    (Dev.lateFrame m b d e).keep = m.keep := by simp [Dev.lateFrame]
@[simp] theorem Dev.applyMark_keep (m : Dev) (b : Pid) (d : DieId) (e : Nat) :
    (Dev.applyMark m b d e).keep = m.keep := by
  unfold Dev.applyMark
  repeat' (first | rfl | (simp; done) | split)
@[simp] theorem Dev.passPoison_keep (m : Dev) (b : Pid) (d : Container) (e : RingEntry) (f : StepRun) (g : Frame) (i : Nat) :
    (Dev.passPoison m b d e f g i).keep = m.keep := by
  unfold Dev.passPoison
  repeat' (first | rfl | (simp; done) | split)
@[simp] theorem Dev.authPoison_keep (m : Dev) (b : Pid) (d : Frame) :
    (Dev.authPoison m b d).keep = m.keep := by
  unfold Dev.authPoison
  repeat' (first | rfl | (simp; done) | split)
@[simp] theorem Dev.receive_keep (m : Dev) (b : DieId) (d : PortId) (e : Frame) (f : StepRun → Dev → Dev) (h : ∀ r m, (f r m).keep = m.keep) :
    (Dev.receive m b d e f).keep = m.keep := by
  intros; unfold Dev.receive; repeat' (first | rfl | (simp; done) | intro _ | rw [foldl_keep] | rw [foldl_fst_keep] | rw [foldl_regs] | rw [when_keep] | rw [when_regs] | rw [Dev.modPart_keep] | rw [Dev.modDie_keep] | rw [Dev.modCom_keep] | (dsimp only) | split | (simp_all; done) | simp)
@[simp] theorem Dev.takeMirror_keep (m : Dev) (b : Pid) (d : DieId) (e : PortId) (f : Bool) (g : Dev → Dev) (h : ∀ m, (g m).keep = m.keep) :
    (Dev.takeMirror m b d e f g).keep = m.keep := by
  intros; unfold Dev.takeMirror; repeat' (first | rfl | (simp; done) | intro _ | rw [foldl_keep] | rw [foldl_fst_keep] | rw [foldl_regs] | rw [when_keep] | rw [when_regs] | rw [Dev.modPart_keep] | rw [Dev.modDie_keep] | rw [Dev.modCom_keep] | (dsimp only) | split | (simp_all; done) | simp)
@[simp] theorem Dev.crossCheck_keep (m : Dev) (b : Pid) (d : DieId) (e : Frame) (f : Frame) :
    (Dev.crossCheck m b d e f).keep = m.keep := by simp [Dev.crossCheck]
@[simp] theorem Dev.select_keep (m : Dev) (b : Pid) (d : DieId) (e : PortId) (f : Container) (g : Bool) (i : Frame) (j : Frame → Dev → Dev) (h : ∀ r m, (j r m).keep = m.keep) :
    (Dev.select m b d e f g i j).keep = m.keep := by
  intros; unfold Dev.select; repeat' (first | rfl | (simp; done) | intro _ | rw [foldl_keep] | rw [foldl_fst_keep] | rw [foldl_regs] | rw [when_keep] | rw [when_regs] | rw [Dev.modPart_keep] | rw [Dev.modDie_keep] | rw [Dev.modCom_keep] | (dsimp only) | split | (simp_all; done) | simp)
@[simp] theorem Dev.mirrorFrame_keep (m : Dev) (b : Pid) (d : Container) (e : StepRun) (f : RingEntry) (g : MirrorEntry) (i : Frame) :
    (Dev.mirrorFrame m b d e f g i).keep = m.keep := by simp [Dev.mirrorFrame]
@[simp] theorem Dev.dataIn_keep (m : Dev) (b : Pid) (d : DieId) (e : PortId) (f : Frame) (g : StepRun) :
    (Dev.dataIn m b d e f g).keep = m.keep := by
  unfold Dev.dataIn
  repeat' (first | rfl | (simp; done) | split)
@[simp] theorem Dev.closeIn_keep (m : Dev) (b : Pid) (d : DieId) (e : PortId) (f : Frame) (g : StepRun) :
    (Dev.closeIn m b d e f g).keep = m.keep := by
  unfold Dev.closeIn
  repeat' (first | rfl | (simp; done) | split)
@[simp] theorem Dev.transferIn_keep (m : Dev) (b : Pid) (d : DieId) (e : PortId) (f : Frame) (g : StepRun) :
    (Dev.transferIn m b d e f g).keep = m.keep := by
  unfold Dev.transferIn
  split <;> simp
@[simp] theorem Dev.extendIn_keep (m : Dev) (b : Pid) (d : DieId) (e : PortId) (f : Frame) :
    (Dev.extendIn m b d e f).keep = m.keep := by simp [Dev.extendIn]
@[simp] theorem Dev.useFrame_keep (m : Dev) (b : Pid) (d : DieId) (e : PortId) (f : Frame) (g : StepRun) :
    (Dev.useFrame m b d e f g).keep = m.keep := by simp [Dev.useFrame]
@[simp] theorem Dev.takeHeld_keep (m : Dev) (b : Pid) (d : Frame → Bool) :
    (Dev.takeHeld m b d).1.keep = m.keep := by
  intros; unfold Dev.takeHeld; repeat' (first | rfl | (simp; done) | intro _ | rw [foldl_keep] | rw [foldl_fst_keep] | rw [foldl_regs] | rw [when_keep] | rw [when_regs] | rw [Dev.modPart_keep] | rw [Dev.modDie_keep] | rw [Dev.modCom_keep] | (dsimp only) | split | (simp_all; done) | simp)
@[simp] theorem Dev.replayHeld_keep (m : Dev) (b : Pid) (d : DieId × PortId × Frame) :
    (Dev.replayHeld m b d).keep = m.keep := by
  intros; unfold Dev.replayHeld; repeat' (first | rfl | (simp; done) | intro _ | rw [foldl_keep] | rw [foldl_fst_keep] | rw [foldl_regs] | rw [when_keep] | rw [when_regs] | rw [Dev.modPart_keep] | rw [Dev.modDie_keep] | rw [Dev.modCom_keep] | (dsimp only) | split | (simp_all; done) | simp)
@[simp] theorem Dev.drainHeld_keep (m : Dev) (b : Pid) (d : Frame → Bool) :
    (Dev.drainHeld m b d).keep = m.keep := by simp [Dev.drainHeld]
@[simp] theorem Dev.drainStep_keep (m : Dev) (b : Pid) :
    (Dev.drainStep m b).keep = m.keep := by simp [Dev.drainStep]
@[simp] theorem Dev.askAgain_keep (m : Dev) (b : Pid) :
    (Dev.askAgain m b).keep = m.keep := by
  unfold Dev.askAgain
  repeat' (first | rfl | (simp; done) | split)
@[simp] theorem Dev.stallEvent_keep (m : Dev) (b : DieId) (d : Nat) (e : Nat) (f : Nat) (g : List Pid) :
    (Dev.stallEvent m b d e f g).keep = m.keep := by simp [Dev.stallEvent]
@[simp] theorem Dev.stallTile_keep (m : Dev) (b : DieId) (d : Nat) :
    (Dev.stallTile m b d).keep = m.keep := by
  intros; unfold Dev.stallTile; repeat' (first | rfl | (simp; done) | intro _ | rw [foldl_keep] | rw [foldl_fst_keep] | rw [foldl_regs] | rw [when_keep] | rw [when_regs] | rw [Dev.modPart_keep] | rw [Dev.modDie_keep] | rw [Dev.modCom_keep] | (dsimp only) | split | (simp_all; done) | simp)
@[simp] theorem Dev.stallRollback_keep (m : Dev) (b : DieId) (d : Nat) (e : Nat) (f : List Pid) :
    (Dev.stallRollback m b d e f).keep = m.keep := by simp [Dev.stallRollback]
@[simp] theorem Dev.fenceBoth_keep (m : Dev) (b : DieId) (d : DieId) :
    (Dev.fenceBoth m b d).keep = m.keep := by simp [Dev.fenceBoth]
@[simp] theorem Dev.waitInput_keep (m : Dev) (b : SetId) (d : Held) (e : StepInput) :
    (Dev.waitInput m b d e).keep = m.keep := by simp [Dev.waitInput]
@[simp] theorem Dev.finishForward_keep (m : Dev) (b : Pid) (d : SetId) (e : Held) (f : Container) (g : StepRun) :
    (Dev.finishForward m b d e f g).keep = m.keep := by simp [Dev.finishForward]
@[simp] theorem Dev.sendDigest_keep (m : Dev) (b : Pid) (d : Container) (e : RingEntry) (f : Dbl) (g : List DigestEntry) :
    (Dev.sendDigest m b d e f g).keep = m.keep := by
  unfold Dev.sendDigest
  split <;> simp
@[simp] theorem Dev.expel_keep (m : Dev) (b : Pid) :
    (Dev.expel m b).keep = m.keep := by
  unfold Dev.expel
  split <;> simp
@[simp] theorem Dev.raiseLeaf_keep (m : Dev) (b : DieId) (d : Nat) (e : LeafId) (f : Ev) (g : Option Nat) :
    (Dev.raiseLeaf m b d e f g).keep = m.keep := by simp [Dev.raiseLeaf]
@[simp] theorem Dev.raiseTile_keep (m : Dev) (b : DieId) (d : Nat) (e : Ev) :
    (Dev.raiseTile m b d e).keep = m.keep := by simp [Dev.raiseTile]
@[simp] theorem Dev.countWr_keep (m : Dev) (b : DieId) (d : Nat) (e : LeafId) (f : Nat) (g : List Nat) (i : Nat) :
    (Dev.countWr m b d e f g i).keep = m.keep := by
  unfold Dev.countWr
  split <;> simp
@[simp] theorem Die.recordDue_keep (x : Die) (b : StoreKind) (d : Nat) (e : Nat) :
    (Die.recordDue x b d e).regs = x.regs := rfl
@[simp] theorem Dev.failCol_keep (m : Dev) (b : DieId) (d : Nat) (e : Nat) :
    (Dev.failCol m b d e).keep = m.keep := by
  intros; unfold Dev.failCol; repeat' (first | rfl | (simp; done) | intro _ | rw [foldl_keep] | rw [foldl_fst_keep] | rw [foldl_regs] | rw [when_keep] | rw [when_regs] | rw [Dev.modPart_keep] | rw [Dev.modDie_keep] | rw [Dev.modCom_keep] | (dsimp only) | split | (simp_all; done) | simp)
@[simp] theorem Die.diagWindow_keep (x : Die) (b : Nat) (d : Bool) :
    (Die.diagWindow x b d).regs = x.regs := by simp [Die.diagWindow]
@[simp] theorem Dev.openWindow_keep (m : Dev) (b : DieId) (d : Nat) (e : WinKind) (f : WindowReads) :
    (Dev.openWindow m b d e f).keep = m.keep := by simp [Dev.openWindow]
@[simp] theorem Dev.verifyFail_keep (m : Dev) (b : DieId) (d : Nat) (e : LeafId) (f : Nat) (g : Bool) (i : Option Nat) :
    (Dev.verifyFail m b d e f g i).keep = m.keep := by simp [Dev.verifyFail]
@[simp] theorem Dev.trainGroup_keep (m : Dev) (b : DieId) (d : Nat) (e : Window) (f : LeafId) (g : Nat) (i : Nat) (j : List VerifyFail) :
    (Dev.trainGroup m b d e f g i j).keep = m.keep := by
  intros; unfold Dev.trainGroup; repeat' (first | rfl | (simp; done) | intro _ | rw [foldl_keep] | rw [foldl_fst_keep] | rw [foldl_regs] | rw [when_keep] | rw [when_regs] | rw [Dev.modPart_keep] | rw [Dev.modDie_keep] | rw [Dev.modCom_keep] | (dsimp only) | split | (simp_all; done) | simp)
@[simp] theorem Dev.trainRemap_keep (m : Dev) (b : DieId) (d : Nat) (e : Window) (f : Remap) (g : Nat) (i : Nat) (j : List VerifyFail) :
    (Dev.trainRemap m b d e f g i j).keep = m.keep := by
  intros; unfold Dev.trainRemap; repeat' (first | rfl | (simp; done) | intro _ | rw [foldl_keep] | rw [foldl_fst_keep] | rw [foldl_regs] | rw [when_keep] | rw [when_regs] | rw [Dev.modPart_keep] | rw [Dev.modDie_keep] | rw [Dev.modCom_keep] | (dsimp only) | split | (simp_all; done) | simp)
@[simp] theorem Dev.trainTouch_keep (m : Dev) (b : DieId) (d : Nat) (e : LeafId) (f : Nat) (g : Nat) (i : List Nat) :
    (Dev.trainTouch m b d e f g i).keep = m.keep := by
  intros; unfold Dev.trainTouch; repeat' (first | rfl | (simp; done) | intro _ | rw [foldl_keep] | rw [foldl_fst_keep] | rw [foldl_regs] | rw [when_keep] | rw [when_regs] | rw [Dev.modPart_keep] | rw [Dev.modDie_keep] | rw [Dev.modCom_keep] | (dsimp only) | split | (simp_all; done) | simp)
@[simp] theorem Dev.trainRow_keep (m : Dev) (b : DieId) (d : Nat) (e : Window) (f : LeafId) (g : Nat) (i : Nat) (j : List VerifyFail) :
    (Dev.trainRow m b d e f g i j).keep = m.keep := by
  intros; unfold Dev.trainRow; repeat' (first | rfl | (simp; done) | intro _ | rw [foldl_keep] | rw [foldl_fst_keep] | rw [foldl_regs] | rw [when_keep] | rw [when_regs] | rw [Dev.modPart_keep] | rw [Dev.modDie_keep] | rw [Dev.modCom_keep] | (dsimp only) | split | (simp_all; done) | simp)
@[simp] theorem Dev.trainSweep_keep (m : Dev) (b : DieId) (d : Nat) (e : LeafId) (f : List VerifyFail) :
    (Dev.trainSweep m b d e f).keep = m.keep := by
  intros; unfold Dev.trainSweep; repeat' (first | rfl | (simp; done) | intro _ | rw [foldl_keep] | rw [foldl_fst_keep] | rw [foldl_regs] | rw [when_keep] | rw [when_regs] | rw [Dev.modPart_keep] | rw [Dev.modDie_keep] | rw [Dev.modCom_keep] | (dsimp only) | split | (simp_all; done) | simp)
@[simp] theorem Dev.recordLeaf_keep (m : Dev) (b : DieId) (d : Nat) (e : Window) (f : LeafId) :
    (Dev.recordLeaf m b d e f).keep = m.keep := by
  intros; unfold Dev.recordLeaf; repeat' (first | rfl | (simp; done) | intro _ | rw [foldl_keep] | rw [foldl_fst_keep] | rw [foldl_regs] | rw [when_keep] | rw [when_regs] | rw [Dev.modPart_keep] | rw [Dev.modDie_keep] | rw [Dev.modCom_keep] | (dsimp only) | split | (simp_all; done) | simp)
@[simp] theorem Dev.raiseRefs_keep (m : Dev) (b : DieId) (d : Nat) (e : Window) :
    (Dev.raiseRefs m b d e).keep = m.keep := by simp [Dev.raiseRefs]
@[simp] theorem Dev.settleRemaps_keep (m : Dev) (b : DieId) (d : Nat) :
    (Dev.settleRemaps m b d).keep = m.keep := by
  intros; unfold Dev.settleRemaps; repeat' (first | rfl | (simp; done) | intro _ | rw [foldl_keep] | rw [foldl_fst_keep] | rw [foldl_regs] | rw [when_keep] | rw [when_regs] | rw [Dev.modPart_keep] | rw [Dev.modDie_keep] | rw [Dev.modCom_keep] | (dsimp only) | split | (simp_all; done) | simp)
@[simp] theorem Die.showTile_keep (x : Die) (b : Nat) :
    (Die.showTile x b).regs = x.regs := rfl
@[simp] theorem Dev.recordRefresh_keep (m : Dev) (b : DieId) (d : Nat) (e : Window) :
    (Dev.recordRefresh m b d e).keep = m.keep := rfl
@[simp] theorem Die.settleService_keep (x : Die) (b : Nat) :
    (Die.settleService x b).regs = x.regs := by simp [Die.settleService]
@[simp] theorem Dev.clearOn_keep (m : Dev) (b : DieId) (d : Nat) :
    (Dev.clearOn m b d).keep = m.keep := by
  intros; unfold Dev.clearOn; repeat' (first | rfl | (simp; done) | intro _ | rw [foldl_keep] | rw [foldl_fst_keep] | rw [foldl_regs] | rw [when_keep] | rw [when_regs] | rw [Dev.modPart_keep] | rw [Dev.modDie_keep] | rw [Dev.modCom_keep] | (dsimp only) | split | (simp_all; done) | simp)
@[simp] theorem Dev.clearLayerSel_keep (m : Dev) (b : DieId) (d : RegDef) (e : Nat) (f : Pid → Nat → Nat → CntKey) :
    (Dev.clearLayerSel m b d e f).keep = m.keep := by
  intros; unfold Dev.clearLayerSel; repeat' (first | rfl | (simp; done) | intro _ | rw [foldl_keep] | rw [foldl_fst_keep] | rw [foldl_regs] | rw [when_keep] | rw [when_regs] | rw [Dev.modPart_keep] | rw [Dev.modDie_keep] | rw [Dev.modCom_keep] | (dsimp only) | split | (simp_all; done) | simp)
@[simp] theorem Dev.storeCopy_keep (m : Dev) (b : DieId) (d : StoreKind) (e : Nat) (f : LeafId) (g : Bool) :
    (Dev.storeCopy m b d e f g).keep = m.keep := by simp [Dev.storeCopy]
@[simp] theorem Dev.eraseCopy_keep (m : Dev) (b : DieId) (d : StoreKind) (e : Nat) (f : LeafId) (g : Bool) :
    (Dev.eraseCopy m b d e f g).keep = m.keep := rfl
@[simp] theorem Dev.storeRecord_keep (m : Dev) (b : DieId) (d : StoreKind) (e : Nat) (f : LeafId) :
    (Dev.storeRecord m b d e f).keep = m.keep := by simp [Dev.storeRecord]
@[simp] theorem Dev.warnLeaf_keep (m : Dev) (b : Pid) (d : Container) (e : DieId × Nat × LeafId) :
    (Dev.warnLeaf m b d e).keep = m.keep := by
  intros; unfold Dev.warnLeaf; repeat' (first | rfl | (simp; done) | intro _ | rw [foldl_keep] | rw [foldl_fst_keep] | rw [foldl_regs] | rw [when_keep] | rw [when_regs] | rw [Dev.modPart_keep] | rw [Dev.modDie_keep] | rw [Dev.modCom_keep] | (dsimp only) | split | (simp_all; done) | simp)
@[simp] theorem Dev.commitTile_keep (m : Dev) (b : Pid) (d : Container) (e : Tab Word) (f : DieId) (g : Nat) :
    (Dev.commitTile m b d e f g).1.keep = m.keep := by
  intros; unfold Dev.commitTile; repeat' (first | rfl | (simp; done) | intro _ | rw [foldl_keep] | rw [foldl_fst_keep] | rw [foldl_regs] | rw [when_keep] | rw [when_regs] | rw [Dev.modPart_keep] | rw [Dev.modDie_keep] | rw [Dev.modCom_keep] | (dsimp only) | split | (simp_all; done) | simp)
@[simp] theorem Dev.commitDie_keep (m : Dev) (b : Pid) (d : Container) (e : Tab Word) (f : DieId) :
    (Dev.commitDie m b d e f).keep = m.keep := by simp [Dev.commitDie]
@[simp] theorem Dev.countFallback_keep (m : Dev) (b : Pid) (d : StepRun) :
    (Dev.countFallback m b d).keep = m.keep := by simp [Dev.countFallback]
@[simp] theorem Die.takeReadings_keep (x : Die) (b : List Int) :
    (Die.takeReadings x b).regs = x.regs := rfl
@[simp] theorem Die.noteCold_keep (x : Die) :
    (Die.noteCold x).regs = x.regs := rfl
@[simp] theorem Die.feel_keep (x : Die) :
    (Die.feel x).regs = x.regs := by
  intros; unfold Die.feel; repeat' (first | rfl | (simp; done) | intro _ | rw [foldl_keep] | rw [foldl_fst_keep] | rw [foldl_regs] | rw [when_keep] | rw [when_regs] | rw [Dev.modPart_keep] | rw [Dev.modDie_keep] | rw [Dev.modCom_keep] | (dsimp only) | split | (simp_all; done) | simp)
@[simp] theorem Dev.overtemp_keep (m : Dev) (b : DieId) :
    (Dev.overtemp m b).keep = m.keep := by simp [Dev.overtemp]
@[simp] theorem Dev.feelTemps_keep (m : Dev) (b : DieId) :
    (Dev.feelTemps m b).keep = m.keep := by simp [Dev.feelTemps]
@[simp] theorem Dev.takeRound_keep (m : Dev) (b : DieId) (d : List Int) :
    (Dev.takeRound m b d).keep = m.keep := by
  intros; unfold Dev.takeRound; repeat' (first | rfl | (simp; done) | intro _ | rw [foldl_keep] | rw [foldl_fst_keep] | rw [foldl_regs] | rw [when_keep] | rw [when_regs] | rw [Dev.modPart_keep] | rw [Dev.modDie_keep] | rw [Dev.modCom_keep] | (dsimp only) | split | (simp_all; done) | simp)
@[simp] theorem Dev.compareRefs_keep (m : Dev) (b : DieId) (d : Nat) (e : Nat) (f : Nat) :
    (Dev.compareRefs m b d e f).keep = m.keep := by simp [Dev.compareRefs]
@[simp] theorem Dev.raisePort_keep (m : Dev) (b : DieId) (d : PortId) (e : Nat) (f : Nat) :
    (Dev.raisePort m b d e f).keep = m.keep := by simp [Dev.raisePort]
@[simp] theorem Dev.resendFrames_keep (m : Dev) (b : Pid) (d : List Frame) :
    (Dev.resendFrames m b d).keep = m.keep := by
  intros; unfold Dev.resendFrames; repeat' (first | rfl | (simp; done) | intro _ | rw [foldl_keep] | rw [foldl_fst_keep] | rw [foldl_regs] | rw [when_keep] | rw [when_regs] | rw [Dev.modPart_keep] | rw [Dev.modDie_keep] | rw [Dev.modCom_keep] | (dsimp only) | split | (simp_all; done) | simp)
@[simp] theorem Dev.portDown_keep (m : Dev) (b : DieId) (d : PortId) :
    (Dev.portDown m b d).keep = m.keep := by
  intros; unfold Dev.portDown; repeat' (first | rfl | (simp; done) | intro _ | rw [foldl_keep] | rw [foldl_fst_keep] | rw [foldl_regs] | rw [when_keep] | rw [when_regs] | rw [Dev.modPart_keep] | rw [Dev.modDie_keep] | rw [Dev.modCom_keep] | (dsimp only) | split | (simp_all; done) | simp)
@[simp] theorem Dev.laneFailed_keep (m : Dev) (b : DieId) (d : PortId) (e : Nat) :
    (Dev.laneFailed m b d e).keep = m.keep := by
  intros; unfold Dev.laneFailed; repeat' (first | rfl | (simp; done) | intro _ | rw [foldl_keep] | rw [foldl_fst_keep] | rw [foldl_regs] | rw [when_keep] | rw [when_regs] | rw [Dev.modPart_keep] | rw [Dev.modDie_keep] | rw [Dev.modCom_keep] | (dsimp only) | split | (simp_all; done) | simp)
@[simp] theorem Dev.sendAck_keep (m : Dev) (b : DieId) (d : PortId) :
    (Dev.sendAck m b d).keep = m.keep := by
  intros; unfold Dev.sendAck; repeat' (first | rfl | (simp; done) | intro _ | rw [foldl_keep] | rw [foldl_fst_keep] | rw [foldl_regs] | rw [when_keep] | rw [when_regs] | rw [Dev.modPart_keep] | rw [Dev.modDie_keep] | rw [Dev.modCom_keep] | (dsimp only) | split | (simp_all; done) | simp)
@[simp] theorem Dev.frameIn_keep (m : Dev) (b : DieId) (d : PortId) (e : Nat) (f : Frame) :
    (Dev.frameIn m b d e f).keep = m.keep := by simp [Dev.frameIn]
@[simp] theorem Dev.controlIn_keep (m : Dev) (b : DieId) (d : PortId) (e : Frame) (f : Dev → Dev) (h : ∀ m, (f m).keep = m.keep) :
    (Dev.controlIn m b d e f).keep = m.keep := by
  unfold Dev.controlIn
  split <;> simp_all
@[simp] theorem Dev.takeCopies_keep (m : Dev) (b : Pid) (d : DieId) (e : PortId) (f : Container) (g : List Frame) :
    (Dev.takeCopies m b d e f g).keep = m.keep := by
  intros; unfold Dev.takeCopies; repeat' (first | rfl | (simp; done) | intro _ | rw [foldl_keep] | rw [foldl_fst_keep] | rw [foldl_regs] | rw [when_keep] | rw [when_regs] | rw [Dev.modPart_keep] | rw [Dev.modDie_keep] | rw [Dev.modCom_keep] | (dsimp only) | split | (simp_all; done) | simp)
@[simp] theorem Dev.clearKey_keep (m : Dev) (b : DieId) (d : Bool) (e : CntKey) :
    (Dev.clearKey m b d e).keep = m.keep := by
  intros; unfold Dev.clearKey; repeat' (first | rfl | (simp; done) | intro _ | rw [foldl_keep] | rw [foldl_fst_keep] | rw [foldl_regs] | rw [when_keep] | rw [when_regs] | rw [Dev.modPart_keep] | rw [Dev.modDie_keep] | rw [Dev.modCom_keep] | (dsimp only) | split | (simp_all; done) | simp)
@[simp] theorem Dev.correctedError_keep (m : Dev) (b : DieId) (d : Nat) :
    (Dev.correctedError m b d).keep = m.keep := by
  intros; unfold Dev.correctedError; repeat' (first | rfl | (simp; done) | intro _ | rw [foldl_keep] | rw [foldl_fst_keep] | rw [foldl_regs] | rw [when_keep] | rw [when_regs] | rw [Dev.modPart_keep] | rw [Dev.modDie_keep] | rw [Dev.modCom_keep] | (dsimp only) | split | (simp_all; done) | simp)
@[simp] theorem Die.wearLineLost_keep (x : Die) (b : Nat) :
    (Die.wearLineLost x b).regs = x.regs := by
  intros; unfold Die.wearLineLost; repeat' (first | rfl | (simp; done) | intro _ | rw [foldl_keep] | rw [foldl_fst_keep] | rw [foldl_regs] | rw [when_keep] | rw [when_regs] | rw [Dev.modPart_keep] | rw [Dev.modDie_keep] | rw [Dev.modCom_keep] | (dsimp only) | split | (simp_all; done) | simp)
@[simp] theorem Die.latchUe_keep (x : Die) (b : BitVec 37) (d : Bool) :
    (Die.latchUe x b d).regs = x.regs := rfl
@[simp] theorem Dev.ueRepaired_keep (m : Dev) (b : DieId) (d : Event) :
    (Dev.ueRepaired m b d).keep = m.keep := by simp [Dev.ueRepaired]
@[simp] theorem Dev.ueFault_keep (m : Dev) (b : Pid) (d : DieId) (e : BitVec 37) (f : Event) :
    (Dev.ueFault m b d e f).keep = m.keep := by
  intros; unfold Dev.ueFault; repeat' (first | rfl | (simp; done) | intro _ | rw [foldl_keep] | rw [foldl_fst_keep] | rw [foldl_regs] | rw [when_keep] | rw [when_regs] | rw [Dev.modPart_keep] | rw [Dev.modDie_keep] | rw [Dev.modCom_keep] | (dsimp only) | split | (simp_all; done) | simp)
@[simp] theorem Dev.uncorrectable_keep (m : Dev) (b : DieId) (d : Pid) (e : UeRegion) (f : BitVec 37) (g : Bool) :
    (Dev.uncorrectable m b d e f g).keep = m.keep := by
  intros; unfold Dev.uncorrectable; repeat' (first | rfl | (simp; done) | intro _ | rw [foldl_keep] | rw [foldl_fst_keep] | rw [foldl_regs] | rw [when_keep] | rw [when_regs] | rw [Dev.modPart_keep] | rw [Dev.modDie_keep] | rw [Dev.modCom_keep] | (dsimp only) | split | (simp_all; done) | simp)
@[simp] theorem Die.stackTemp_keep (x : Die) (b : Int) (d : Bool) :
    (Die.stackTemp x b d).regs = x.regs := rfl
@[simp] theorem Dev.retirePage_keep (m : Dev) (b : DieId) (d : BitVec 21) :
    (Dev.retirePage m b d).keep = m.keep := by simp [Dev.retirePage]
@[simp] theorem Dev.retireGo_keep (m : Dev) (b : DieId) :
    (Dev.retireGo m b).keep = m.keep := by simp [Dev.retireGo]
@[simp] theorem Dev.retireClear_keep (m : Dev) (b : DieId) :
    (Dev.retireClear m b).keep = m.keep := by simp [Dev.retireClear]
@[simp] theorem Dev.retireCtrl_keep (m : Dev) (b : DieId) (d : Word) :
    (Dev.retireCtrl m b d).keep = m.keep := by simp [Dev.retireCtrl]
@[simp] theorem Die.takeOut_keep (x : Die) (b : TestClass) (d : Nat) (e : List Nat × Nat) :
    (Die.takeOut x b d e).regs = x.regs := by
  unfold Die.takeOut
  split <;> simp
@[simp] theorem Die.putBack_keep (x : Die) (b : TestClass) (d : Nat) :
    (Die.putBack x b d).regs = x.regs := by
  unfold Die.putBack
  split <;> simp
@[simp] theorem Dev.raiseTest_keep (m : Dev) (b : DieId) (d : TestClass) (e : Nat) (f : BitVec 16) (g : BitVec 4) :
    (Dev.raiseTest m b d e f g).keep = m.keep := by simp [Dev.raiseTest]
@[simp] theorem Die.visited_keep (x : Die) (b : TestClass) (d : Nat) (e : Bool) :
    (Die.visited x b d e).regs = x.regs := by
  unfold Die.visited
  repeat' (first | rfl | (simp; done) | split)
@[simp] theorem Die.slicePassed_keep (x : Die) (b : TestClass) (d : Nat) :
    (Die.slicePassed x b d).regs = x.regs := by simp [Die.slicePassed]
@[simp] theorem Die.sliceFailed_keep (x : Die) (b : TestClass) (d : Nat) :
    (Die.sliceFailed x b d).regs = x.regs := by simp [Die.sliceFailed]
@[simp] theorem Dev.logIn_keep (m : Dev) (e : Event) : (Dev.logIn m e).keep = m.keep := by
  unfold Dev.logIn Dev.keep; rfl
@[simp] theorem Dev.tell_keep (m : Dev) (b : Event) :
    (Dev.tell m b).keep = m.keep := by
  intros; unfold Dev.tell; repeat' (first | rfl | (simp; done) | intro _ | rw [foldl_keep] | rw [foldl_fst_keep] | rw [foldl_regs] | rw [when_keep] | rw [when_regs] | rw [Dev.modPart_keep] | rw [Dev.modDie_keep] | rw [Dev.modCom_keep] | (dsimp only) | split | (simp_all; done) | simp)
@[simp] theorem Dev.flushLog_keep (m : Dev) :
    (Dev.flushLog m).keep = m.keep := by simp [Dev.flushLog]
@[simp] theorem Dev.replaceLeaf_keep (m : Dev) (b : Pid) (d : DieId) (e : Nat) (f : LeafId) :
    (Dev.replaceLeaf m b d e f).keep = m.keep := by
  intros; unfold Dev.replaceLeaf; repeat' (first | rfl | (simp; done) | intro _ | rw [foldl_keep] | rw [foldl_fst_keep] | rw [foldl_regs] | rw [when_keep] | rw [when_regs] | rw [Dev.modPart_keep] | rw [Dev.modDie_keep] | rw [Dev.modCom_keep] | (dsimp only) | split | (simp_all; done) | simp)
@[simp] theorem Dev.setTest_keep (m : Dev) (b : Pid) (d : Bool) :
    (Dev.setTest m b d).keep = m.keep := rfl
@[simp] theorem Dev.recordPair_keep (m : Dev) (b : Resource) (d : Option Pid) :
    (Dev.recordPair m b d).keep = m.keep := rfl
@[simp] theorem Dev.refuseBind_keep (m : Dev) (b : Source) (d : Resource) (e : Nat) :
    (Dev.refuseBind m b d e).keep = m.keep := by simp [Dev.refuseBind]
@[simp] theorem Dev.electFirst_keep (m : Dev) :
    (Dev.electFirst m).keep = m.keep := by simp [Dev.electFirst]
@[simp] theorem Dev.partialReset_keep (m : Dev) (b : DieId) :
    (Dev.partialReset m b).keep = m.keep := by simp [Dev.partialReset]
@[simp] theorem Dev.rampCores_keep (m : Dev) :
    (Dev.rampCores m).keep = m.keep := by simp [Dev.rampCores]
@[simp] theorem Dev.refusePower_keep (m : Dev) (b : Option Source) (d : Nat) (e : Nat) (f : Byte) :
    (Dev.refusePower m b d e f).keep = m.keep := by simp [Dev.refusePower]
@[simp] theorem Dev.handshake_keep (m : Dev) (b : Option Source) (d : Nat) (e : List Nat) :
    (Dev.handshake m b d e).keep = m.keep := by
  unfold Dev.handshake
  split <;> simp
@[simp] theorem Dev.enterVigil_keep (m : Dev) (b : Bool) :
    (Dev.enterVigil m b).keep = m.keep := by simp [Dev.enterVigil]
@[simp] theorem Dev.setTarget_keep (m : Dev) (b : Source) (d : Nat) :
    (Dev.setTarget m b d).keep = m.keep := rfl
@[simp] theorem Dev.setPowerResult_keep (m : Dev) (b : Option Source) (d : Nat) :
    (Dev.setPowerResult m b d).keep = m.keep := rfl
@[simp] theorem Dev.startExit_keep (m : Dev) (b : Option Source) :
    (Dev.startExit m b).keep = m.keep := rfl
@[simp] theorem Dev.requestRun_keep (m : Dev) (b : Source) :
    (Dev.requestRun m b).keep = m.keep := by
  unfold Dev.requestRun
  split <;> simp
@[simp] theorem Dev.requestDown_keep (m : Dev) (b : Source) (d : Nat) :
    (Dev.requestDown m b d).keep = m.keep := by simp [Dev.requestDown]
@[simp] theorem Dev.powerGo_keep (m : Dev) (b : Source) (d : Nat) :
    (Dev.powerGo m b d).keep = m.keep := by simp [Dev.powerGo]
@[simp] theorem Dev.writeStore_keep (m : Dev) (b : DieId) :
    (Dev.writeStore m b).keep = m.keep := by simp [Dev.writeStore]
@[simp] theorem Die.sleepDeep_keep (m : BitVec 256) (b : Die) :
    (Die.sleepDeep m b).regs = b.regs := by simp [Die.sleepDeep]
@[simp] theorem Dev.enterRepose_keep (m : Dev) :
    (Dev.enterRepose m).keep = m.keep := by simp [Dev.enterRepose]
@[simp] theorem Dev.ranOutLeaves_keep (m : Dev) (b : DieId) :
    (Dev.ranOutLeaves m b).keep = m.keep := by simp [Dev.ranOutLeaves]
@[simp] theorem Dev.boot_keep (m : Dev) :
    (Dev.boot m).keep = m.keep := by simp [Dev.boot]
@[simp] theorem Dev.beforeReset_keep (m : Dev) :
    (Dev.beforeReset m).keep = m.keep := by simp [Dev.beforeReset]
@[simp] theorem Die.vigilFeel_keep (x : Die) (b : Nat) :
    (Die.vigilFeel x b).regs = x.regs := by
  intros; unfold Die.vigilFeel; repeat' (first | rfl | (simp; done) | intro _ | rw [foldl_keep] | rw [foldl_fst_keep] | rw [foldl_regs] | rw [when_keep] | rw [when_regs] | rw [Dev.modPart_keep] | rw [Dev.modDie_keep] | rw [Dev.modCom_keep] | (dsimp only) | split | (simp_all; done) | simp)
@[simp] theorem Dev.plWrite_keep (m : Dev) (b : Word) :
    (Dev.plWrite m b).keep = m.keep := by simp [Dev.plWrite]
@[simp] theorem Dev.failDie_keep (m : Dev) (b : DieId) :
    (Dev.failDie m b).keep = m.keep := by simp [Dev.failDie]
@[simp] theorem Dev.toTests_keep (m : Dev) :
    (Dev.toTests m).keep = m.keep := by simp [Dev.toTests]
@[simp] theorem Dev.discardCopies_keep (m : Dev) (b : List FlashError) (d : DieId) (e : StoreKind) (f : Nat) (g : LeafId) :
    (Dev.discardCopies m b d e f g).keep = m.keep := by
  intros; unfold Dev.discardCopies; repeat' (first | rfl | (simp; done) | intro _ | rw [foldl_keep] | rw [foldl_fst_keep] | rw [foldl_regs] | rw [when_keep] | rw [when_regs] | rw [Dev.modPart_keep] | rw [Dev.modDie_keep] | rw [Dev.modCom_keep] | (dsimp only) | split | (simp_all; done) | simp)
@[simp] theorem Dev.trimVref_keep (m : Dev) (b : DieId) (d : RailsFound) :
    (Dev.trimVref m b d).keep = m.keep := by
  unfold Dev.trimVref
  repeat' (first | rfl | (simp; done) | split)
@[simp] theorem Dev.classify_keep (m : Dev) (b : DieId) (d : Bool) :
    (Dev.classify m b d).keep = m.keep := by
  intros; unfold Dev.classify; repeat' (first | rfl | (simp; done) | intro _ | rw [foldl_keep] | rw [foldl_fst_keep] | rw [foldl_regs] | rw [when_keep] | rw [when_regs] | rw [Dev.modPart_keep] | rw [Dev.modDie_keep] | rw [Dev.modCom_keep] | (dsimp only) | split | (simp_all; done) | simp)
@[simp] theorem Dev.setWear_keep (m : Dev) (b : DieId) (d : Nat) (e : List (Nat × Nat)) :
    (Dev.setWear m b d e).keep = m.keep := by
  intros; unfold Dev.setWear; repeat' (first | rfl | (simp; done) | intro _ | rw [foldl_keep] | rw [foldl_fst_keep] | rw [foldl_regs] | rw [when_keep] | rw [when_regs] | rw [Dev.modPart_keep] | rw [Dev.modDie_keep] | rw [Dev.modCom_keep] | (dsimp only) | split | (simp_all; done) | simp)
@[simp] theorem Dev.recalTrack_keep (m : Dev) (b : DieId) (d : Nat) (e : LeafId) :
    (Dev.recalTrack m b d e).keep = m.keep := by
  intros; unfold Dev.recalTrack; repeat' (first | rfl | (simp; done) | intro _ | rw [foldl_keep] | rw [foldl_fst_keep] | rw [foldl_regs] | rw [when_keep] | rw [when_regs] | rw [Dev.modPart_keep] | rw [Dev.modDie_keep] | rw [Dev.modCom_keep] | (dsimp only) | split | (simp_all; done) | simp)
@[simp] theorem Dev.restoreWear_keep (m : Dev) (b : DieId) :
    (Dev.restoreWear m b).keep = m.keep := by
  intros; unfold Dev.restoreWear; repeat' (first | rfl | (simp; done) | intro _ | rw [foldl_keep] | rw [foldl_fst_keep] | rw [foldl_regs] | rw [when_keep] | rw [when_regs] | rw [Dev.modPart_keep] | rw [Dev.modDie_keep] | rw [Dev.modCom_keep] | (dsimp only) | split | (simp_all; done) | simp)
@[simp] theorem Dev.latch_keep (m : Dev) (b : Nat) :
    (Dev.latch m b).keep = m.keep := by
  unfold Dev.latch
  repeat' (first | rfl | (simp; done) | split)
@[simp] theorem Dev.readReg_keep (m : Dev) (b : Source) (d : Nat) (e : Word → Out) :
    (Dev.readReg m b d e).keep = m.keep := by simp [Dev.readReg]
@[simp] theorem Dev.stallWrite_keep (m : Dev) (b : DieId) (d : Word) :
    (Dev.stallWrite m b d).keep = m.keep := by simp [Dev.stallWrite]
@[simp] theorem Dev.writeBase_keep (m : Dev) (b : Nat) (d : Word) (e : Word) :
    (Dev.writeBase m b d e).keep = m.keep := rfl
@[simp] theorem Dev.writeBindReq_keep (m : Dev) (b : Source) (d : Word) :
    (Dev.writeBindReq m b d).keep = m.keep := rfl
@[simp] theorem Dev.writePwrCtrl_keep (m : Dev) (b : Source) (d : Word) :
    (Dev.writePwrCtrl m b d).keep = m.keep := by simp [Dev.writePwrCtrl]
@[simp] theorem Dev.hostRead_keep (m : Dev) (b : Nat) :
    (Dev.hostRead m b).keep = m.keep := by simp [Dev.hostRead]
@[simp] theorem Dev.spdm_keep (m : Dev) (b : SpdmPath) (d : Instr) (e : Dev → Dev) (h : ∀ m, (e m).keep = m.keep) :
    (Dev.spdm m b d e).keep = m.keep := by
  intros; unfold Dev.spdm; repeat' (first | rfl | (simp; done) | intro _ | rw [foldl_keep] | rw [foldl_fst_keep] | rw [foldl_regs] | rw [when_keep] | rw [when_regs] | rw [Dev.modPart_keep] | rw [Dev.modDie_keep] | rw [Dev.modCom_keep] | (dsimp only) | split | (simp_all; done) | simp)
@[simp] theorem Dev.signed_keep (m : Dev) :
    (Dev.signed m).keep = m.keep := rfl
@[simp] theorem Dev.answerVersion_keep (m : Dev) :
    (Dev.answerVersion m).keep = m.keep := rfl
@[simp] theorem Dev.answerCapabilities_keep (m : Dev) :
    (Dev.answerCapabilities m).keep = m.keep := rfl
@[simp] theorem Dev.answerAlgorithms_keep (m : Dev) (b : SpdmPath) (d : Bool) :
    (Dev.answerAlgorithms m b d).keep = m.keep := by simp [Dev.answerAlgorithms]
@[simp] theorem Dev.answerDigests_keep (m : Dev) :
    (Dev.answerDigests m).keep = m.keep := rfl
@[simp] theorem Dev.answerCertificate_keep (m : Dev) (b : Nat) (d : Nat) (e : Nat) :
    (Dev.answerCertificate m b d e).keep = m.keep := by simp [Dev.answerCertificate]
@[simp] theorem Dev.answerChallenge_keep (m : Dev) (b : BitVec 256) :
    (Dev.answerChallenge m b).keep = m.keep := rfl
@[simp] theorem Dev.answerMeasurements_keep (m : Dev) (b : Nat) :
    (Dev.answerMeasurements m b).keep = m.keep := by simp [Dev.answerMeasurements]
@[simp] theorem Dev.answerKeyExchange_keep (m : Dev) (b : SpdmPath) :
    (Dev.answerKeyExchange m b).keep = m.keep := by simp [Dev.answerKeyExchange]
@[simp] theorem Dev.modSession_keep (m : Dev) (b : Nat) (d : Session → Session) :
    (Dev.modSession m b d).keep = m.keep := rfl
@[simp] theorem Dev.dropSession_keep (m : Dev) (b : Nat) :
    (Dev.dropSession m b).keep = m.keep := rfl
@[simp] theorem Dev.answerFinish_keep (m : Dev) (b : SpdmPath) (d : Nat) (e : Bool) :
    (Dev.answerFinish m b d e).keep = m.keep := by
  unfold Dev.answerFinish
  split <;> simp
@[simp] theorem Dev.inSession_keep (m : Dev) (b : SpdmPath) (d : Nat) (e : Dev → Dev) (h : ∀ m, (e m).keep = m.keep) :
    (Dev.inSession m b d e).keep = m.keep := by
  unfold Dev.inSession
  split <;> simp_all
@[simp] theorem Dev.answerChunk_keep (m : Dev) (b : Nat) (d : Nat) :
    (Dev.answerChunk m b d).keep = m.keep := by simp [Dev.answerChunk]
@[simp] theorem Dev.answerSlh_keep (m : Dev) :
    (Dev.answerSlh m).keep = m.keep := by
  unfold Dev.answerSlh
  split <;> simp
@[simp] theorem Dev.reply_keep (m : Dev) (b : Nat) (d : Nat) (e : Word) :
    (Dev.reply m b d e).keep = m.keep := rfl
@[simp] theorem Dev.objectRefused_keep (m : Dev) :
    (Dev.objectRefused m).keep = m.keep := by simp [Dev.objectRefused]
@[simp] theorem Dev.loadIr_keep (m : Dev) (b : JtagIr) :
    (Dev.loadIr m b).keep = m.keep := rfl
@[simp] theorem Dev.complianceIr_keep (m : Dev) (b : JtagIr) :
    (Dev.complianceIr m b).keep = m.keep := by simp [Dev.complianceIr]
@[simp] theorem Dev.jtag_keep (m : Dev) (b : Dev → Dev) (h : ∀ m, (b m).keep = m.keep) :
    (Dev.jtag m b).keep = m.keep := by
  unfold Dev.jtag
  split <;> simp_all

end Sys2Proof.Machine
end

