-- ==== Sys2Proof/Laws/Store.lean ====
section
/-! SUPPORT. A calibration store record reads back as it was written (R201, R203). -/

namespace Sys2Proof.Machine

theorem ofLe_leBytes {w : Nat} (v : BitVec w) (n : Nat) : ofLe (leBytes v n) = v.toNat % 256 ^ n := by
  induction n generalizing v with
  | zero => simp [leBytes, ofLe, Nat.mod_one]
  | succ n ih =>
    have h : v.toNat % 256 ^ (n + 1) = v.toNat % 256 + 256 * (v.toNat / 256 % 256 ^ n) := by
      rw [Nat.pow_succ, Nat.mul_comm, Nat.mod_mul]
    simp [leBytes, ofLe, ih, h, Nat.shiftRight_eq_div_pow]

theorem ofLe_leNat (v n : Nat) (h : v < 256 ^ n) : ofLe (leNat v n) = v := by
  have e : (2 : Nat) ^ (8 * n) = 256 ^ n := by rw [Nat.pow_mul]
  rw [leNat, ofLe_leBytes, BitVec.toNat_ofNat, e, Nat.mod_mod, Nat.mod_eq_of_lt h]

/-- A value that fills its bytes reads back. -/
theorem ofLe_leBytes_full {w : Nat} (v : BitVec w) (n : Nat) (h : w = 8 * n) : ofLe (leBytes v n) = v.toNat := by
  subst h
  have e : (2 : Nat) ^ (8 * n) = 256 ^ n := by rw [Nat.pow_mul]
  rw [ofLe_leBytes, ← e]
  exact Nat.mod_eq_of_lt v.isLt

theorem leAt_mid (a b c : List Byte) (off n : Nat) (ha : a.length = off) (hb : b.length = n) : leAt (a ++ (b ++ c)) off n = ofLe b := by
  subst ha hb; simp [leAt]

theorem leNat_length (v n : Nat) : (leNat v n).length = n := leBytes_length _ n
theorem idtagBytes_length (i : Dbl) : (idtagBytes i).length = 8 := by simp [idtagBytes, leBytes_length]

theorem headBytes_length (idtag : Dbl) (d : DieId) (k : StoreKind) (t l : Nat) (r : StoreRec) : (headBytes idtag d k t l r).length = 28 := by
  simp [headBytes, leNat_length, leBytes_length, idtagBytes_length]

/-- The record that a copy's bytes give, where its payload reads: the header's fields as written. -/
theorem readRecord_recordBytes (idtag : Dbl) (d : DieId) (k : StoreKind) (t l : Nat) (r : StoreRec) (ht : t < 65535) (hl : l < 4)
    (hp : (payloadBytes' r.payload).length = payloadLen k) :
    readRecord idtag d k t l (recordBytes idtag d k t l r) = (readPayload k (payloadBytes' r.payload)).map (fun v =>
      { seq := r.seq, frozen := r.frozen, second := r.second, temp := (BitVec.ofInt 16 r.temp).toInt, payload := v }) := by
  generalize hpb : payloadBytes' r.payload = p at hp ⊢
  generalize hc : crc32c (headBytes idtag d k t l r ++ p) = c
  have hd := d.isLt
  have e : recordBytes idtag d k t l r = headBytes idtag d k t l r ++ (leBytes c 4 ++ p) := by
    simp only [recordBytes, hpb, hc, List.append_assoc]
  have hh := headBytes_length idtag d k t l r
  generalize hb : recordBytes idtag d k t l r = bs at e ⊢
  have e2 : bs = [BitVec.ofNat 8 (storeCode k)] ++ ([0x01#8] ++ ([BitVec.ofNat 8 d.val] ++ ([if byLeaf k then BitVec.ofNat 8 l else 0xFF#8]
      ++ (leNat (if k = .die then 0xFFFF else t) 2 ++ (leNat (entriesIn k) 2 ++ (leBytes r.seq 8 ++ (leNat (fieldOf 16 r.temp) 2
      ++ (leNat (r.frozen.toNat + 2 * r.second.toNat) 2 ++ (idtagBytes idtag ++ (leBytes c 4 ++ p)))))))))) := by
    simp only [e, headBytes, List.append_assoc, List.cons_append, List.nil_append]
  have take28 : bs.take 28 = headBytes idtag d k t l r := by rw [e, ← hh]; simp
  have drop32 : bs.drop 32 = p := by
    rw [e, List.drop_append, List.drop_append, hh, leBytes_length, List.drop_of_length_le (by omega), List.drop_of_length_le (by simp [leBytes_length])]
    rfl
  have len : bs.length = 32 + payloadLen k := by rw [e]; simp [hh, leBytes_length, hp]; omega
  have a28 : leAt bs 28 4 = c.toNat := by
    rw [e, leAt_mid _ _ _ _ _ hh (leBytes_length _ _), ofLe_leBytes_full c 4 rfl]
  have a0 : leAt bs 0 1 = storeCode k := by
    rw [e2]; cases k <;> rfl
  have a1 : leAt bs 1 1 = 1 := by rw [e2]; simp [leAt, ofLe]
  have a2 : leAt bs 2 1 = d.val := by rw [e2]; simp [leAt, ofLe]; omega
  have a3 : leAt bs 3 1 = if byLeaf k then l else 0xFF := by rw [e2]; cases k <;> simp [leAt, ofLe, byLeaf] <;> omega
  have a4 : leAt bs 4 2 = if k = .die then 0xFFFF else t := by
    rw [e2, ← List.append_assoc, ← List.append_assoc, ← List.append_assoc, leAt_mid _ _ _ _ _ (by simp) (leNat_length _ _), ofLe_leNat]
    split <;> omega
  have a6 : leAt bs 6 2 = entriesIn k := by
    rw [e2, ← List.append_assoc, ← List.append_assoc, ← List.append_assoc, ← List.append_assoc, leAt_mid _ _ _ _ _ (by simp [leNat_length]) (leNat_length _ _),
      ofLe_leNat]
    cases k <;> decide
  have a8 : leAt bs 8 8 = r.seq.toNat := by
    rw [e2, ← List.append_assoc, ← List.append_assoc, ← List.append_assoc, ← List.append_assoc, ← List.append_assoc,
      leAt_mid _ _ _ _ _ (by simp [leNat_length]) (leBytes_length _ _), ofLe_leBytes_full r.seq 8 rfl]
  have a16 : leAt bs 16 2 = fieldOf 16 r.temp := by
    rw [e2, ← List.append_assoc, ← List.append_assoc, ← List.append_assoc, ← List.append_assoc, ← List.append_assoc, ← List.append_assoc,
      leAt_mid _ _ _ _ _ (by simp [leNat_length, leBytes_length]) (leNat_length _ _), ofLe_leNat]
    exact (BitVec.ofInt 16 r.temp).isLt
  have a18 : leAt bs 18 2 = r.frozen.toNat + 2 * r.second.toNat := by
    rw [e2, ← List.append_assoc, ← List.append_assoc, ← List.append_assoc, ← List.append_assoc, ← List.append_assoc, ← List.append_assoc, ← List.append_assoc,
      leAt_mid _ _ _ _ _ (by simp [leNat_length, leBytes_length]) (leNat_length _ _), ofLe_leNat]
    cases r.frozen <;> cases r.second <;> decide
  have a20 : (bs.drop 20).take 8 = idtagBytes idtag := by
    rw [e2, ← List.append_assoc, ← List.append_assoc, ← List.append_assoc, ← List.append_assoc, ← List.append_assoc, ← List.append_assoc, ← List.append_assoc,
      ← List.append_assoc, List.drop_append_of_le_length (by simp [leNat_length, leBytes_length]), List.drop_of_length_le (by simp [leNat_length, leBytes_length]),
      List.nil_append, List.take_append_of_le_length (by simp [idtagBytes_length]), List.take_of_length_le (by simp [idtagBytes_length])]
  have f4 : ¬ 4 ≤ r.frozen.toNat + 2 * r.second.toNat := by cases r.frozen <;> cases r.second <;> decide
  simp only [readRecord, take28, drop32, len, a0, a1, a2, a3, a4, a6, a8, a16, a18, a20, a28, hc, f4, ne_eq, not_true_eq_false, decide_false, Bool.or_false,
    Bool.false_eq_true, if_false]
  congr 1
  funext v
  have hf : (decide ((r.frozen.toNat + 2 * r.second.toNat) % 2 = 1)) = r.frozen := by cases r.frozen <;> cases r.second <;> decide
  have hs : (decide (2 ≤ r.frozen.toNat + 2 * r.second.toNat)) = r.second := by cases r.frozen <;> cases r.second <;> decide
  rw [hf, hs, fieldOf, BitVec.ofNat_toNat, BitVec.ofNat_toNat, BitVec.setWidth_eq, BitVec.setWidth_eq]

/-- A payload of zero bytes reads as zero fields. -/
theorem leAt_zeros (n off k : Nat) : leAt (List.replicate n 0#8) off k = 0 := by
  have z : ∀ j, ofLe (List.replicate j 0#8) = 0 := fun j => by induction j with
    | zero => rfl
    | succ j ih => simp [List.replicate_succ, ofLe, ih]
  simp [leAt, z]

theorem readPairs_zeros (k n : Nat) : (readPairs (List.replicate k 0#8) n).isSome = true := by
  simp [readPairs, leAt_zeros]

theorem zeros_flatMap (n : Nat) : (List.range n).flatMap (fun _ => List.replicate 4 0#8) = List.replicate (4 * n) 0#8 := by
  induction n with
  | zero => rfl
  | succ n ih => rw [List.range_succ, List.flatMap_append, ih]; simp only [List.flatMap_cons, List.flatMap_nil, List.append_nil, Nat.mul_succ, List.replicate_append_replicate]

/-- A record alone in the store, read without an error of the flash. -/
theorem readStore_alone (m : Dev) (d : DieId) (k : StoreKind) (t l : Nat) (r : StoreRec) (ht : t < 65535) (hl : l < 4)
    (hp : (payloadBytes' r.payload).length = payloadLen k)
    (h0 : tget [] m.flash.store (copyKey d k t l false) = recordBytes m.sec.idtag d k t l r) (h1 : tget [] m.flash.store (copyKey d k t l true) = []) :
    m.readStore [] d k t l = (readPayload k (payloadBytes' r.payload)).map (fun v =>
      { seq := r.seq, frozen := r.frozen, second := r.second, temp := (BitVec.ofInt 16 r.temp).toInt, payload := v }) := by
  have e := readRecord_recordBytes m.sec.idtag d k t l r ht hl hp
  have n : recordBytes m.sec.idtag d k t l r ≠ [] := by
    intro h
    have := congrArg List.length h
    simp [recordBytes, headBytes_length] at this
  obtain ⟨b, bs, hb⟩ := List.exists_cons_of_ne_nil n
  have c0 : m.readCopy [] d k t l false = some (readRecord m.sec.idtag d k t l (b :: bs)) := by
    rw [Dev.readCopy, h0, hb]; rfl
  have c1 : m.readCopy [] d k t l true = none := by rw [Dev.readCopy, h1]
  rw [Dev.readStore, c0, c1, ← hb, e]
  cases readPayload k (payloadBytes' r.payload) <;> rfl

end Sys2Proof.Machine
end

