-- ==== Sys2Proof/Laws/Layout.lean ====
section
/-! SUPPORT. The sizes of what Layout.lean lays out. -/

namespace Sys2Proof.Machine

/-- Entries of one size. -/
theorem flatMap_length {α : Type} (f : α → List Byte) (n : Nat) (h : ∀ x, (f x).length = n) (l : List α) : (l.flatMap f).length = n * l.length := by
  induction l with
  | nil => simp
  | cons x l ih => simp [List.flatMap_cons, h, ih, Nat.mul_add]; omega

@[simp] theorem headerBytes_length (a : Container) : (headerBytes a).length = 256 := by simp [headerBytes, leBytes_length, leNat_length]
@[simp] theorem dirBytes_length (e : DirEntry) : (dirBytes e).length = 32 := by simp [dirBytes, leNat_length]
theorem jobBytes_length (j : JobHeader) (w : List Byte) (h : w.length = 40) : (jobBytes j w).length = 96 := by
  simp [jobBytes, leBytes_length, leNat_length, h]
@[simp] theorem layerBytes_length (e : LayerEntry) : (layerBytes e).length = 32 := by simp [layerBytes, leBytes_length, leNat_length]
@[simp] theorem tensorBytes_length (e : TensorEntry) : (tensorBytes e).length = 16 := by simp [tensorBytes, leBytes_length, leNat_length]
@[simp] theorem mirrorBytes_length (e : MirrorEntry) : (mirrorBytes e).length = 16 := by simp [mirrorBytes, leNat_length]
@[simp] theorem deadlineBytes_length (e : DeadlineEntry) : (deadlineBytes e).length = 16 := by simp [deadlineBytes, leNat_length]
@[simp] theorem preemptBytes_length (e : PreemptEntry) : (preemptBytes e).length = 16 := by simp [preemptBytes, leNat_length]
@[simp] theorem gatherBytes_length (e : GatherEntry) : (gatherBytes e).length = 16 := by simp [gatherBytes, leNat_length]
theorem stashBytes_length (s : StashPlan) : (stashBytes s).length = 32 + 8 * s.tensors.length + 16 * s.regions.length := by
  simp only [stashBytes, List.length_append, leNat_length]
  rw [flatMap_length _ 8 (by simp [leNat_length]), flatMap_length _ 16 (by simp [leNat_length])]
theorem ringBytes_length (r : RingOrder) :
    (ringBytes r).length = 16 + 32 * r.rings.length + 16 * r.buckets.length + 8 * r.slots.length := by
  simp only [ringBytes, List.length_append, leNat_length]
  rw [flatMap_length _ 32 (by simp [leNat_length]), flatMap_length _ 16 (by simp [leNat_length]), flatMap_length _ 8 (by simp [leNat_length])]
@[simp] theorem frameHead_length (f : Frame) : (frameHead f).length = 48 := by simp [frameHead, leBytes_length, leNat_length]
theorem flitBytes_length (w : Word) (p : List Byte) (h : p.length ≤ 248) : (flitBytes w p).length = 256 := by
  simp [flitBytes, leBytes_length]; omega
theorem recordHead_length (m : Dbl) (f t l : Nat) (s i : Dbl) (r : Nat) : (recordHead m f t l s i r).length = 64 := by
  simp [recordHead, leBytes_length, leNat_length, idtagBytes_length]
theorem packageHead_length (w : WPackage) (ck : List Byte) (h : ck.length = 40) : (packageHead w ck).length = 256 := by
  simp [packageHead, leBytes_length, leNat_length, h]
theorem imageHead_length (i : Image) (n l : Nat) (g : List Byte) (h : g.length = 48) : (imageHead i n l g).length = 256 := by
  simp [imageHead, leBytes_length, leNat_length, h]

end Sys2Proof.Machine
end

