-- ==== Sys2Proof/WellFormed.lean ====
section
/-! DEFINITION. Which commands are well formed: the operands whose range the operand's type does not already bound. -/

namespace Sys2Proof

/-- A cube operation's relation (R217), runs of a segment (R213) and last run (R80). -/
def CubeDesc.wf (d : CubeDesc) : Bool :=
  (match d.kind with
    | .cmp rel => decide (rel < 6)
    | _ => true)
    && decide (1 ≤ d.runs) && decide (d.runs ≤ 64) && decide (1 ≤ d.lastLen) && decide (d.lastLen ≤ 64)

/-- A converter's codes (R177): −512 to 511 of a pipeline converter, −32 to 31 of a column's own. -/
def codeOk (fine : Bool) (c : Int) : Bool :=
  if fine then decide (-512 ≤ c) && decide (c ≤ 511) else decide (-32 ≤ c) && decide (c ≤ 31)

/-- A sample lies in a row group, plane and column that exist (R98, R106), its codes in the converter's range. -/
def ColSample.wf (c : ColSample) : Bool :=
  decide (c.group < 4) && decide (c.plane < 7) && decide (c.col < 1152) && c.codes.all (codeOk c.fine)

/-- Rows 0 to 255, output lanes 0 to 120 (R98, R104). -/
def TrainWork.wf : TrainWork → Bool
  | .group _ row => decide (row < 256)
  | .remap row => decide (row < 256)
  | .touchUp _ row lanes => decide (row < 256) && lanes.all (fun l => decide (l < 121))
  | .programRow _ row => decide (row < 256)
  | .scrubSweep _ _ => true

/-- A calibration read's columns and groups exist and its codes are a pipeline converter's (R103, R177, R194). -/
def WindowReads.wf (r : WindowReads) : Bool :=
  r.refReads.all (fun x => x.samples.all (fun s => decide (s.group < 4) && decide (1120 ≤ s.col) && decide (s.col < 1152) && s.codes.all (codeOk true)))
    && r.colCals.all (fun c => decide (c.col < 1120) && c.rows.all (fun cs => cs.all (codeOk true)) && c.undriven.all (codeOk true))

/-- Operand checks, one per command that has any. -/
def Instr.wf : Instr → Bool
  | .unsupportedRegisterAccess off bytes _ => decide (bytes ≠ 4) || decide (off.toNat % 4 ≠ 0)
  | .registerWrite off _ => decide (off.toNat % 4 = 0)
  | .handshakeStall _ cls index => decide (cls.val ≠ 4) || decide (index < 32)
  | .blockRowConversion _ _ layer _ _ _ => decide (layer < 4096)
  | .tilePass _ _ _ _ layer _ groups samples =>
    decide (layer < 4096) && decide (groups ≠ 0)
      && samples.all ColSample.wf
  | .cubeOperation _ _ op => op.wf
  | .unitParityError _ isCube index => decide (index < (if isCube then 1024 else 64))
  | .writeTrainComplete _ _ work _ fails => work.wf && fails.all (fun f => decide (f.lane < 121) && decide (f.col < 1120))
  | .almanacWindowOpen _ _ reads => reads.wf
  | .idleWindowOpen _ _ reads => reads.wf
  | .monitorRound _ readings => decide (readings.length = 24)
  | .vigilWake _ readings _ _ _ => decide (readings.length = 24)
  | .converterRotationComplete _ _ conv zero pfs nfs _ _ _ =>
    decide (conv < 1296) && [zero, pfs, nfs].all (fun cs => decide (cs.length = 256) && cs.all (codeOk (decide (1152 ≤ conv))))
  | .railsGood _ f => decide (f.trims.length = 16)
  | .testSliceStart _ cls index => decide (index < (match cls with
      | .tile => 4160
      | .cube => 1024
      | .wunit => 64
      | .lane => 20))
  | .measurementRound meas => decide (meas.length = 8)
  | .bindApply r => decide (r.kind < 8) && decide (r.die < 8) && decide (r.index < 8192) && decide (r.leaf < 4)
  | .resourceReady r => decide (r.kind < 8) && decide (r.die < 8) && decide (r.index < 8192) && decide (r.leaf < 4)
  | .derpolRecordSend count => decide (1 ≤ count) && decide (count ≤ 16)
  | .objData _ _ data => decide (1 ≤ data.length) && decide (data.length ≤ 240)
  | _ => true

end Sys2Proof
end

