-- ==== Sys2Proof/Tests/Slice0.lean ====
section
/-! SUPPORT. Tests: well-formedness checks refuse, commands on small states, and witnesses of the statements' hypotheses. -/

namespace Sys2Proof.Tests

open Sys2Proof Sys2Proof.Machine

set_option maxRecDepth 20000
set_option exponentiation.threshold 1100

/-! ### Small states -/

/-- A die in service. -/
def dieUp : Die :=
  { Die.reset with cls := .inService, booted := true, rails := true, analog := true, refclkOk := true, vddMv := 800, storeReady := true, dcnt := 7 }

/-- Module in Run, job ready, CXL up, primary die 0; dies 0 and 1 in service, the others fenced; a partition 0 in being. -/
def up : Dev :=
  { Dev.reset with
    dies := (Vector.replicate 8 { Die.reset with cls := .fenced }).set 0 dieUp |>.set 1 dieUp
    power := { Power.reset with st := .run }
    map := { primary := some 0, disputed := false, everPrimary := true }
    board := { Board.reset with stage := 5, perst := false, linkUp := true, memActive := true, cacheEn := true }
    sec := { Security.reset with owner := some (5, 6), svendor := (3, 4), seqAcc := [(1, 9)] }
    binds := { BindCtl.reset with owners := [(resKey (resLeaf 0 0 0), 1)] ++ ([0, 1, 2].map (fun i => (resKey { kind := 6, die := 0, index := i, leaf := 0 }, 1)))
      ++ ([0, 1, 2].map (fun i => (resKey { kind := 6, die := 1, index := i, leaf := 0 }, 1))) ++ [(resKey (resRing 0), 1), (resKey (resRing 1), 1)] }
    parts := Dev.reset.parts.set 0 { Part.reset with st := .empty, slot := some 0, setId := 77 } }

def st (m : Dev) : State := { dev := m, pending := [] }

/-- The answer is a next state. -/
def isNext (r : Res) : Bool := match r with
  | .next _ => true
  | _ => false

def sig : Signature := { rsaKeyId := 5, slhKeyId := 6, rsaOk := true, slhOk := true }

def region (d kind partner base : Nat) : Region := { variant := 0xFF, die := d, kind := kind, partner := partner, base := base, size := 1, rsvd := 0 }

def dirOf (typ variant die length count : Nat) : DirEntry :=
  { typ := typ, variant := variant, die := die, rsvd0 := 0, offset := 640, length := length, count := count, rsvd1 := 0 }

def plan : StashPlan :=
  { tier1 := 0, tier3 := 0, rsvd := 0, tensors := []
    regions := [region 0 0 0xFF 0, region 0 2 0xFF 1, region 0 1 1 2, region 1 0 0xFF 0, region 1 2 0xFF 1, region 1 1 0 2] }

/-- An almanac over dies 0 and 1 with one layer, nothing placed, that passes every check. -/
def almanac : Container :=
  { magic := magicAlmanac, format := 1, rsvd0 := 0, hdrLen := 256, totalLen := 17264, baseSet := 3, lossSet := 0, digitalSet := 0, layers := 1,
    rsvd1 := 0, shareMax := 33554432, almanacId := 9, toolVersion := 3, rsvd2 := 0,
    dir := [dirOf 1 0xFF 0xFF 128 0, dirOf 2 0xFF 0xFF 64 1, dirOf 3 0xFF 0xFF 0 0, dirOf 4 0 0 0 0, dirOf 4 0 1 0 0, dirOf 5 0xFF 0xFF 128 6, dirOf 8 0 0xFF 64 1,
      dirOf 9 0 0xFF 64 1, dirOf 0xB 0xFF 0xFF 0 0, dirOf 0xC 0xFF 0xFF 0 0, dirOf 0xFF 0xFF 0xFF 16624 0]
    job := { accN := 1, fbBudget := 0, fbClean := 1, stormClean := 1, smpShift := 0, prefetchLead := 1, clipNorm := 0, lscale := 0x3F800000#32, policy := 0,
             devices := 1, deviceIndex := 0, preemptGap := 0, rsvd := 0, wrapSet := 77, wrapOk := true, wrapRsvd := 0, jobSecret := 0 }
    layerTab := [{ slice := 0, flags := 0, rep := 0, t := 1, width := 1, epactCap := 0, aniseSlots := 0, promotePermille := 0, fbLimit := 2, u := 0, firstTensor := 0,
                   tensors := 0, rsvd := 0 }]
    tensorTab := [], placement := [], schedules := [], stash := plan
    ringOrders := [], mirrors := [], deadlines := [{ variant := 0, kind := 0, index := 4, durationNs := 1000, rsvd := 0 }],
    preempts := [{ variant := 0, point := 2, segment := 0, drainNs := 0, phase := 3, inExchange := false, rsvd := 0 }], gathers := [], maskHoles := [], blockWidths := [], softMasks := [],
    wprog := { words := 0, consts := [], code := [], update := 0, back := [] }, programs := [], norms := [], sig := sig, digest := 0 }

/-- A step, or a FORWARD, in progress on ring set 0 with nothing done yet. -/
def run : StepRun :=
  { isForward := false, set := 0, number := 1, tokens := 1, input := [], index := [], phase := 1, probe := false, probing := false, exchange := true, replaying := false,
    fallback := [], scale := [], pred := [], probeTrk := none, blocks := [], runs := [], digRuns := [], clippedRuns := [], outs := [], grads := [], masters := [], opt := [], accum := [], accDone := [], updated := [],
    dg := [], amax := [], lossTerms := [], loss := none, lossBad := false, shard := none, norm := none, clip := none, sampled := [], compared := [], disagree := [], compDone := false, tripped := [],
    entering := [], exceeded := false, saturated := false, substituted := false, satEvent := false, promoUsed := [], abort := none, stashed := [], stash1 := [], stash2 := [], stash3 := 0,
    prefetched := [], late := [], gathered := [], dropped := 0, dropRaised := false, xchkRaised := false, armed := [], contrib := [], kBucket := [], partials := [], finals := [],
    chunksDone := [], primFrames := [], mirrFrames := [], slots := [], maxima := [], closeDone := false, decided := false }

/-- Partition 0 with its almanac, and with a step on it. -/
def loaded : Dev := up.modPart 0 (fun x => { x with st := .loaded, almanac := some almanac })
def running : Dev := up.modPart 0 (fun x => { x with st := .running, almanac := some almanac, run := some run })

def desc (op : Byte) (seq : Word) (ops : BitVec 384) : Desc := { opcode := op, flags := 0, rsvd := 0, seq := seq, tag := 0, operands := ops }

def held (d : Desc) : Held :=
  { index := d.seq, desc := d, st := .waiting, resv := false, slot := none, epochAcc := 0, replayed := false, cplEpoch := 0, cplHealthy := 0, inp := { input := [], index := [] }, seen := [] }

/-- Ring set `k` of partition 0 enabled with these held copies; set 1 is the control ring. -/
def ringed (k : SetId) (hs : List Held) (m : Dev) : Dev :=
  m.modRing k (fun r => { r with enabled := true, ctrl := if k = 1 then 0x20060004#32 else 0x00060004#32, held := hs, accepted := 1, subTail := 1 })

/-- The descriptor `op` is up on ring set `k`. -/
def headed (k : SetId) (op : Byte) (ops : BitVec 384) (m : Dev) : Dev := ringed k [held (desc op 0 ops)] m

/-- What comes up. -/
def isExec (v : Verdict) : Bool := match v with
  | .exec _ p => decide (p = 0)
  | _ => false

/-! ### Witnesses: each clause of a statement has a state and operands that meet its hypotheses -/

theorem witness_StepRunsFrontCommand : ({ st up with pending := [.bypass] } : State).pending = Instr.bypass :: [] := by decide

theorem witness_StepsAnswerAndKeepTheQueue : (st up).pending = [] ∧ ∀ n, Instr.bypass ≠ .privateInstruction n :=
  ⟨by decide, fun _ h => by cases h⟩

theorem witness_LatchingReadsAndUnsupportedAccesses :
    (loaded.regsUp = true ∧ loaded.fencedDie 0 = false ∧ (loaded.part (loaded.die 0).wunPart).almanac.isSome = true ∧ loaded.map.primary.isSome = true)
    ∧ ((2 ≠ 4 ∨ 0 % 4 ≠ 0) ∧ (4 ≠ 4 ∨ 1 % 4 ≠ 0))
    ∧ (0x7FFC < 0x10000 ∧ 0x7FFC % 4 = 0 ∧ up.fencedDie 0 = false ∧ 0x7FFC ∉ dieRegisters.map (fun e => e.1) ∧ up.fencedDie 7 = true)
    ∧ (0x80000 ≤ 0xFFFFC ∧ 0xFFFFC < 0x100000 ∧ 0xFFFFC ∉ moduleRegisters.map (fun e => e.1))
    ∧ (({ up with map := DieMap.reset } : Dev).map.primary = none) ∧ (up.map.primary = some 0 ∧ up.fencedDie 0 = false) := by decide

theorem witness_RegisterWritesSetFieldsInRange :
    up.power.st ≠ .off ∧ (∀ e ∈ dieFields, up.dieRegs 0 = true ∧ e.1.off < 0x10000) ∧ (∀ e ∈ modFields, up.map.primary.isSome = true ∧ e.1.off < 0x100000)
    ∧ (up.part (up.die 0).wunPart).inBeing = true := by decide

/-- A die whose selection registers name layer 0 of partition 0, with the almanac loaded. -/
theorem witness_ClearsZeroWhatTheyName :
    (loaded.dieRegs 0 = true ∧ CntKey.inRange (.ovf 0 0 0 0) = true ∧ ((loaded.part 0).layer 0).isSome = true
      ∧ bits ((loaded.die 0).reg wunOvfSel) 31 28 = 0 ∧ bits ((loaded.die 0).reg wunOvfSel) 27 16 = 0 ∧ bits ((loaded.die 0).reg clvAniSel) 1 0 = 0
      ∧ bits ((loaded.die 0).reg clvWrSel) 1 0 = 0 ∧ bits ((loaded.die 0).reg mceSmpSel) 1 0 = 0 ∧ bits ((loaded.die 0).reg mceCntSel) 1 0 = 0
      ∧ bits ((loaded.die 0).reg cdmCntSel) 3 0 = 0 ∧ bits ((loaded.die 0).reg stkErrSel) 2 0 = 0 ∧ bits ((loaded.die 0).reg wunStepCntSel) 2 0 = 0)
    ∧ up.power.st ≠ .off ∧ up.map.primary.isSome = true := by decide

/-- A ring set with a line to take. -/
def ringUp : Dev := ringed 0 [] loaded
def vigil : Dev := { up with power := { up.power with st := .vigil } }
/-- Partition 0 in an interruption. -/
def struck : Dev := running.modPart 0 (fun x => { x with run := none, intr := some { since := List.replicate 8 0, action := 1, stop := false, variant := none, digital := none, storm := false } })

theorem witness_DoorbellsAndAcceptance :
    ((ringUp.ring 0).enabled = true ∧ ringUp.bridgeDown = false ∧ ringUp.power.req = none ∧ ringUp.working = true ∧ ringUp.interrupted 0 = false
      ∧ lineOk (ringUp.ring 0) ⟨1, 0, 0⟩ = true ∧ lineOk (ringUp.ring 0) ⟨65, 0, 0⟩ = false ∧ (ringUp.ring 0).halted = false)
    ∧ ((ringed 0 [] vigil).working = false ∧ ((ringed 0 [] vigil).ring 0).enabled = true) ∧ ((ringed 0 [] struck).interrupted 0 = true)
    ∧ (let r := { ringUp.ring 0 with subTail := 2 }
       r.disabling = false ∧ r.subTail ≠ r.accepted ∧ r.held.length < 64 ∧ (r.accepted - r.cplHead).toNat < r.size ∧ ringUp.holdsRings = false)
    ∧ (ringUp.ring 0).subTail = (ringUp.ring 0).accepted := by decide

/-- The exit to Run under way, with a line kept on ring set 0. -/
def leaving : Dev :=
  { ringed 0 [] { vigil with power := { vigil.power with req := some { target := 0, src := none, accepted := true, exiting := true, deferring := [] } } } with
    rings := ((ringed 0 [] vigil).modRing 0 (fun r => { r with kept := some ⟨2, 0, 0⟩ })).rings }

theorem witness_DescriptorsAreAcceptedOnlyInRunAndHold :
    (vigil.power.st ≠ .run ∧ vigil.power.st = .vigil ∧ ((ringed 0 [] vigil).ring 0).enabled = true ∧ vigil.bridgeDown = false)
    ∧ (leaving.power.st = .vigil ∧ leaving.power.exitAsked = false ∧ leaving.power.req.isSome = true ∧ (leaving.ring 0).enabled = true
      ∧ (leaving.ring 0).kept = some ⟨2, 0, 0⟩ ∧ (∀ j, j ≠ 0 → (leaving.ring j).kept = none) ∧ leaving.interrupted 0 = false
      ∧ lineOk (leaving.ring 0) ⟨2, 0, 0⟩ = true)
    ∧ acceptable { (leaving.ring 0) with kept := none, subTail := 2 } (desc 0 1 0) = true := by decide

/-- A descriptor at its completion point. -/
def doneHeld : Held := { held (desc 0 0 0) with st := .done 0x20 5 0 false true }

theorem witness_NopBarrierAndCompletionRecords :
    (isExec ((headed 0 0x00 0 loaded).comeUp 0 0x00) = true)
    ∧ (isExec ((headed 0 0x20 3 (ringed 1 [] loaded)).comeUp 0 0x20) = true
      ∧ (∀ n ∈ setIds.filter (fun n => (dopnd (desc 0x20 0 3) 0 8).testBit n.val), ((headed 0 0x20 3 (ringed 1 [] loaded)).ring n).enabled = true
        ∧ (headed 0 0x20 3 (ringed 1 [] loaded)).partOf n = some 0 ∧ barrierClear (headed 0 0x20 3 (ringed 1 [] loaded)) 0 n (held (desc 0x20 0 3)) = true))
    ∧ (barrierClear (headed 0 0x20 3 (ringed 1 [held (desc 0x21 0 0)] loaded)) 0 1 { held (desc 0x20 0 3) with seen := [(1, 1)] } = false)
    ∧ (isExec ((headed 0 0x20 4 loaded).comeUp 0 0x20) = true ∧ ((headed 0 0x20 4 loaded).ring 2).enabled = false)
    ∧ (((ringed 0 [doneHeld] loaded).ring 0).held = doneHeld :: [] ∧ doneHeld.st = .done 0x20 5 0 false true
      ∧ ((ringed 0 [doneHeld] loaded).ring 0).disabling = false ∧ (ringed 0 [doneHeld] loaded).interrupted 0 = false)
    ∧ ((ringed 0 [doneHeld] struck).interrupted 0 = true) := by decide

/-- The selected ring set as `r`, with owner partition 0. -/
def sel (f : RingSet → RingSet) (m : Dev) : Dev := m.modRing 0 f

theorem witness_RingSetControlAndResultWindows :
    (up.board.memActive = true ∧ 0x7FFFFF / 64 * 64 < 0x800000 ∧ 0x800000 ≤ 0x800000 / 64 * 64)
    ∧ (up.power.st ≠ .off ∧ (0x80000000#32).getLsbD 31 = true ∧ (up.ring up.selSet).enabled = false)
    ∧ (({ up with binds := BindCtl.reset } : Dev).partOf up.selSet = none) ∧ (up.partOf up.selSet = some 0)
    ∧ (({ up with board := { up.board with cacheEn := false } } : Dev).board.cacheEn = false) ∧ (up.board.cacheEn = true)
    ∧ ((tget 0 ((sel (fun r => { r with bases := [(0, 0x800#32)] }) up).ring 0).bases 0).toNat % 4096 ≠ 0)
    ∧ (let m := ringed 1 [] up
       ∃ n ∈ m.setsOf 0, n ≠ 0 ∧ (m.ring n).enabled = true)
    ∧ ((0#32).getLsbD 31 = false ∧ ((ringed 0 [] up).ring 0).enabled = true ∧ ((ringed 0 [] up).ring 0).held = []
      ∧ ((headed 0 0 0 up).ring 0).held ≠ []) := by decide

/-- An ALMANAC_LOAD of 17,264 bytes. -/
def loadOps : BitVec 384 := 17264#384 <<< 64
def loading : Dev := (ringed 0 [{ held (desc 0x01 0 loadOps) with st := .executing }] up).modPart 0 (fun x => { x with loading := some almanac })

theorem witness_AlmanacLoadIsJudgedAndTakesEffect :
    (isExec ((headed 0 0x01 loadOps up).comeUp 0 0x01) = true ∧ up.storeWaits = false ∧ dopnd (desc 0x01 0 loadOps) 8 8 = 17264)
    ∧ (wellFormedContainer { almanac with magic := 0 } 17264 = false)
    ∧ (wellFormedContainer almanac 17264 = true ∧ up.ownerSigned { sig with slhOk := false } = false ∧ up.ownerSigned almanac.sig = true)
    ∧ (up.rangesOk 0 { almanac with rsvd1 := 1 } = false ∧ wellFormedContainer { almanac with rsvd1 := 1 } 17264 = true)
    ∧ (up.rangesOk 0 almanac = true ∧ (up.startVariant almanac).isSome = true)
    ∧ (32 * 1024 * 1024 < ({ almanac with shareMax := 33554433 } : Container).shareMax ∧ almanac.shareMax ≤ 32 * 1024 * 1024)
    ∧ (almanac.stash.tier3 ≤ (up.part 0).tier3Bound ∧ (up.part 0).tier3Bound < 1)
    ∧ ((up.part 0).slot.isSome = true ∧ almanac.job.wrapSet = (up.part 0).setId ∧ almanac.job.wrapOk = true ∧ up.leavesWait (up.leavesOf almanac (fun _ => true)) = false)
    ∧ ((up.modPart 0 (fun x => { x with slot := none })).part 0).slot = none
    ∧ ((loading.ring 0).head.isSome = true ∧ loading.partOf 0 = some 0 ∧ (loading.part 0).loading = some almanac ∧ loading.startVariant almanac = some 0
      ∧ (loading.modDie 1 (fun x => { x with cls := .fenced })).startVariant almanac = none) := by decide

/-- BUFFER_BIND of tier-3 stash 0, bound or unbound; an image's buffer. -/
def bindOps (unbind : Nat) : BitVec 384 := (2097152#384 <<< 64) ||| (BitVec.ofNat 384 unbind <<< 144)
def ckpt : Buf := { kind := 1, index := 0, addr := 0, len := 2097152 }
def withBuf (m : Dev) : Dev := m.modPart 0 (fun x => { x with bufs := [ckpt] })

def image : Image :=
  { magic := 0x31504B4338564E#64, format := 1, valid := 0, step := 5, almanacId := 9, baseSet := 3, digestOk := true, masters := [], optimiser := [], epacts := [], targets := [],
    scales := [], accum := [], history := [], histValid := false, stepsLeft := 0 }

def image1 : Image := { image with magic := magicCheckpoint, valid := 0x5A5A }
/-- Further resources bound to partition 0. -/
def bound (rs : List Resource) (m : Dev) : Dev :=
  { m with binds := { m.binds with owners := rs.foldl (fun t r => tset 0 t (resKey r) 1) m.binds.owners } }

theorem witness_BufferBindAndCheckpoints :
    (isExec ((headed 0 0x02 (bindOps 0) loaded).comeUp 0 0x02) = true ∧ isExec ((headed 0 0x02 (bindOps 1) loaded).comeUp 0 0x02) = true)
    ∧ (let x := { (loaded.part 0) with st := .suspended }
       isExec ((headed 0 0x02 (bindOps 0) (loaded.modPart 0 (fun _ => x))).comeUp 0 0x02) = true ∧ dopnd (desc 0x02 0 (bindOps 0)) 16 1 ≠ 1)
    ∧ (let x := { (loaded.part 0) with almanac := some { almanac with stash := { plan with tier3 := 1 } }, bufs := [{ ckpt with kind := 0 }] }
       x.st = .loaded ∧ dopnd (desc 0x02 0 (bindOps 1)) 18 1 = 1 ∧ dopnd (desc 0x02 0 (bindOps 1)) 16 1 = 0 ∧ x.coveredWithout 0 = false)
    ∧ ((withBuf loaded).part 0).ckptBuf (held (desc 0x12 0 0)) = some ckpt
    ∧ isExec ((headed 0 0x12 0 (withBuf loaded)).comeUp 0 0x12) = true
    ∧ (isExec ((headed 0 0x13 0 (withBuf loaded)).comeUp 0 0x13) = true ∧ (withBuf loaded).incomplete 0 = false ∧ (withBuf loaded).storeWaits = false
      ∧ imageOk almanac image = false ∧ imageOk almanac image1 = true ∧ (withBuf loaded).leavesWait ((withBuf loaded).layerLeaves 0 (fun _ => true)) = false) := by
  decide

def package : WPackage :=
  { magic := magicPackage, format := 1, rsvd := 0, length := 4096, setId := 77, almanacId := 9, sections := [], sig := sig, digest := 0 }
def pkgOps : BitVec 384 := 4096#384 <<< 64
def programOps (first count : Nat) : BitVec 384 := BitVec.ofNat 384 (first + 65536 * count)
/-- A leaf of the almanac's layer 0: outputs 0 to 15 of 64 rows on die 0, tile 0, leaf 0, laid from lane 0. -/
def place : PlaceEntry :=
  { variant := 0xFF, layer := 0, outFirst := 0, outCount := 16, die := 0, tile := 0, leaf := 0, laneFirst := 0, rows := 64, frozen := false, digital := false }
def placed : Container := { almanac with placement := [place] }
/-- Partition 0 with the placed almanac, tile 0 of die 0 serving its leaf 0 by analog reads. -/
def served (m : Dev) : Dev :=
  bound [resTile 0 0] ((m.modPart 0 (fun x => { x with almanac := some placed })).modDie 0 (fun x =>
    x.modTile 0 (fun y => { y with st := .analog, link := 0, leaves := [(0, { Leaf.reset with blank := false, placed := true })] })))

theorem witness_WeightLoadAndLeafProgram :
    (isExec ((headed 0 0x03 pkgOps loaded).comeUp 0 0x03) = true ∧ loaded.incomplete 0 = false ∧ loaded.storeWaits = false
      ∧ loaded.packageCheck 0 almanac package 4096 = none ∧ dopnd (desc 0x03 0 pkgOps) 8 8 = 4096
      ∧ loaded.packageCheck 0 almanac { package with rsvd := 1 } 4096 = some 0x04 ∧ loaded.packageCheck 0 almanac { package with setId := 78 } 4096 = some 0x0D
      ∧ loaded.leavesWait (loaded.layerLeaves 0 (fun l => (pkgLayers package).contains l)) = false)
    ∧ (isExec ((headed 0 0x04 (programOps 0 1) (served loaded)).comeUp 0 0x04) = true ∧ isExec ((headed 0 0x04 (programOps 0 2) (served loaded)).comeUp 0 0x04) = true
      ∧ (served loaded).incomplete 0 = false ∧ (placed.layerTab.length = dopnd (desc 0x04 0 (programOps 0 1)) 0 2 + dopnd (desc 0x04 0 (programOps 0 1)) 2 2)
      ∧ placed.layerTab.length < dopnd (desc 0x04 0 (programOps 0 2)) 0 2 + dopnd (desc 0x04 0 (programOps 0 2)) 2 2
      ∧ (served loaded).storeWaits = false ∧ (served loaded).layerLeaves 0 (programRange (held (desc 0x04 0 (programOps 0 1)))) = [(0, 0, 0)]
      ∧ (served loaded).leavesWait [(0, 0, 0)] = false ∧ ((served loaded).modDie 0 (fun x => { x with storeReady := false })).storeWaits = true)
    ∧ (∀ op ∈ [0x04#8, 0x10#8, 0x11#8, 0x20#8, 0x01#8, 0x03#8, 0x13#8], let h := { held (desc op 0 0) with st := .precond }
       ((ringed 0 [h] loaded).ring 0).head = some h ∧ (ringed 0 [h] loaded).storeWaits = false) := by decide

/-- EXPECT_STEP. -/
def stepOps (n : Nat) : BitVec 384 := (1#384 <<< 224) ||| (BitVec.ofNat 384 n <<< 256)
def lossDone : StepRun := { run with isForward := true, loss := some 0 }
def fwdUp (resv : Bool) : Dev :=
  ringed 0 [{ held (desc 0x11 0 (stepOps 0)) with st := .executing, resv := resv }] (loaded.modPart 0 (fun x => { x with st := .running, run := some lossDone }))

theorem witness_StepAndForwardStartAndForwardCompletes :
    (loaded.incomplete 0 = false ∧ loaded.storeWaits = false ∧ isExec ((headed 0 0x10 (stepOps 0) loaded).comeUp 0 0x10) = true
      ∧ isExec ((headed 0 0x10 (stepOps 2) loaded).comeUp 0 0x10) = true ∧ dopnd (desc 0x10 0 (stepOps 0)) 32 8 = 0
      ∧ dopnd (desc 0x10 0 (stepOps 2)) 32 8 = 2 ∧ (loaded.stepNo 0).toNat = 1 ∧ dopnd (desc 0x10 0 (stepOps 1)) 32 8 = 1
      ∧ isExec ((headed 0 0x11 (stepOps 0) loaded).comeUp 0 0x11) = true ∧ ((headed 0 0x11 (stepOps 0) loaded).ring 0).head.isSome = true)
    ∧ (∀ b : Bool, ((fwdUp b).ring 0).head = some { held (desc 0x11 0 (stepOps 0)) with st := .executing, resv := b } ∧ (fwdUp b).partOf 0 = some 0
      ∧ ((fwdUp b).part 0).run = some lossDone ∧ ((fwdUp b).part 0).almanac = some almanac ∧ lossDone.isForward = true ∧ lossDone.loss.isSome = true
      ∧ lossDone.probing = false ∧ layerDone almanac lossDone (almanac.layerTab.length - 1) = true ∧ 0 < ((fwdUp b).ring 0).winSlots) := by decide

def arm (target : Dbl) : Armed := { set := 1, target := target, point := 2 }
def preOps (t : Nat) : BitVec 384 := BitVec.ofNat 384 (t + 2 ^ 64 * 2)
/-- Step 3 is next. -/
def third : Dev := loaded.modPart 0 (fun x => { x with com := { x.com with steps := 2 } })

theorem witness_PreemptAndResume :
    (isExec ((headed 1 0x21 (preOps 1) third).comeUp 1 0x21) = true ∧ (third.part 0).armed = none ∧ dopnd (desc 0x21 0 (preOps 1)) 0 8 = 1 ∧ (third.stepNo 0).toNat = 3
      ∧ isExec ((headed 1 0x21 (preOps 3) third).comeUp 1 0x21) = true ∧ isExec ((headed 1 0x21 (preOps 0) third).comeUp 1 0x21) = true
      ∧ isExec ((headed 1 0x21 (preOps 0) running).comeUp 1 0x21) = true ∧ (running.part 0).run = some run ∧ run.phase < 6)
    ∧ (let x := { (running.part 0) with armed := some (arm 1) }
       x.st = .running ∧ run.isForward = false ∧ (arm 1).target = run.number ∧ x.draining = none ∧ (arm 1).point.toNat = 2
        ∧ (∃ e ∈ almanac.preempts, (e.variant = x.variant ∨ e.variant = 0xFF) ∧ e.point = 2))
    ∧ (let x := { (running.part 0) with armed := some (arm 1), draining := some 2 }
       x.armed = some (arm 1) ∧ x.draining = some 2)
    ∧ (let m := (headed 1 0x22 0 running).modPart 0 (fun x => { x with st := .suspended, susp := some 2 })
       isExec (m.comeUp 1 0x22) = true ∧ (m.part 0).run.isSome = true) := by decide

/-- A partition struck in the middle of a step, and its step's descriptor in execution. -/
def struckIn (storm : Bool) : Dev :=
  ringed 0 [{ held (desc 0x10 0 0) with st := .executing }] (running.modPart 0 (fun x =>
    { x with run := none, intr := some { since := List.replicate 8 0, action := 2, stop := false, variant := none, digital := some storm, storm := storm } }))

theorem witness_HandshakeStallsAndHs6Fencing :
    (running.inService 0 = true ∧ running.orderedWait 0 0 4159 = false ∧ running.orderedWait 0 1 1023 = false ∧ running.orderedWait 0 4 31 = false
      ∧ (running.modPart 0 (fun x => { x with susp := some 2 })).orderedWait 0 4 31 = true ∧ ((running.die 0).cube 1023).st ≠ .retired ∧ ((running.die 0).wunit 63).st ≠ .retired)
    ∧ ((running.die 0).cube 1023).faults = 0 ∧ ({ Cube.reset with faults := 1 } : Cube).faults ≠ 0 ∧ ((running.die 0).wunit 63).faults = 0
    ∧ (running.partsOn 0 = [0] ∧ 1 ∉ running.partsOn 0) ∧ (bound [resPort 0 3] running).owner (resPort 0 3) = some 0
    ∧ ((0 : DieId) ≠ 1 ∧ running.inService 1 = true ∧ running.hasOn 0 0 = true ∧ running.hasOn 1 0 = false ∧ running.hasOn 1 1 = false)
    ∧ (carriesLoss { almanac with lossSet := 1 } 0 = true ∧ carriesLoss { almanac with lossSet := 1 } 1 = false) := by decide

theorem witness_ResumptionAndStormReplay :
    (∃ i, (struck.part 0).intr = some i ∧ i.storm = false) ∧ struck.execSet 0 = none
    ∧ (∃ i, ((struckIn false).part 0).intr = some i ∧ i.storm = false)
    ∧ (((struckIn false).execSet 0).map (fun e => e.1) = some 0 ∧ ((struckIn false).part 0).susp = none ∧ ((struckIn false).part 0).almanac.isSome = true
      ∧ ((struckIn false).part 0).xch.attempt < 2 ∧ (∀ r ∈ (struckIn false).portsOf 0, (((struckIn false).die r.1).port r.2).held = []))
    ∧ (∃ i, ((struckIn true).part 0).intr = some i ∧ i.storm = true ∧ i.digital = some true)
    ∧ (((struckIn true).execSet 0).map (fun e => e.2.desc.opcode) = some 0x10#8 ∧ ((struckIn true).part 0).susp = none ∧ ((struckIn true).part 0).almanac.isSome = true
      ∧ ((struckIn true).part 0).com.cleanRun = 0 ∧ 0 < almanac.job.stormClean ∧ ((struckIn true).part 0).xch.attempt < 3
      ∧ (∀ r ∈ (struckIn true).portsOf 0, (((struckIn true).die r.1).port r.2).held = [])) := by
  refine ⟨⟨_, rfl, rfl⟩, by decide, ⟨_, rfl, rfl⟩, by decide, ⟨_, rfl, rfl, rfl⟩, by decide⟩

theorem witness_ReferenceClockAndBridgeErrors :
    (up.die 0).booted = true ∧ (up.die 0).refclkOk = true ∧ ((up.modDie 0 (fun x => { x with refclkOk := false, calWin := true })).die 0).refclkOk = false
    ∧ ((up.modDie 0 (fun x => { x with refclkOk := false, calWin := true })).die 0).calWin = true := by decide

def entry : LayerEntry := { slice := 0, flags := 0, rep := 0, t := 1, width := 1, epactCap := 0, aniseSlots := 0, promotePermille := 0, fbLimit := 2, u := 0, firstTensor := 0, tensors := 0, rsvd := 0 }
/-- One large value among 63 of 1.0: an outlier of the block when the scale of the others bounds it. -/
def rowVals : Row := .f32 (0x42C80000#32 :: List.replicate 63 0x3F800000#32)
def rowSrc : Src := .consts (0x42C80000#32 :: List.replicate 63 0x3F800000#32)
def servedRun : Dev := (served running).modPart 0 (fun x => { x with run := some { run with pred := [(0, (0x3F800000#32, 0))] } })

/-! A layer of one leaf whose input is tracked, with Anise slots and promotion as given -/

def tracked (flags : BitVec 16) (slots permille : Nat) : Container :=
  { placed with
    layerTab := [{ entry with flags := flags, aniseSlots := slots, promotePermille := permille, tensors := 1 }]
    tensorTab := [{ layer := 0, cls := 1, flags := 0, margin := 0, site := 0, drop16 := 0, coldStart := 0, rsvd := 0 }] }
def trackedUp (flags : BitVec 16) (slots permille : Nat) : Dev :=
  servedRun.modPart 0 (fun x => { x with almanac := some (tracked flags slots permille), run := some { run with pred := [(0, (0x3F800000#32, 0))] } })
def bl : BiBlock := { BiBlock.empty with width := 1, promoted := [1] }
/-- The row converted, and every sample of a pass over it: the columns of its outputs and 32 reference columns, four reads each. -/
def passing : StepRun := { run with blocks := [(brkey 0 0 0, bl)] }
def samples : List ColSample :=
  (List.range 96).map (fun i => { group := 0, plane := 0, col := if i < 64 then i else 1056 + i, fine := true, codes := [1, 1, 1, 1] })

theorem witness_BlockRowsAndTilePasses :
    (∀ c ∈ [(8#16, 0, 0), (0#16, 1, 0), (0#16, 0, 1000)], let m := trackedUp c.1 c.2.1 c.2.2
      let x := m.part 0
      x.run = some { run with pred := [(0, (0x3F800000#32, 0))] } ∧ x.almanac = some (tracked c.1 c.2.1 c.2.2) ∧ (x.layer 0).isSome = true ∧ x.issues = true
        ∧ m.inService 0 = true ∧ m.hasOn 0 0 = true ∧ 0 < blocksOf (tracked c.1 c.2.1 c.2.2) 0 ∧ 0 < rowsIn (tracked c.1 c.2.1 c.2.2) 1 0
        ∧ run.nextBlock (tracked c.1 c.2.1 c.2.2) 0 0 0 = true ∧ m.readSrc 0 0 (tracked c.1 c.2.1 c.2.2) run 64 rowSrc = some rowVals
        ∧ m.consumers 0 (tracked c.1 c.2.1 c.2.2) 0 = [(0, 0)] ∧ stashNeed (tracked c.1 c.2.1 c.2.2) 1 0 = none)
    ∧ ((biConvert 1 (trackerScale (tracked 8 0 0) { run with pred := [(0, (0x3F800000#32, 0))] } 0 1) (rowVals.pad 64).values).outliers.length = 1)
    ∧ ((trackedUp 8 0 0).readSrc 0 0 (tracked 8 0 0) run 64 (.words 0 32) = none ∧ passing.nextBlock (tracked 8 0 0) 0 0 0 = false)
    ∧ (aniseAbort { entry with flags := 8 } = true ∧ promoteCap (tracked 0 0 0) 0 0 1 0 = 0 ∧ promoteCap (tracked 0 0 1000) 0 0 1 1000 = 1)
    ∧ (let m := trackedUp 0 0 0
       let runs := (m.die 0).leafRuns (tracked 0 0 0) (m.part 0).variant 0 0 0
       (m.part 0).issues = true ∧ (m.die 0).analogOk 0 0 = true ∧ m.owner (resLeaf 0 0 0) = some 0 ∧ m.owner (resTile 0 0) = some 0 ∧ (m.die 0).rot.tile ≠ some 0
        ∧ (∃ g ∈ runs, g.layer = 0) ∧ ((m.die 0).tile 0).win = none ∧ (m.part 0).digital = false ∧ (0 : Nat) ∉ run.fallback
        ∧ passWhole (tracked 0 0 0) passing ((m.die 0).tile 0) { entry with tensors := 1 } 0 1#4 samples 0 runs = true
        ∧ passWhole (tracked 0 0 0) run ((m.die 0).tile 0) { entry with tensors := 1 } 0 1#4 samples 0 runs = false
        ∧ passing.block 0 0 0 = some bl ∧ 1 ∈ bl.promoted ∧ tileKey 0 0 ∉ bl.promoted) := by
  refine ⟨by decide, by decide, by decide, by decide, by decide⟩

def op (kind : CubeKind) (keep : Option (Fin 2)) (runs : Nat) : CubeDesc :=
  { kind := kind, axisA := false, axisB := false, outT := true, accKeep := keep, runs := runs, lastLen := 64, resHalf := 1, backward := false, owner := 0 }
def full : Half := { full := true, fmt := .ng8, elems := List.replicate 512 0, exps := List.replicate 8 0, scales := [], skip := [] }
/-- Cube 0 of die 0 as `c`, its group bound to partition 0. -/
def cubed (c : Cube) : Dev := bound [resGroup 0 0] (running.modDie 0 (fun x => x.modCube 0 (fun _ => c)))
def keeping : Cube := { Cube.reset with res0 := { kind := some .madd, backward := false, vals := List.replicate 64 0, part := [], owner := none } }
/-- A cube waiting for the B side of its only run. -/
def half1 : Cube := { keeping with op := some (op .madd none 1), a0 := full }
/-- One whose first half of two runs is met by the second's. -/
def half2 : Cube := { half1 with op := some (op .madd none 2) }
/-- The layer with one tensor of class `c`, its stash planned or not. -/
def tensored (c : Nat) (ts : List StashTensor) (tier1 tier3 : Nat) : Container :=
  { placed with
    layerTab := [{ entry with tensors := 1 }], stash := { plan with tier1 := tier1, tier3 := tier3, tensors := ts }
    tensorTab := [{ layer := 0, cls := c, flags := 0, margin := 0, site := 0, drop16 := 0, coldStart := 0, rsvd := 0 }] }
def stashPlan1 : List StashTensor := [{ tensor := 0, rsvd := 0, bytesPerToken := 64 }]
/-- A step whose stash lies in tier 3, in its backward pass. -/
def lateRun : StepRun := { run with phase := 4, stashed := [(0, 3)] }
/-- A completed product in result half 0 of cube 0, and a segment of its reduction in half 1 of cube 1. -/
def product : ResHalf := { kind := some .madd, backward := true, vals := List.replicate 64 0, part := [], owner := some 0 }
def reduced : Dev := bound [resGroup 0 0] ((served running).modDie 0 (fun x =>
  (x.modCube 0 (fun c => { c with res0 := product })).modCube 1 (fun c => { c with res1 := product })))

theorem fits_unplanned (a : Container) (v d : Nat) (r : StepRun) (i : Nat) (h : stashNeed a r.tokens i = none) : StashFits a v d r i :=
  fun bytes hb => by rw [h] at hb; cases hb

theorem witness_CubeOperationsIssueRunAndComplete :
    (let m := cubed keeping
     m.inService 0 = true ∧ m.cubeFor 0 0 = 0 ∧ (m.part 0).issues = true ∧ m.owner (resGroup 0 0) = some 0 ∧ ((m.die 0).cube 0).st = .inService ∧ ((m.die 0).cube 0).op = none
      ∧ (keeping.kept 1).owner = none ∧ (op .madd none 1).accKeep = none ∧ (op .madd (some 0) 1).accKeep = some 0 ∧ (keeping.kept 0).kind = some .madd
      ∧ sameKind .madd .madd = true ∧ (keeping.kept 0).backward = (op .madd (some 0) 1).backward ∧ sameKind .ada .madd = false)
    ∧ (reduced.cubeFor 0 1 = 1 ∧ ((reduced.die 0).cube 1).op = none ∧ (((reduced.die 0).cube 1).kept 1).owner ≠ none)
    ∧ ((cubed half1).inService 0 = true ∧ ((cubed half1).die 0).cube ((cubed half1).cubeFor 0 0) = half1 ∧ half1.op = some (op .madd none 1)
      ∧ ((cubed half1).part 0).run = some run ∧ ((cubed half1).part 0).almanac = some almanac ∧ ((cubed half1).part 0).st = .running
      ∧ (half1.opnd false 0).full = true ∧ (half1.opnd true 0).full = false
      ∧ ((opndLayer (.tiles 0)).filter (stashWaits almanac run)) = none ∧ (cubed half1).readOpnd 0 0 almanac run (.tiles 0) = none
      ∧ ((opndLayer (.stashOutput 0 0 0)).filter (stashWaits (tensored 0 stashPlan1 0 64) lateRun)) = some 0)
    ∧ (∃ h, (cubed half1).readOpnd 0 0 almanac run (.epacts 0 0 0) = some h ∧ opndLayer (.epacts 0 0 0) = none
      ∧ (let v := half1.load true 0 h.half
         (v.halfA 0).full = true ∧ (v.halfB 0).full = true ∧ half1.runsDone + 1 = (op .madd none 1).runs)
      ∧ (let v := half2.load true 0 h.half
         (v.halfA 0).full = true ∧ (v.halfB 0).full = true ∧ half2.runsDone + 1 < (op .madd none 2).runs ∧ (v.halfA 1).full = false))
    ∧ (let out : ResRef := { die := 0, cube := 0, half := 0 }
       let seg : ResRef := { die := 0, cube := 1, half := 1 }
       reduced.resHalf out = product ∧ reduced.resHalf seg = product ∧ product.owner = some 0 ∧ sameKind .madd .madd = true
        ∧ (reduced.part 0).run = some run ∧ (reduced.part 0).almanac = some placed ∧ (reduced.part 0).st = .running ∧ reduced.inService 0 = true
        ∧ (Config.sramBytes - 256) + 256 ≤ Config.sramBytes
        ∧ (grdEntry (tensored 2 [] 0 0) 0).isSome = true ∧ (tensorOf (tensored 0 [] 0 0) 0 0).isSome = true ∧ stashNeed (tensored 0 [] 0 0) 1 0 = none
        ∧ stashNeed (tensored 0 stashPlan1 64 0) 1 0 = some 64 ∧ (stashTier (tensored 0 stashPlan1 64 0) 0 0 64 run).isSome = true
        ∧ reduced.forwardTile 0 placed run 0 0 0 [] = none ∧ (reduced.forwardTile 0 placed run 0 0 16 []).isSome = true ∧ tensorOf placed 0 0 = none) := by
  refine ⟨by decide, by decide, by decide, ⟨_, rfl, rfl, by decide, by decide⟩, by decide⟩

/-- Every other unit of the classes retired: nothing takes over. -/
def alone : Dev := bound [resGroup 0 63, resWunit 0 63] (running.modDie 0 (fun x =>
  { x with
    cubes := (List.range 1024).map (fun i => (i, { Cube.reset with st := if i = 1023 then .inService else .retired, faults := 1 }))
    wunits := (List.range 64).map (fun i => (i, { WUnit.reset with st := if i = 63 then .inService else .retired, faults := 1 })) }))
def struckUnits : Dev := bound [resWunit 0 0, resWunit 0 1] (running.modDie 0 (fun x =>
  { x with cubes := [(0, { Cube.reset with faults := 1 })], wunits := [(0, { WUnit.reset with faults := 1 })] }))
/-- Rotation on, as at reset, with the unit `u` of the W-units out. -/
def turning (u : Option Nat) (again : Bool) : Dev :=
  running.modDie 0 (fun x => { x with rot := { Rotation.reset with wunit := u, retryW := again, nextW := 63, visit := if u.isSome then [(3, ([8], 2))] else [] } })

theorem witness_UnitParityErrorsAndTestSlices :
    (running.inService 0 = true ∧ ((running.die 0).cube 1023).faults = 0 ∧ ((running.die 0).wunit 63).faults = 0
      ∧ ((running.die 0).cube 1023).st ≠ .retired ∧ ((running.die 0).wunit 63).st ≠ .retired)
    ∧ (let m := running.modDie 0 (fun x => (x.modCube 0 (fun c => { c with st := .retired })).modWunit 63 (fun u => { u with st := .retired }))
       m.inService 0 = true ∧ ((m.die 0).cube 0).st = .retired ∧ ((m.die 0).wunit 63).st = .retired)
    ∧ (((struckUnits.die 0).cube 0).faults ≠ 0 ∧ (struckUnits.cubeTakeover 0 0).isSome = true ∧ ((struckUnits.die 0).wunit 0).faults ≠ 0
      ∧ (struckUnits.wunitTakeover 0 0).isSome = true)
    ∧ (((alone.die 0).wunit 63).faults ≠ 0 ∧ alone.wunitTakeover 0 63 = none ∧ alone.owner (resWunit 0 63) = some 0 ∧ (alone.part 0).hasJob = true)
    ∧ (((alone.die 0).cube 1023).faults ≠ 0 ∧ alone.owner (resGroup 0 63) = some 0)
    ∧ (let m := turning none false
       m.inService 0 = true ∧ (m.reg safTestCfg).getLsbD 2 = false ∧ m.testContent .wunit = true ∧ (m.die 0).rot.out .wunit = none ∧ (m.die 0).turn .wunit = some 63
        ∧ (m.die 0).idleUnit .wunit 63 = true ∧ m.blockHeld 12 = false)
    ∧ (((turning (some 63) false).die 0).rot.out .wunit = some 63 ∧ ((turning (some 63) false).die 0).rot.retry .wunit = false
      ∧ ((turning (some 63) true).die 0).rot.retry .wunit = true ∧ (8#4).toNat ∈ (((turning (some 63) false).die 0).rot.visitOf .wunit).1
      ∧ (0#4).toNat ∉ (((turning (some 63) false).die 0).rot.visitOf .wunit).1 ∧ 1 < (((turning (some 63) false).die 0).rot.visitOf .wunit).2
      ∧ ({ Rotation.reset with visit := [(3, ([8], 1))] }.visitOf .wunit).2 ≤ 1) := by decide

/-- A step with `n` disagreements of layer 0, every pass of it run. -/
def tripping (n : Nat) : Dev := running.modPart 0 (fun x => { x with run := some { run with disagree := [(0, n)] } })

/-- A sampled run of output 0, and what its pass started with. -/
def sampledRun (w : Word) : StepRun :=
  { passing with
    sampled := [(runkey 0 0 0 0, some { die := 0, tile := 0, t16 := 400, dt16 := 0, band := 0, maxWear := 0, frozen := false, codes := List.replicate 64 0, q := 0x80 })]
    runs := [(runkey 0 0 0 0, some w)] }

theorem witness_ShadowComparisonsCountAndSettleTrips :
    (let m := tripping 3
     let x := m.part 0
     let r := { run with disagree := [(0, 3)] }
     x.run = some r ∧ x.almanac = some almanac ∧ (x.layer 0).isSome = true ∧ x.issues = true ∧ m.inService 0 = true ∧ r.compDone = false ∧ r.probing = false
      ∧ m.comparisonsDone 0 almanac r = true)
    ∧ (servedRun.comparisonsDone 0 placed run = false ∧ (servedRun.part 0).almanac = some placed)
    ∧ ((compareRun (sampledRun 0) 8 entry 0 0 0 0).isSome = true ∧ (compareRun (sampledRun 0x7F000000#32) 8 entry 0 0 0 0) = some true
      ∧ tget false (sampledRun 0).compared (runkey 0 0 0 0) = false)
    ∧ ((List.range almanac.layerTab.length).filter (fun j => (almanac.layerTab[j]?).any (fun e => decide (e.fbLimit < tget 0 [(0, 3)] j))) = [0]
      ∧ (List.range almanac.layerTab.length).filter (fun j => (almanac.layerTab[j]?).any (fun e => decide (e.fbLimit < tget 0 [(0, 2)] j))) = [])
    ∧ (¬ (run.fallback.length + 1 ≤ placed.job.fbBudget) ∧ run.fallback.length + 1 ≤ ({ placed.job with fbBudget := 1 } : JobHeader).fbBudget
      ∧ carriesDigital placed 0 = false ∧ carriesDigital { placed with digitalSet := 1 } 0 = true ∧ (servedRun.part 0).intr = none) := by decide

theorem witness_LossTotalAndSegmentDeadlines :
    (running.part 0).run = some run ∧ (running.part 0).issues = true ∧ run.loss = none ∧ run.probing = false ∧ lossRows almanac run = none
    ∧ lossRows almanac { run with lossTerms := [(0, some 0x3FF0000000000000#64)] } = some [0x3FF0000000000000#64]
    ∧ (f64 (lossTotal [0x3FF0000000000000#64])).isFinite = true
    ∧ (f64 (lossTotal [0x7FF0000000000000#64])).isFinite = false ∧ running.clockDie = some 0 ∧ ({ run with exchange := false } : StepRun).exchange = false
    ∧ (∃ e ∈ almanac.deadlines, serves e.variant (running.part 0).form = true ∧ e.kind = 0 ∧ e.index = 4)
    ∧ ¬ (∃ e ∈ almanac.deadlines, serves e.variant (running.part 0).form = true ∧ e.kind = 0 ∧ e.index = 5) ∧ (running.part 0).almanac = some almanac
    ∧ (running.part 0).run.isSome = true ∧ (running.part 0).st = .running ∧ running.inService 0 = true := by
  decide

/-! A job of two devices with four trained weights in one bucket on one ring -/

def noPort : PortRef := { valid := false, die := 0, port := 0 }
def ringEnt : RingEntry :=
  { ring := 0, n := 2, pos := 0, inp := noPort, out := noPort, altIn := noPort, altOut := noPort, pred := 1, succ := 1, firstBucket := 0, buckets := 1, closing := true, rsvd := 0 }
def bucketEnt : BucketEntry := { bucket := 0, ring := 0, elems := 4, source := 0, rsvd := 0 }
def order : RingOrder := { variant := 0, closing := 0, rings := [ringEnt], buckets := [bucketEnt], slots := [] }
def shared (devices : Nat) : Container :=
  { placed with placement := [{ place with outCount := 2, rows := 2 }], ringOrders := [order], job := { almanac.job with devices := devices } }
/-- All accumulated; `f` changes what the test needs. -/
def sharing (devices : Nat) (f : StepRun → StepRun) : Dev :=
  (served running).modPart 0 (fun x => { x with almanac := some (shared devices), run := some (f { run with accDone := [0] }) })

theorem witness_ContributionsAndExchangeComplete :
    (let m := sharing 2 id
     let x := m.part 0
     x.run.isSome = true ∧ x.issues = true ∧ run.isForward = false ∧ run.probing = false ∧ run.exchange = true ∧ 0 ∉ run.armed ∧ x.xch.complete = false
      ∧ ringOrderOf (shared 2) x.form = some order ∧ (∃ e ∈ bucketElems (shared 2) x.form 0, e.1 ∉ run.accDone) ∧ (∀ e ∈ bucketElems (shared 2) x.form 0, e.1 ∈ [0])
      ∧ order.buckets.find? (fun e => e.bucket = 0) = some bucketEnt ∧ order.rings.find? (fun e => e.ring = bucketEnt.ring) = some ringEnt
      ∧ (∀ q ∈ m.portsOf 0, ((m.die q.1).port q.2).held = []))
    ∧ (¬ ∀ l < (shared 2).layerTab.length, trained (shared 2) l = true → l ∈ run.accDone)
    ∧ (let r := { run with accDone := [0], exchange := false }
       (∀ l < (shared 2).layerTab.length, trained (shared 2) l = true → l ∈ r.accDone) ∧ exchangeDone (shared 2) 0 Exchange.reset r = true
        ∧ exchangeDone { shared 1 with ringOrders := [] } 0 Exchange.reset { r with exchange := true } = true
        ∧ ownFinite (shared 1) { r with exchange := true } = true ∧ ownFinite (shared 1) { r with exchange := true, accum := [(wkey 0 0 0, 0x7F800000#32)] } = false)
    ∧ ((shared 1).job.policy.getLsbD 0 = false ∧ ({ (shared 1).job with policy := 1 } : JobHeader).policy.getLsbD 0 = true
      ∧ closingRing (shared 2) 0 = some ringEnt ∧ (ringEnt.pos = 0 → 2 ≤ ringEnt.n) ∧ ((sharing 2 id).part 0).intr = none ∧ ((sharing 2 id).part 0).xch.expelled = false) := by
  refine ⟨by decide, by decide, ⟨by decide, by decide, by decide, by decide, by decide⟩, by decide⟩

/-- A step of a job of one device ready for its decision, and one decided. -/
def readyRun (sat : Bool) : StepRun :=
  { run with
    outs := [(wkey 0 0 0, some 0), (wkey 0 0 1, some 0)], digRuns := [(runkey 0 0 0 0, true), (runkey 0 0 1 0, true)], loss := some 0, compDone := true, accDone := [0]
    clip := some 0x3F800000#32, saturated := sat, updated := [(wkey 0 0 0, true), (wkey 0 0 1, true), (wkey 0 1 0, true), (wkey 0 1 1, true)] }
def readyUp (sat decided : Bool) : Dev :=
  ringed 0 [{ held (desc 0x10 0 (stepOps 0)) with st := .executing, resv := true }] ((served running).modPart 0 (fun x =>
    { x with almanac := some (shared 1), run := some { readyRun sat with decided := decided }, xch := { x.xch with complete := true } }))

/-- The layer's gradients formed, and its accumulation done. -/
def gradsRun : StepRun := { run with grads := (List.range 1024).map (fun q => (wkey 0 (q / 64) (q % 64), some 0#32)) }
def normed : Container := { placed with norms := [{ eps := 0, meanVar := false }] }
def gatherEnt : GatherEntry := { gatherId := 3, layer := 0, capacity := 1, rowBytes := 4, source := 0, rsvd := 0 }
/-- A piece of one row in stage SRAM, and an index table of two entries. -/
def pieced : Dev := running.modDie 0 (fun x => x.putWords 0 0 [0x3F800000#32])

theorem witness_WUnitOperationsGatherAndPrefetch :
    (let m := bound [resWunit 0 0] running
     (m.part 0).run = some run ∧ (m.part 0).almanac = some almanac ∧ (m.part 0).issues = true ∧ m.inService 0 = true ∧ m.wunitFor 0 0 = 0
      ∧ m.owner (resWunit 0 0) = some 0 ∧ ((m.die 0).wunit 0).st = .inService ∧ (Config.sramBytes - 4) + 4 ≤ Config.sramBytes
      ∧ ((opSrcs (.rowSum 1 (.consts [0]) 0)).filterMap srcLayer).find? (stashWaits almanac run) = none
      ∧ ((opSrcs (.rowSum 1 (.output 0 0 0) 0)).filterMap srcLayer).find? (stashWaits (tensored 0 stashPlan1 0 64) lateRun) = some 0
      ∧ m.runWOp 0 0 almanac run (.rowSum 1 (.words 0 32) 0) = none ∧ m.readRow 0 0 almanac run 1 (.consts [0]) = some [0])
    ∧ (let r := { run with index := [5], outs := (List.range 16).map (fun o => (wkey 0 0 o, some 0#32)) }
       (r.outputRow placed (placed.layerTab.length - 1) 0 0 (outsOf placed (placed.layerTab.length - 1))).isSome = true ∧ r.index[0]? = some 5
        ∧ normed.norms[0]? = some { eps := 0, meanVar := false } ∧ ((tensored 0 [] 0 0).tensorTab[0]?.map (fun e => e.cls)) = some 0
        ∧ ((tensored 1 [] 0 0).tensorTab[0]?.map (fun e => e.cls)) = some 1 ∧ (grdEntry (tensored 2 [] 0 0) 0).isSome = true ∧ grdEntry placed 0 = none
        ∧ stashNeed (tensored 0 [] 0 0) 1 0 = none)
    ∧ (run.isForward = false ∧ run.probing = false ∧ run.accDone.contains 0 = false ∧ trained placed 0 = true
      ∧ (∀ e ∈ weightsOf (shared 1) 0, tget none gradsRun.grads (wkey 0 e.1 e.2) ≠ none))
    ∧ (run.exchange = true ∧ allAccumulated placed { run with accDone := [0] } = true ∧ almanac.job.devices = 1 ∧ (shared 2).job.devices ≠ 1
      ∧ finalsHeld (shared 2) 0 { run with finals := [] } = false ∧ finalsHeld { shared 2 with ringOrders := [] } 0 run = true)
    ∧ (let x := (readyUp false false).part 0
       (x.layer 0).isSome = true ∧ (readyRun false).clip.isSome = true ∧ x.xch.complete = true ∧ trainBit (shared 1) 0 0 0 = true
        ∧ tget false run.updated (wkey 0 0 0) = false)
    ∧ (let m := pieced
       (m.part 0).run = some run ∧ (m.part 0).issues = true ∧ m.inService 0 = true ∧ 3 ∉ run.gathered ∧ [gatherEnt].find? (fun g => g.gatherId = 3) = some gatherEnt
        ∧ m.tableOf 0 0 { run with index := [0, 7] } (.step 0 2) = some [0, 7] ∧ ((m.die 0).gatherRows 0 gatherEnt [0, 7] 0).isSome = true
        ∧ ¬ [0, 7].length ≤ gatherEnt.capacity ∧ [0].length ≤ gatherEnt.capacity ∧ ({ run with dropRaised := true } : StepRun).dropRaised = true) := by
  refine ⟨by decide, by decide, ⟨by decide, by decide, by decide, by decide, by decide⟩, by decide, by decide, by decide⟩

theorem witness_CommitDecisionAndCommitPoint :
    (∀ b : Bool, let m := readyUp b false
      let x := m.part 0
      x.run = some (readyRun b) ∧ x.issues = true ∧ (readyRun b).isForward = false ∧ (readyRun b).probing = false ∧ (readyRun b).decided = false ∧ (readyRun b).abort = none
        ∧ (readyRun b).loss.isSome = true ∧ m.forwardDone 0 (shared 1) (readyRun b) = true ∧ (readyRun b).compDone = true ∧ m.opsRun 0 = false ∧ (shared 1).gathers = []
        ∧ (∀ l < (shared 1).layerTab.length, trained (shared 1) l = true → l ∈ (readyRun b).accDone)
        ∧ x.xch.complete = true ∧ (shared 1).job.devices = 1 ∧ (readyRun b).clip.isSome = true
        ∧ (∀ e ∈ gradSeq (shared 1), trainBit (shared 1) e.1 e.2.1 (e.2.2 / 64) = true → tget false (readyRun b).updated (wkey e.1 e.2.1 e.2.2) = true)
        ∧ (readyRun b).tripped = [] ∧ (readyRun b).lossBad = false)
    ∧ ((running.part 0).xch.complete = false ∧ servedRun.comparisonsDone 0 placed run = false)
    ∧ (let m := readyUp false false
       m.comparisonsDone 0 (shared 1) { readyRun false with compDone := false } = true
        ∧ ∀ e ∈ (shared 1).layerTab.zipIdx, tget 0 (readyRun false).disagree e.2 ≤ e.1.fbLimit)
    ∧ (let m := readyUp false true
       (m.part 0).intr = none ∧ (m.part 0).st = .running ∧ ((m.part 0).run.map (fun r => r.decided)) = some true
        ∧ ((m.ring 0).head.map (fun h => (h.st, h.desc.opcode, h.resv))) = some (.executing, 0x10#8, true)
        ∧ 0 < (m.ring 0).winSlots ∧ ({ m.digest with dForce := 0, dWritten := 0 } : DigestCtl).dForce = 0) := by
  refine ⟨by decide, by decide, by decide, by decide⟩

/-! Windows on tile 0 of die 0 -/

def leafOn (f : Leaf → Leaf) (y : Tile) : Tile := { y with leaves := [(0, f { Leaf.reset with blank := false, placed := true })] }
def tiled (f : Tile → Tile) : Dev := served loaded |>.modDie 0 (fun x => x.modTile 0 f)
def change : QEntry := { leaf := 0, row := 255, lane := 5, target := 0x01, prev := 0, retry := false, failCols := [] }
def open0 (w : Window → Window) : Window :=
  w { kind := .almanac, admitted := [], groups := [], remapRows := [], writes := true, scrub := false, rowDone := false, reconciling := false, done := [], refReads := [], colCals := [], trk := [],
      convs := [], refs := 0 }
def noReads : WindowReads := { refReads := [], colCals := [], found := [] }
def remapping : Remap := { col := 7, spare := 0, retry := false }

theorem witness_WindowsAdmitGroupsAndTrainsTakeEffect :
    (let m := tiled (fun y => { y with queue := [change] })
     m.mayOpen 0 0 = true ∧ m.owner (resTile 0 0) = some 0 ∧ (m.part 0).almanac.isSome = true ∧ (m.part 0).run = none ∧ 32 ≤ m.effCap 0 ∧ ((m.die 0).tile 0).isDue = true
      ∧ ((m.die 0).tile 0).leaves.any (fun e => e.2.scrub) = false ∧ ((m.die 0).tile 0).remaps = [] ∧ ((m.die 0).tile 0).reconcile = none
      ∧ (∀ f ∈ noReads.refReads, (((m.die 0).tile 0).leaf f.leaf).runDue = false)
      ∧ ((m.die 0).tiles.filter (fun e => e.2.writing)).length < bits ((m.die 0).reg clvWrCfg) 28 16 ∧ ((m.die 0).tile 0).queue ≠ [])
    ∧ (let m := { tiled id with power := { up.power with cOp := 31 } }
       m.mayOpen 0 0 = true ∧ m.effCap 0 < 32 ∧ ((m.die 0).tile 0).isDue = false)
    ∧ (let m := (tiled (fun y => { y with win := some (open0 id) })).modDie 0 (fun x => x.setReg clvWrCfg 0x00010000#32)
       bits ((m.die 0).reg clvWrCfg) 28 16 ≤ ((m.die 0).tiles.filter (fun e => e.2.writing)).length)
    ∧ (let m := tiled (fun y => { y with queue := [change, { change with lane := 6 }], win := some (open0 (fun w => { w with groups := [(0, 255)] })) })
       m.inService 0 = true ∧ ((m.die 0).tile 0).win = some (open0 (fun w => { w with groups := [(0, 255)] }))
        ∧ (0, 255) ∈ (open0 (fun w => { w with groups := [(0, 255)] })).groups
        ∧ (∀ e ∈ ((m.die 0).tile 0).queue, e.leaf = 0 ∧ e.row = 255 ∧ e.retry = false ∧ e ∉ (open0 (fun w => { w with groups := [(0, 255)] })).done)
        ∧ (∀ e ∈ ([{ lane := 6, col := 6, restoreFail := false }] : List VerifyFail), e.restoreFail = false ∧ e.lane = 6))
    ∧ (let m := tiled (fun y => { y with remaps := [remapping], win := some (open0 (fun w => { w with remapRows := [255] })) })
       ((m.die 0).tile 0).remaps = remapping :: [] ∧ (((m.die 0).tile 0).win.map (fun w => w.remapRows.head?)) = some (some 255))
    ∧ (let y := leafOn (fun f => { f with refresh := some 255 }) ({ Tile.reset with win := some (open0 id) })
       (y.leaf 0).refresh = some 255 ∧ y.win = some (open0 id) ∧ (open0 id).groups = [] ∧ (open0 id).remapRows = [] ∧ y.remaps = [] ∧ (open0 id).writes = true ∧ (open0 id).scrub = false)
    ∧ (let y := leafOn (fun f => { f with prog := some 0 }) ({ Tile.reset with win := some (open0 id) })
       (y.leaf 0).prog = some 0 ∧ (open0 id).rowDone = false ∧ (∀ e ∈ y.leaves, e.2.refresh = none))
    ∧ (let y := leafOn (fun f => { f with scrub := true, sweeps := 1, progFail := [7] }) ({ Tile.reset with win := some (open0 (fun w => { w with scrub := true })) })
       (y.leaf 0).scrub = true ∧ (y.leaf 0).sweeps = (if true then 1 else 0) ∧ (y.leaf 0).progFail ≠ []
        ∧ (open0 (fun w => { w with scrub := true })).scrub = true ∧ (open0 (fun w => { w with scrub := true })).writes = true)
    ∧ (let y := leafOn (fun f => { f with scrub := true }) Tile.reset
       (y.leaf 0).scrub = true ∧ (y.leaf 0).sweeps = (if false then 1 else 0)) := by decide

def aged (n : Nat) (f : Leaf → Leaf) : Dev := (tiled (leafOn f)).modDie 0 (fun x => { x with dcnt := BitVec.ofNat 64 n })

theorem witness_WindowRecordsAndRefresh :
    (let w := open0 (fun w => { w with done := [{ change with row := 63 }] })
     let m := tiled (fun y => { y with queue := [{ change with row := 63 }], win := some w })
     m.inService 0 = true ∧ ((m.die 0).tile 0).win = some w ∧ w.done = [{ change with row := 63 }] ∧ m.leafJob 0 0 0 = some (0, placed) ∧ (m.siteAt 0 0 0 63 5).isSome = true)
    ∧ (let m := aged 3600000000000000000 id
       let f := (m.die 0).leaf 0 0
       f.placed = true ∧ f.blank = false ∧ f.prog = none ∧ f.scrub = false ∧ f.refresh = none ∧ f.overdue = false
        ∧ refreshNs f.hottest ≤ 2 * ((m.die 0).dcnt - f.lastFresh).toNat ∧ 11 * refreshNs f.hottest ≤ 10 * ((m.die 0).dcnt - f.lastFresh).toNat)
    ∧ (let m := aged 0 id
       let f := (m.die 0).leaf 0 0
       2 * ((m.die 0).dcnt - f.lastFresh).toNat < refreshNs f.hottest ∧ 10 * ((m.die 0).dcnt - f.lastFresh).toNat < 11 * refreshNs f.hottest)
    ∧ (let m := (aged 7 (fun f => { f with prog := some 256 })).modPart 0 (fun x => { x with almanac := some (shared 1) })
       ((m.die 0).leaf 0 0).prog = some 256 ∧ m.owner (resLeaf 0 0 0) = some 0 ∧ (m.part 0).almanac = some (shared 1)
        ∧ ∀ v ∈ (m.die 0).leafSites (shared 1) 0 0 0 0, ∀ w ∈ (m.die 0).leafSites (shared 1) 0 0 0 0, v.key = w.key → v.layer = w.layer) := by decide

def monitored (f : Monitor → Monitor) : Dev := up.modDie 0 (fun x => { x with mon := f x.mon })

theorem witness_MonitorConvertersAndTracking :
    (up.inService 0 = true ∧ (up.die 0).analog = true ∧ (up.die 0).mon.fail = false ∧ (up.die 0).hot = false ∧ (List.replicate 24 (1680 : Int)).length = 24
      ∧ (∃ v ∈ (List.replicate 24 (1680 : Int)).drop 8, 1680 ≤ v) ∧ ∀ v ∈ (List.replicate 24 (1679 : Int)).drop 8, v < 1680)
    ∧ (let near (a b : Nat) : Prop := 200 * ((a : Int) - b).natAbs ≤ b
       let r := (up.die 0).mon
       r.agreeRun = 0 ∧ (near (120000 * 1000000) (125000 * 960000) ∧ near (100000 * 125000) (125000 * 100000) ∧ near (100000 * (125000 * 960000)) (120000 * 100000000000))
        ∧ (¬ near (120000 * 1000000) (130000 * 960000) ∧ ¬ near (100000 * 125000) (130000 * 100000))
        ∧ (¬ near (140000 * 1000000) (130000 * 960000) ∧ ¬ near (100000 * (125000 * 960000)) (140000 * 100000000000)))
    ∧ (let x := monitored (fun y => { y with readings := [(4, 6181), (5, 4500)] })
       let y := monitored (fun y => { y with readings := [(4, 6180), (5, 4500)] })
       let z := monitored (fun y => { y with readings := [(4, 6120), (5, 4500)] })
       let off (m : Dev) (n : Nat) : Prop := n * 6000 < 1000 * (tget 0 (m.die 0).mon.readings 4 - 6000).natAbs ∨ n * 4500 < 1000 * (tget 0 (m.die 0).mon.readings 5 - 4500).natAbs
       (x.die 0).mon.supplyBad = false ∧ off x 30 ∧ ¬ off y 30 ∧ off y 20 ∧ ¬ off z 20)
    ∧ (let m := tiled id
       let full : List Int := List.replicate 256 384
       let zero : List Int := List.replicate 256 0
       (m.die 0).analog = true ∧ ((m.die 0).tile 0).st = .analog ∧ ((m.die 0).tile 0).win = none ∧ full.length = 256 ∧ zero.length = 256
        ∧ convCodes true zero full (full.map (fun c => -c)) = (0, 0) ∧ (6553 : Int) < (convCodes true zero (List.replicate 256 100) zero).2.toInt.natAbs
        ∧ (1024 : Int) < (convCodes true (List.replicate 256 17) full (full.map (fun c => -c))).1.toInt.natAbs
        ∧ (900 < ((30901 : Int) - 30000).natAbs ∧ ¬ 900 < ((30900 : Int) - 30000).natAbs ∧ ((6060 : Int) - 6000).natAbs ≤ 60)
        ∧ (675 < ((23176 : Int) - 22500).natAbs ∧ ((4545 : Int) - 4500).natAbs ≤ 45))
    ∧ (let m := tiled (fun y => { y with win := some (open0 id) })
       ((m.die 0).tile 0).win ≠ none)
    ∧ (let f := ((tiled (leafOn (fun f => { f with trackDone := some { Track.reset with phases := 4096 } }))).die 0).leaf 0 0
       f.trackDone = some { Track.reset with phases := 4096 } ∧ f.placed = true ∧ (((tiled id).die 0).leaf 0 0).trackDone = none)
    ∧ (let c : LeafCal := { LeafCal.reset with k := 1311 }
       let y := ((tiled (leafOn (fun f => { f with computing := some c }))).die 0).tile 0
       let last := y.lastAccepted 0
       (y.leaf 0).placed = true ∧ (y.leaf 0).computing = some c ∧ (y.leaf 0).frozen = false
        ∧ (131072 + last.k.toInt < 100 * (c.k.toInt - last.k.toInt).natAbs ∧ (c.tcal.toInt - last.tcal.toInt).natAbs < 32)
        ∧ ¬ 131072 + last.k.toInt < 100 * ((1310#16).toInt - last.k.toInt).natAbs ∧ ¬ ((32#12).toInt - last.tcal.toInt).natAbs < 32)
    ∧ (let m := aged 0 id
       let n := aged 1000000000000 id
       ((m.die 0).dcnt - ((m.die 0).leaf 0 0).newAt).toNat ≤ bits ((m.die 0).reg calCfg) 25 16 * 1000000
        ∧ bits ((n.die 0).reg calCfg) 25 16 * 1000000 < ((n.die 0).dcnt - ((n.die 0).leaf 0 0).newAt).toNat) := by decide

def diagnosing (tgt ctrl : Word) : Dev := up.modDie 0 (fun x => { x with diag := { pending := true, inWindow := false, tgt := tgt, ctrl := ctrl, data := 0 } })
def recd (p : StorePayload) : StoreRec := { seq := 1, frozen := true, second := false, temp := 0, payload := p }
/-- One record in the store, of tile 0 of die 0, and a recorded leaf binding. -/
def stored (k : StoreKind) (p : StorePayload) : Dev :=
  { (up.modDie 0 (fun x => { x with storeReady := false })) with
    flash := { Flash.reset with leafBinds := [(resKey (resLeaf 0 5 1), 16)], store := [(copyKey 0 k 0 0 false, recordBytes up.sec.idtag 0 k 0 0 (recd p))] } }

theorem stored_reads (k : StoreKind) (p : StorePayload) (hp : (payloadBytes' p).length = payloadLen k) :
    (stored k p).readStore [] 0 k 0 0 = (readPayload k (payloadBytes' p)).map (fun v => { recd p with payload := v }) := by
  refine (readStore_alone (stored k p) 0 k 0 0 (recd p) (by decide) (by decide) hp ?_ ?_).trans ?_
  · simp [stored, tget]
  · cases k <;> rfl
  · rfl

theorem zeroPairs (n : Nat) : (List.range n).flatMap (fun i => leNat ((tget 0#16 [] i).toNat * 65536 + (tget 0#12 [] i).toNat) 4) = List.replicate (4 * n) 0#8 := by
  have h : (fun i : Nat => leNat ((tget 0#16 [] i).toNat * 65536 + (tget 0#12 [] i).toNat) 4) = fun _ => List.replicate 4 0#8 := funext (fun i => by
    have h16 : tget 0#16 [] i = 0#16 := rfl
    have h12 : tget 0#12 [] i = 0#12 := rfl
    rw [h16, h12]
    decide)
  rw [h]
  exact zeros_flatMap n

/-- A record of each kind that STORE_READY uses reads from the store. -/
theorem witness_StoredRecordsRead :
    (stored .tile (.tile .analog 0 [(0, 7)] 0)).readStore [] 0 .tile 0 0 = some (recd (.tile .analog 0 [(0, 7)] 0))
    ∧ (stored .trk (.trk LeafCal.reset)).readStore [] 0 .trk 0 0 = some (recd (.trk LeafCal.reset))
    ∧ (∃ o g, (stored .cnv (.cnv [] [])).readStore [] 0 .cnv 0 0 = some (recd (.cnv o g)))
    ∧ ∃ o g, (stored .col (.col [] [])).readStore [] 0 .col 0 0 = some (recd (.col o g)) := by
  refine ⟨(stored_reads _ _ (by decide)).trans (by decide), (stored_reads _ _ (by decide)).trans (by decide), ?_, ?_⟩
  · have e : payloadBytes' (.cnv [] []) = List.replicate 5184 0#8 := zeroPairs 1296
    rw [stored_reads _ _ (by rw [e]; exact List.length_replicate ..), e]
    obtain ⟨v, hv⟩ := Option.isSome_iff_exists.mp (readPairs_zeros 5184 1296)
    exact ⟨v.1, v.2, by rw [readPayload, hv]; rfl⟩
  · have e : payloadBytes' (.col [] []) = List.replicate 4480 0#8 := zeroPairs 1120
    rw [stored_reads _ _ (by rw [e]; exact List.length_replicate ..), e]
    obtain ⟨v, hv⟩ := Option.isSome_iff_exists.mp (readPairs_zeros 4480 1120)
    exact ⟨v.1, v.2, by rw [readPayload, hv]; rfl⟩

/-- No copy in the store is invalid, and every record has one: a store of no record, and one of a TRK record. -/
theorem witness_NothingDiscarded :
    let m := stored .trk (.trk LeafCal.reset)
    (∀ k, ∀ i < 8192, ∀ (l : LeafId) b, m.readCopy [] 0 k i l.val b ≠ some none)
    ∧ (∀ r ∈ m.flash.recordsOf 0, (m.readStore [] 0 r.1 r.2.1 r.2.2.val).isSome = true) := by
  refine ⟨fun k i hi l b h => ?_, by decide⟩
  have hl := l.isLt
  by_cases e : copyKey 0 .trk 0 0 false = copyKey 0 k i l.val b
  · have e3 : k = .trk ∧ i = 0 ∧ l.val = 0 ∧ b = false := by
      cases k <;> cases b <;> simp [copyKey, storeKey, storeCode, byLeaf] at e ⊢ <;> omega
    obtain ⟨rfl, rfl, hl0, rfl⟩ := e3
    obtain rfl : l = 0 := Fin.ext hl0
    revert h; decide
  · have : tget ([] : List Byte) (stored .trk (.trk LeafCal.reset)).flash.store (copyKey 0 k i l.val b) = [] := by
      simp [stored, tget, e]
    rw [Dev.readCopy, this] at h
    cases h

theorem witness_StoreRecordsStoreReadyAndJobReady :
    (up.inService 0 = true ∧ up.recordTriggered 0 .trk 4159 3 = false ∧ (up.modDie 0 (fun x => x.recordDue .trk 4159 3)).recordTriggered 0 .trk 4159 3 = true
      ∧ 2 ≤ 2 ∧ 1 < 2 ∧ up.dieRegs 0 = true ∧ (up.die 0).diag.pending = false ∧ (0x80000000#32).getLsbD 31 = true)
    ∧ (bits (0x00120000#32) 21 13 = 144 ∧ bits ((up.die 0).reg cnvDiagTgt) 21 13 ≠ 144 ∧ bits (diagFields ((up.die 0).reg cnvDiagCtrl) 0x80006800#32) 15 11 = 13
      ∧ bits (diagFields ((up.die 0).reg cnvDiagCtrl) 0x80007000#32) 15 11 = 14)
    ∧ (let m := diagnosing (BitVec.ofNat 32 (144 * 8192)) 0
       m.inService 0 = true ∧ (m.die 0).diag.pending = true ∧ [(-8192 : Int)].length = 2 ^ bits (m.die 0).diag.ctrl 10 7 ∧ bits (m.die 0).diag.tgt 21 13 = 144
        ∧ ∀ c ∈ [(-8192 : Int)], -8192 ≤ c ∧ c ≤ 8191)
    ∧ (let m := diagnosing 0 0
       bits (m.die 0).diag.tgt 21 13 ≠ 144 ∧ (m.die 0).diag.inWindow = false ∧ (∀ c ∈ [(-512 : Int)], -512 ≤ c ∧ c ≤ 511)
        ∧ ((m.modDie 0 (fun x => { x with diag := { x.diag with inWindow := true } })).die 0).diag.inWindow = true)
    ∧ (let m := stored .tile (.tile .analog 0 [(0, 7)] 0)
       m.inService 0 = true ∧ (m.die 0).storeReady = false ∧ m.readStore [] 0 .tile 4159 0 = none ∧ (m.die 0).discarded ≠ 0xFFFF#16
        ∧ (StoreKind.tile, 0, 0) ∈ m.flash.recordsOf 0)
    ∧ (let m := stored .trk (.trk LeafCal.reset)
       (StoreKind.trk, 0, 0) ∈ m.flash.recordsOf 0
        ∧ m.readCopy [{ kind := .trk, tile := 0, leaf := 0, second := false, offset := 33, flip := 1 }] 0 .trk 0 0 false = some none)
    ∧ (let m := { up with board := { up.board with stage := 3 }, flash := (stored .trk (.trk LeafCal.reset)).flash }
       3 ≤ m.board.stage ∧ m.board.stage < 5 ∧ 2 ≤ m.healthy.length ∧ (∀ d, m.inService d = true → (m.die d).storeReady = true) ∧ (∀ d, (m.die d).cls ≠ .unclassified)
        ∧ twf 0 m.flash.leafBinds = true ∧ m.flash.leafBinds ≠ [] ∧ (m.part 0).inBeing = true) := by decide

/-! Port 0 of die 0, bound to partition 0 -/

/-- A port that serves, with a key and a peer. -/
def goodPort : Port := { Port.reset with enable := true, st := .up, key := some 1, peer := some (1, 2), peerIndex := some 1 }
def ported (y : Port) (m : Dev) : Dev := bound [resPort 0 0] (m.modDie 0 (fun x => x.modPort 0 (fun _ => y)))

theorem witness_PortsTrainFailOverAndTakeKeys :
    ((ported goodPort up).inService 0 = true ∧ ((ported goodPort up).die 0).port 0 = goodPort ∧ goodPort.alive = true ∧ goodPort.failed = [] ∧ 4 ∉ goodPort.laneMap ∧ 0 ∈ goodPort.laneMap
      ∧ 2 ≤ activeLanes (goodPort.laneMap.map (fun l => if l = 0 then 4 else l)) ∧ activeLanes ([0, 7, 1, 7].map (fun l => if l = 0 then 7 else l)) < 2
      ∧ activeLanes [4, 1, 2, 3] = 4 ∧ activeLanes [0, 7, 1, 7] ≠ 4)
    ∧ ((ported Port.reset up).dieRegs 0 = true ∧ ((ported Port.reset up).die 0).selPort = 0 ∧ Port.reset.st = .disabled ∧ (0x80000000#32).getLsbD 31 = true
      ∧ (0x40000000#32).getLsbD 31 = false ∧ ({ goodPort with stepFrame := true } : Port).stepFrame = true ∧ goodPort.stepFrame = false ∧ goodPort.enable = true)
    ∧ ((ported goodPort loaded).owner (resPort 0 0) = some 0 ∧ goodPort.peer = some (1, 2) ∧ goodPort.peerIndex = some 1 ∧ ((ported goodPort loaded).part 0).almanac = some almanac) := by
  decide

def flit (n : BitVec 12) (ok : Bool) : Flit := { vc := 0, first := true, last := true, seq := n, creditVc := 0, credits := 0, payload := [], crcOk := ok, fecCorr := 2, fecUncorr := 1 }
def frame (kind : Nat) : Frame :=
  { kind := kind, mark := 0, mirror := false, partition := 0, ring := 0, sender := 1, bucket := 0, chunk := 0, attempt := 0, step := 1, offset := 0, elems := [], senderPort := 0, ctr := 5,
    poison := false, cause := 0, tagOk := true, slots := [], maxima := [], entries := [], declarer := 1, bytes := [], place := 0, placeFmt := .bytes, placeK := 0 }
def sent (n : BitVec 12) : TxFlit := { frame := frame 1, index := 0, count := 1, seq := n }

theorem witness_FlitsAcknowledgementsAndCredits :
    (up.inService 0 = true ∧ goodPort.alive = true ∧ (flit 0 true).seq = goodPort.seqIn ∧ (flit 0 false).crcOk = false ∧ (flit 2047 true).seq ≠ goodPort.seqIn
      ∧ ((flit 2047 true).seq - goodPort.seqIn).toNat < 2048 ∧ 2048 ≤ ((flit 2048 true).seq - goodPort.seqIn).toNat ∧ 64 ≤ ({ goodPort with sinceAck := 63 } : Port).sinceAck + 1
      ∧ goodPort.sinceAck + 1 < 64 ∧ goodPort.txq = [])
    ∧ ([sent 5].filter (fun f => decide ((f.seq - 5).toNat < 2048)) ≠ [] ∧ 8 ≤ (if [sent 5].length < [sent 5].length then 0 else 7) + 1
      ∧ (if [sent 5].length < [sent 5].length then 0 else 6) + 1 < 8)
    ∧ (0 < ({ goodPort with sinceAck := 1 } : Port).sinceAck ∧ goodPort.sinceAck = 0) := by decide

/-- A step in the exchange, port 0 serving, its bucket armed. -/
def trading (f : Part → Part) : Dev := (ported goodPort (sharing 2 (fun r => { r with armed := [0] }))).modPart 0 f

theorem witness_FramesMeetTheStepAndAreDelivered :
    (let m := trading id
     let f := frame 1
     m.inService 0 = true ∧ goodPort.alive = true ∧ m.owner (resPort 0 0) = some f.partition ∧ f.tagOk = true ∧ goodPort.key.isSome = true
      ∧ (tget 0#64 goodPort.lastIn (senderKey f)).toNat ≤ f.ctr.toNat ∧ (m.part 0).hasJob = true ∧ ({ f with tagOk := false } : Frame).tagOk ≠ true)
    ∧ ((ported goodPort loaded).part 0).run = none
    ∧ ((frame 1).step.toNat = ((trading id).stepNo 0).toNat ∧ (0#64).toNat < ((trading id).stepNo 0).toNat ∧ ((trading id).stepNo 0).toNat < (2#64).toNat)
    ∧ (let x := (trading id).part 0
       x.run.isSome = true ∧ x.almanac.isSome = true ∧ x.st = .running ∧ x.intr = none ∧ x.xch.attempt = 0 ∧ x.xch.mark = 0 ∧ (0 : Nat) < ({ x.xch with attempt := 1 } : Exchange).attempt
        ∧ (x.run.map (fun r => (r.isForward, r.armed, r.accDone))) = some (false, [0], [0]))
    ∧ ((frame 1).mark = 0 ∧ (frame 1).poison = false ∧ ringOf (shared 2) 0 0 = some ringEnt ∧ mirrorsOf (shared 2) 0 1 0 2 = [] ∧ mirrorEntry (shared 2) 0 (frame 1) 0 0 = none
      ∧ (∀ w ∈ (frame 1).elems, (f32 w).isFinite = true) ∧ run.isForward = false
      ∧ ((trading id).part 0).xch.complete = false ∧ (frame 1).bucket ∈ ({ run with armed := [0] } : StepRun).armed
      ∧ run.delivered { frame 1 with kind := 1 } = false ∧ sendsReduce ringEnt 0 = true ∧ sendsReduce ringEnt 1 = false ∧ ((trading id).part 0).xch.expelled = false
      ∧ (f32 0x7F7FFFFF#32).isFinite = true ∧ run.delivered { frame 2 with kind := 2 } = false ∧ run.delivered { frame 5 with kind := 5 } = false
      ∧ (Config.sramBytes - 9) + 4 * 2 + 1 ≤ Config.sramBytes) := by
  refine ⟨by decide, by decide, by decide, by decide, by decide, by decide, by decide, by decide, by decide, (fun _ h => by cases h), by decide⟩

theorem witness_ClosingAndExtensionFrames :
    (let m := trading id
     m.inService 0 = true ∧ m.owner (resPort 0 0) = some 0 ∧ (m.part 0).st = .running ∧ (frame 3).step = m.stepNo 0 ∧ (frame 3).attempt = (m.part 0).xch.attempt
      ∧ (frame 3).mark = 0 ∧ (frame 3).poison = false ∧ closingRing (shared 2) (m.part 0).form = some ringEnt ∧ (frame 3).ring = ringEnt.ring ∧ run.closeDone = false
      ∧ run.delivered { frame 3 with kind := 3 } = false ∧ (m.part 0).xch.complete = false ∧ run.delivered { frame 4 with kind := 4 } = false
      ∧ (frame 0x12).declarer ∉ (m.part 0).xch.declares ∧ (shared 2).job.deviceIndex ≠ (frame 0x12).declarer)
    ∧ (let x := (trading (fun x => { x with xch := { x.xch with complete := true } })).part 0
       x.xch.complete = true ∧ x.xch.expelled = false ∧ sendsReduce ringEnt 0 = true)
    ∧ (sendsReduce { ringEnt with pos := 1 } 0 = false ∧ (jobTotal (fillSlots (shared 2) 0 run [])).isSome = true) := by decide

def digesting (es : List DigestEntry) : Dev :=
  (trading (fun x => { x with digestRun := some { step := 1, entries := es }, almanac := some { shared 2 with ringOrders := [{ order with rings := [{ ringEnt with closing := false }] }] } }))
def dEntry (device : Nat) (digest : BitVec 128) : DigestEntry := { device := device, d := 4, step := 1, digest := digest }

theorem witness_DeadlinesResendsAndDigests :
    (let x := (trading id).part 0
     x.almanac = some (shared 2) ∧ x.run.isSome = true ∧ x.intr = none ∧ x.st = .running ∧ 0 ∈ ({ run with armed := [0] } : StepRun).armed
      ∧ missingFrames (shared 2) x 0 run 1 0 0 ≠ [] ∧ missingFrames (shared 2) x 0 { run with closeDone := true } 3 0 0 = []
      ∧ (∀ h ∈ run.mirrFrames, sameSlot (frame 1) h = false ∨ goodFrame h = false))
    ∧ (let m := ported goodPort up
       let g := { ringEnt with out := { valid := true, die := 0, port := 0 } }
       let h := frame 1
       ringOf { shared 2 with ringOrders := [{ order with rings := [g] }] } 0 (frame 6).ring = some g ∧ m.ringOut g = some (0, 0) ∧ ((m.die 0).port 0).key.isSome = true
        ∧ goodPort.frameCtr.toNat + [h].length ≤ 2 ^ 63 ∧ [h].filter (fun h => h.ring = (frame 6).ring && h.bucket = (frame 6).bucket && h.chunk = (frame 6).chunk) = [h])
    ∧ (let m := digesting []
       m.inService 0 = true ∧ goodPort.alive = true ∧ m.owner (resPort 0 0) = some 0 ∧ (m.part 0).digestRun.isSome = true ∧ (m.part 0).com.steps.toNat < (2#64).toNat ∧ (2#64) ≠ 1#64
        ∧ ((m.part 0).almanac.bind (fun a => digestRing a (m.part 0).form)) = some { ringEnt with closing := false } ∧ (frame 0x10).ring = ringEnt.ring
        ∧ (∀ e ∈ [dEntry 1 0], e.device ≠ (shared 2).job.deviceIndex))
    ∧ ((up.digest.dForce = 4) ∧ verdict [dEntry 0 1, dEntry 1 1] = .agree ∧ verdict [dEntry 0 1, dEntry 1 1, dEntry 2 2] = .odd 2 0 ∧ verdict [dEntry 0 2, dEntry 1 1, dEntry 2 1] = .odd 0 1
      ∧ verdict [dEntry 0 1, dEntry 1 2] = .disagree) := by decide

/-! Stacks -/

def stacked (f : Stack → Stack) : Dev := loaded.modDie 0 (fun x => { x with stack := f { x.stack with trained := true } })
def pageReg (hi lo : Word) (m : Dev) : Dev := m.modDie 0 (fun x => (x.setReg stkRetireHi hi).setReg stkRetireLo lo)
/-- A step under way over a plan whose region on die 0 holds page 0. -/
def replayed (b : Bool) : Dev := running.modPart 0 (fun x => { x with run := some { run with replaying := b }, ueFirst := [pageKey 0 0] })

theorem witness_StackErrorsTemperatureAndPages :
    (loaded.inService 0 = true ∧ loaded.copyGone 0 0 .both 0 = true ∧ (loaded.part 0).hasJob = true ∧ loaded.copyGone 0 0 .committed 0 = false
      ∧ loaded.copyGone 0 0 .served 0 = false ∧ (running.part 0).intr = none)
    ∧ (((replayed false).part 0).run.isSome = true ∧ ((replayed true).part 0).run.isSome = true ∧ ((replayed true).part 0).almanac.isSome = true ∧ pageKey 0 0 ∈ ((replayed true).part 0).ueFirst)
    ∧ isExec ((headed 0 0x12 0 (withBuf loaded)).comeUp 0 0x12) = true
    ∧ (((stacked id).die 0).stack.trained = true ∧ bits (((stacked id).die 0).reg stkCfg) 7 0 = 90 ∧ 16 * (90 + 5) ≤ (1520 : Int) ∧ (1391 : Int) < 16 * (90 - 3) ∧ (16 * 90 : Int) ≤ 1519
      ∧ (1519 : Int) < 16 * (90 + 5) ∧ ((stacked id).die 0).stack.throttle = 0)
    ∧ ((stacked id).dieRegs 0 = true ∧ ((stacked id).die 0).stack.retReq = none
      ∧ 2031616 ≤ bits (((pageReg 31 0 (stacked id)).die 0).reg stkRetireHi) 4 0 * 65536 + bits (((pageReg 31 0 (stacked id)).die 0).reg stkRetireLo) 31 16
      ∧ bits (((pageReg 30 0xFFFF0000#32 (stacked id)).die 0).reg stkRetireHi) 4 0 * 65536 + bits (((pageReg 30 0xFFFF0000#32 (stacked id)).die 0).reg stkRetireLo) 31 16 = 2031615
      ∧ (5#21) ∈ ((stacked (fun k => { k with table := [5] })).die 0).stack.table
      ∧ (stacked id).pageBusy 0 2031615 = false ∧ running.pageBusy 0 0 = true)
    ∧ (((stacked (fun k => { k with retReq := some 5 })).die 0).stack.retReq = some 5 ∧ (stacked id).pageBusy 0 5 = false)
    ∧ ((some { openedAt := List.replicate 8 0, durationS := 1, mask := 0, margin := true, priv := false } : Option Unlock).map (fun u => u.margin) = some true)
    ∧ (({ stacked id with binds := BindCtl.reset } : Dev).stackBound 0 = false ∧ ((stacked (fun k => { k with margin := true })).die 0).stack.margin = true) := by decide

/-! The event log -/

def logged (n : Nat) : Dev := { up with flash := { Flash.reset with log := (List.replicate n { seq := 1, ev := ev (.saf 1) }) } }
def buffered (lost : Nat) (es : List Event) : Dev := up.modDie 0 (fun x => { x with evLost := lost, evBuf := es })

theorem witness_EventLogEntriesAndRecordsSent :
    (up.map.primary.isSome = true ∧ ({ up with evMod := [ev (.pwr 1)] } : Dev).evMod = ev (.pwr 1) :: [] ∧ up.evMod = [] ∧ up.fencedDie 0 = false
      ∧ 0 < ((buffered 2 []).die 0).evLost ∧ ((buffered 0 [ev (.saf 1)]).die 0).evLost = 0 ∧ ((buffered 0 [ev (.saf 1)]).die 0).evBuf = ev (.saf 1) :: []
      ∧ ((buffered 0 []).die 0).evBuf = [] ∧ ((buffered 2 []).die 0).saf.resetting = false
      ∧ ((up.modDie 0 (fun x => { x with saf := { x.saf with resetting := true } })).die 0).saf.resetting = true ∧ up.flash.log.length < 65536)
    ∧ (((logged 1).flash.log.filter (fun r => (logged 1).flash.sentSeq < r.seq)).take 8).getLast? = some { seq := 1, ev := ev (.saf 1) }
    ∧ (up.flash.log.filter (fun r => up.flash.sentSeq < r.seq)).take 8 = [] := by decide

/-- The log full. -/
theorem witness_FullTable : 1024 ≤ (List.replicate 1024 6#21).length := Nat.le_of_eq (List.length_replicate ..).symm

theorem witness_FullLog : (logged 65536).flash.log.length = 65536 := List.length_replicate ..

/-! Binding -/

/-- W-unit 2 of die 0 asked for partition `t` by the host. -/
def asked (t : Nat) (m : Dev) : Dev := { m with binds := { m.binds with hostReq := BitVec.ofNat 32 (3 * 2 ^ 28 + 2 * 4096 + t * 32) } }
def waits : Rebind := { res := resWunit 0 2, target := 31, src := .host }
def waiting (m : Dev) : Dev := { m with binds := { m.binds with waiting := [waits] } }
def emptied (slot : Option Nat) (set : Dbl) : Dev :=
  bound [resLeaf 0 4159 3] { up.modPart 0 (fun x => { x with slot := slot, setId := set }) with sec := { up.sec with devsets := [(15, some 77)] } }

theorem witness_RebindsDeviceSetsAndScrubs :
    (let m := asked 0 loaded
     m.power.st ≠ .off ∧ m.bindDone .host = true ∧ m.bindVerdict .host (reqRes (m.bindWord .host)) (reqTarget (m.bindWord .host)) = 0
      ∧ m.released (reqRes (m.bindWord .host)) = true ∧ reqRes (m.bindWord .host) = resWunit 0 2)
    ∧ (let m := asked 31 loaded
       m.bindVerdict .host (reqRes (m.bindWord .host)) (reqTarget (m.bindWord .host)) = 9)
    ∧ (let m := asked 31 (bound [resWunit 0 2] running)
       m.bindVerdict .host (reqRes (m.bindWord .host)) (reqTarget (m.bindWord .host)) = 0 ∧ m.released (reqRes (m.bindWord .host)) = false)
    ∧ ({ loaded with binds := { loaded.binds with mgmtDone := false } } : Dev).bindDone .mgmt = false
    ∧ (∀ m ∈ [waiting (bound [resWunit 0 2] loaded), waiting (bound [resWunit 0 2] running)],
        m.binds.waiting.find? (fun w => decide (resKey w.res = resKey (resWunit 0 2))) = some waits ∧ m.fencedDie (dieOf waits.res) = false
          ∧ m.ownerIs waits.res (fun x => decide (x.st = .suspended)) = false)
    ∧ ((waiting (bound [resWunit 0 2] loaded)).released waits.res = true ∧ (waiting (bound [resWunit 0 2] running)).released waits.res = false)
    ∧ (∀ r ∈ [resWunit 0 2, { kind := 6, die := 0, index := 495, leaf := 0 }, resRing 63, resLeaf 0 4159 3],
        let m := { loaded with binds := { loaded.binds with readying := [r] } }
        (∃ e ∈ m.binds.readying, resKey e = resKey r) ∧ (r.kind = 7 ∨ m.fencedDie (dieOf r) = false) ∧ ((m.die (dieOf r)).leaf r.index (Fin.ofNat 4 r.leaf)).scrub = false)
    ∧ (let m := emptied none 0
       Fin.ofNat 16 (bits (m.reg partSel) 3 0) = (0 : Pid) ∧ (m.part 0).st = .empty ∧ (0x8000000F#32).getLsbD 31 = true ∧ tget none m.sec.devsets (bits 0x8000000F#32 3 0) = some 77
        ∧ ¬ ((m.part 0).slot.isSome = true ∧ (m.part 0).setId = 77) ∧ tget 0 m.binds.owners (resKey (resLeaf 0 4159 3)) = 1)
    ∧ (let m := emptied (some 3) 77
       (m.part 0).slot.isSome = true ∧ (m.part 0).setId = 77)
    ∧ (loaded.part 0).st ≠ .empty
    ∧ (let m := tiled (leafOn (fun f => { f with scrub := true, sweeps := 1 }))
       m.inService 0 = true ∧ ((m.die 0).leaf 0 0).scrub = true ∧ 0 < ((m.die 0).leaf 0 0).sweeps ∧ ((m.die 0).leaf 0 0).sweepDue true = false)
    ∧ (let m := tiled (leafOn (fun f => { f with scrub := true, sweeps := 1, progFail := [7] }))
       ((m.die 0).leaf 0 0).sweepDue true = true) := by decide

def third3 (n : Nat) : Dev :=
  { up with dies := (up.dies.set 2 dieUp).set 1 { dieUp with saf := { Saffron.reset with minority := n } } }

theorem witness_MeasurementRoundsAndPartialResets :
    (let ms : List (DieId × BitVec 384) := (third3 1).healthy.filterMap (fun d => if ((third3 1).die d).saf.resetting then none else ([some 1, some 2, some 1].getD d.val none).map (fun v => (d, v)))
     ms = [(0, 1), (1, 2), (2, 1)] ∧ majorityOf ms = some 1 ∧ 1 ≤ ((third3 1).die 1).saf.minority ∧ ((third3 0).die 1).saf.minority = 0)
    ∧ majorityOf [(0, 1), (1, 2)] = none
    ∧ (up.inService 0 = true ∧ (up.die 0).saf.resetting = false ∧ up.map.primary = some 0 ∧ up.map.primary ≠ some 1 ∧ up.inService 1 = true)
    ∧ ((up.modDie 1 (fun x => { x with saf := { x.saf with resetting := true } })).die 1).saf.resetting = true := by decide

/-! Attestation and the management path -/

def talking (xs : List Session) : Dev := { up with sec := { up.sec with sessions := xs, deferred := some (.getDigests .doe) } }
def sess (n : Nat) (done : Bool) : Session := { id := n, path := .doe, finished := done, keyGen := 0 }

theorem witness_SpdmRequestsAreAnswered :
    up.spdmReach .doe = true ∧ up.spdmReach .mctp = true ∧ up.map.primary.isSome = true ∧ up.power.st ≠ .off ∧ up.sec.sigReady = none
      ∧ (loaded.part 0).almanac.isSome = true ∧ (5, 1, 2) ∈ ({ up.sec with pending := [(5, 1, 2)] } : Security).pending := by decide

theorem witness_SpdmSessionsIdeAndNotReady :
    (up.spdmReach .doe = true ∧ up.map.primary.isSome = true ∧ up.power.st ≠ .off ∧ [sess 0 true, sess 2 true, sess 3 true].length < 4
      ∧ 4 ≤ [sess 0 true, sess 1 true, sess 2 true, sess 3 true].length ∧ (talking [sess 3 false]).session .doe 3 = some (sess 3 false) ∧ (sess 3 false).finished = false
      ∧ (talking [sess 3 true]).session .doe 3 = some (sess 3 true) ∧ (sess 3 true).finished = true ∧ ((talking [sess 3 true]).session .doe 3).any (fun x => x.finished) = true)
    ∧ (∃ x ∈ [({ kind := .link, stream := 1, keyGen := 0 } : IdeStream)], x.kind = .link ∧ x.stream = 1)
    ∧ (∀ c ∈ [Instr.getVersion .doe, .getCapabilities .doe, .negotiateAlgorithms .doe true, .getDigests .doe, .getCertificate .doe 0 0 1, .challenge .doe 0, .getMeasurements .doe 0xFF 0,
        .keyExchange .doe, .finish .doe 0 true, .endSession .doe 0, .heartbeat .doe 0, .keyUpdate .doe 0, .chunkGet .doe 0 0, .getSlhSignature .doe], requestPath c = some .doe)
    ∧ (({ up with map := DieMap.reset } : Dev).map.primary = none ∧ ({ up with map := DieMap.reset } : Dev).spdmReach .doe = true ∧ (talking []).sec.deferred = some (.getDigests .doe)) := by
  decide

def xfer (kind : Nat) : Xfer := { handle := 0, kind := kind, length := 8, bytes := [] }
def carrying (kind : Nat) : Dev := { up with board := { up.board with xfers := [xfer kind] } }

theorem witness_ManagementRegistersAndTransfers :
    (up.board.standby = true ∧ up.board.mgmtFail = false ∧ up.power.st ≠ .off ∧ ({ up with power := Power.reset } : Dev).power.st = .off ∧ 0x80FFC % 4 = 0 ∧ 0x80FFC / 0x1000 = 0x80
      ∧ (0x7FFC % 0x10000 ∉ dieRegisters.map (fun e => e.1) ∧ 0xFFFFC ∉ moduleRegisters.map (fun e => e.1)) ∧ (up.writeReg .host 0x83100 7).isSome = true
      ∧ (up.writeReg .host 0x100 7).isSome = true ∧ 0x83100 ∉ [0x81000, 0x81004, 0x82000, 0x831A0] ∧ (0x08000000#32).getLsbD 31 = false)
    ∧ (up.board.xfers.length < 256 ∧ (carrying 1).board.xfers.find? (fun x => decide (x.handle = 0)) = some (xfer 1) ∧ 4 + [1#8, 2, 3, 4].length ≤ (xfer 1).length
      ∧ (xfer 1).length < 5 + [1#8, 2, 3, 4].length ∧ (logged 1).flash.log.find? (fun r => decide (1 ≤ r.seq)) = some { seq := 1, ev := ev (.saf 1) }
      ∧ (∀ r ∈ (logged 1).flash.log, r.seq < 2)) := by decide

def vsig : Signature := { rsaKeyId := 3, slhKeyId := 4, rsaOk := true, slhOk := true }

theorem witness_FirmwareAndPacksAreCheckedAndTaken :
    (∀ k ∈ [1, 2], (carrying k).board.standby = true ∧ (carrying k).board.mgmtFail = false ∧ (carrying k).board.xfers.find? (fun x => decide (x.handle = 0)) = some (xfer k)
      ∧ (xfer k).kind = k ∧ (carrying k).map.primary.isSome = true)
    ∧ ({ carrying 1 with map := DieMap.reset } : Dev).map.primary = none
    ∧ (vsig.rsaOk = true ∧ vsig.slhOk = true ∧ up.sec.svendor = (vsig.rsaKeyId, vsig.slhKeyId) ∧ ¬ (sig.rsaKeyId = 3) ∧ 2 ≤ 2 ∧ 5 ≤ 5 ∧ tget 0 up.sec.svnMin 5 ≤ 0)
    ∧ (let old : Pack := { packId := 1, cls := 1, version := 4, slices := 1, digest := 0 }
       ∀ n k, (n, some k) ∈ [(7, some old)] → k.packId = 1 → k.version < 5) := by
  refine ⟨by decide, by decide, by decide, fun n k h _ => ?_⟩
  rcases List.mem_singleton.mp h with h1
  cases h1
  decide

def bare : Dev := { carrying 3 with parts := Dev.reset.parts }
/-- Tile 4,095 of die 0 recorded as retired with spare tile 4,100. -/
def retiredRec : Dev :=
  { bare with flash := { bare.flash with store := [(copyKey 0 .tile 4095 0 false, recordBytes bare.sec.idtag 0 .tile 4095 0 (recd (.tile .retiredSpare 4100 [] 0)))] } }

theorem witness_ConfigurationRecordsTakeEffect :
    ((carrying 3).board.standby = true ∧ (carrying 3).map.primary.isSome = true ∧ (carrying 3).board.xfers.find? (fun x => decide (x.handle = 0)) = some (xfer 3) ∧ (xfer 3).kind = 3)
    ∧ ((∀ p, (bare.part p).st = .notInBeing) ∧ some bare.sec.svendor = some (vsig.rsaKeyId, vsig.slhKeyId) ∧ bare.sec.owner = some (sig.rsaKeyId, sig.slhKeyId) ∧ bare.sec.idtag = 0
      ∧ tget 0 bare.sec.seqAcc (recordType (.owner 1 2)) = 9 ∧ (9#64 < 10#64) ∧ ¬ (9#64 < 9#64) ∧ bare.lastSetSeq 77 < 1 ∧ (3#8).toNat < 4 ∧ ¬ (4#8).toNat < 4)
    ∧ retiredRec.readStore [] 0 .tile 4095 0 = some (recd (.tile .retiredSpare 4100 [] 0))
    ∧ readRecord retiredRec.sec.idtag 0 .tile 4095 0 (tget [] retiredRec.flash.store (copyKey 0 .tile 4095 0 false)) = some (recd (.tile .retiredSpare 4100 [] 0))
    ∧ (4100#13).toNat ≠ 4095 := by
  refine ⟨by decide, by decide, ?_, ?_, by decide⟩
  · exact (readStore_alone retiredRec 0 .tile 4095 0 (recd (.tile .retiredSpare 4100 [] 0)) (by decide) (by decide) (by decide) rfl rfl).trans (by decide)
  · exact (readRecord_recordBytes retiredRec.sec.idtag 0 .tile 4095 0 (recd (.tile .retiredSpare 4100 [] 0)) (by decide) (by decide) (by decide)).trans (by decide)

/-! Power -/

def asleep (awake : Bool) : Dev := (vigil.modDie 0 (fun x => { x with awake := awake })).modDie 1 (fun x => { x with awake := awake })
def requested (target : Nat) (accepted exiting : Bool) (deferring : List Nat) (m : Dev) : Dev :=
  { m with power := { m.power with req := some { target := target, src := some .host, accepted := accepted, exiting := exiting, deferring := deferring } } }

theorem witness_PowerRequestsAndHandshake :
    (up.power.req = none ∧ up.power.st = .run ∧ vigil.power.req = none ∧ vigil.power.st = .vigil ∧ ({ Power.reset with st := .repose } : Power).st = .repose
      ∧ ({ up.board with stage := 4 } : Board).stage < 5 ∧ (∃ p, ((up.modPart 3 (fun x => { x with st := .stopped })).part p).st = .stopped) ∧ up.workHeld = false
      ∧ (headed 0 0 0 up).workHeld = true ∧ up.clockDie = some 0)
    ∧ (5 ≤ up.board.stage ∧ up.board.unlock = none ∧ (∀ p, (up.part p).st ≠ .stopped) ∧ (∀ t ∈ [1, 2, 3], ∀ b ∈ [10, 11, 8, 4, 7, 1, 5, 2, 3, 12], up.blockAnswer t b ≠ .refuse)
      ∧ (∃ p, (running.part p).st = .running) ∧ [10, 11, 8, 4, 7, 1, 5, 2, 3, 12].find? (fun b => decide (running.blockAnswer 1 b = .refuse)) = some 10
      ∧ (∀ p, (up.part p).intr = none))
    ∧ (let m := ported goodPort up
       m.workHeld = false ∧ ∃ d p, m.inService d = true ∧ ((m.die d).port p).key.isSome = true)
    ∧ (waiting up).binds.waiting ≠ []
    ∧ (let m := up.modDie 0 (fun x => x.modTile 4159 (fun y => { y with win := some (open0 id) }))
       m.inService 0 = true ∧ ((m.die 0).tile 4159).win.isSome = true ∧ m.blockAnswer 1 1 = .defer)
    ∧ (let m := requested 1 false false [11] (waiting up)
       m.power.req.isSome = true ∧ [11].filter (fun b => decide (m.blockAnswer 1 b = .defer)) = [11] ∧ [11].filter (fun b => decide (up.blockAnswer 1 b = .defer)) = []
        ∧ 0 < 10 * bits (m.reg pwrLimitCfg) 9 0 ∧ (∀ b ∈ [11], m.blockAnswer 1 b ≠ .refuse) ∧ [10].find? (fun b => decide (running.blockAnswer 1 b = .refuse)) = some 10) := by
  refine ⟨by decide, by decide, by decide, by decide, by decide, by decide⟩

theorem witness_PowerStatesAreReached :
    (∀ t ∈ [1, 2, 3], ((requested t true false [] up).power.req.map (fun r => (r.target, r.accepted, r.exiting))) = some (t, true, false))
    ∧ (let m := requested 0 true true [] { up with power := { up.power with st := .repose } }
       m.power.st = .repose ∧ m.power.exitAsked = false ∧ (∀ k, (m.ring k).kept = none))
    ∧ up.inService 0 = true ∧ up.inService 2 = false
    ∧ (let m := { buffered 3 [ev (.saf 1)] with evMod := [ev (.pwr 1)] }
       (m.evMod ++ m.healthy.flatMap (fun d => (if 0 < (m.die d).evLost then [m.lostEvent d] else []) ++ (m.die d).evBuf)).length + m.flash.log.length ≤ 65536)
    ∧ ((up.modDie 0 (fun x => { x with stack := { x.stack with save := some [] } })).die 0).stack.save = some [] := by decide

def kept0 : Dev :=
  { asleep false with rings := (ringed 0 [] up).rings.set 0 { RingSet.reset with enabled := true, kept := some ⟨2, 0, 0⟩, accepted := 1 } }

theorem witness_VigilEntriesWakesAndSleep :
    (up.power.st = .run ∧ up.power.req = none ∧ up.workHeld = false ∧ (∀ b ∈ powerBlocks, up.blockAnswer 1 b = .accept))
    ∧ (let m := (up.setReg pwrVigilCfg 0x00010000#32).setReg pwrIdle 1
       bits (m.reg pwrVigilCfg) 31 16 ≠ 0 ∧ bits (m.reg pwrIdle) 13 0 ≠ 0 ∧ up.unasked = 0 ∧ ({ up with board := { up.board with stage := 4 } } : Dev).unasked ≠ 0)
    ∧ ((asleep false).power.st = .vigil ∧ (asleep false).inService 0 = true ∧ ((asleep false).die 0).awake = false ∧ (asleep false).power.exitAsked = false ∧ (asleep false).power.req = none
      ∧ (∀ k, ((asleep false).ring k).kept = none))
    ∧ (∃ k l, (kept0.ring k).enabled = true ∧ (kept0.ring k).kept = some l ∧ l.subTail ≠ (kept0.ring k).accepted)
    ∧ (let m := requested 0 true true [] (asleep false)
       m.power.req.any (fun r => r.exiting) = true)
    ∧ (((asleep true).die 0).awake = true ∧ ((asleep true).die 0).wakeBusy = false) := by
  refine ⟨by decide, by decide, by decide, ⟨0, ⟨2, 0, 0⟩, by decide⟩, by decide, by decide⟩

def sampled (n : Nat) (w : Nat) : Power := { up.power with samples := List.replicate n w, since := n, sinceRaise := n }
def warm (t : Int) (hot : Bool) : Dev := up.modDie 0 (fun x => { x with hot := hot, mon := { x.mon with readings := (List.range 16).map (fun i => (16 + i, t)) } })

theorem witness_LevelsAndCaps :
    (up.power.st = .run ∧ vigil.power.st = .vigil ∧ up.power.st ≠ .off ∧ (up.die 0).hot = false ∧ (up.die 0).rails = true ∧ up.inService 2 = false)
    ∧ (let cap := bits (up.reg pwrCap) 10 0
       cap = 1800 ∧ 10 ≤ (sampled 10 1801).since ∧ 10 * cap < ((sampled 10 1801).samples.drop 0).foldl (· + ·) 0 ∧ 1 < (sampled 10 1801).cOp
        ∧ ((sampled 10 1800).samples.drop 0).foldl (· + ·) 0 ≤ 10 * cap ∧ (sampled 10 1801).cOp = 64
        ∧ 100 ≤ (sampled 100 1745).sinceRaise ∧ (sampled 99 1745).sinceRaise < 100 ∧ (sampled 100 1745).samples.length ≤ 100 ∧ (sampled 100 1745).changed = false ∧ ((sampled 100 1745).samples).foldl (· + ·) 0 < 97 * cap
        ∧ 97 * cap ≤ ((sampled 100 1746).samples).foldl (· + ·) 0)
    ∧ ({ up.power with cOp := 63 } : Power).cOp < 64
    ∧ (up.inService 0 = true ∧ bits (up.reg pwrLimitCfg) 16 10 = 95 ∧ (∃ t ∈ ((warm 1520 false).die 0).sensors, 16 * 95 ≤ t) ∧ (∀ t ∈ ((warm 1487 false).die 0).sensors, t < 16 * (95 - 2))
      ∧ ((warm 1599 true).die 0).hot = true ∧ (∀ t ∈ ((warm 1599 true).die 0).sensors, t < 16 * 100) ∧ (∃ t ∈ ((warm 1840 true).die 0).sensors, 16 * 115 ≤ t)) := by
  refine ⟨by decide, by decide, by decide, by decide⟩

/-! Supply, resets and start-up -/

theorem witness_SupplyRemovesRailsAndStarts :
    ({ up.board with standby := false } : Board).standby = false ∧ up.board.standby = true ∧ 54000 ≤ 54000 ∧ 54000 ≤ 66000 ∧ 53999 < 54000 ∧ 66000 < 66001 ∧ up.power.st ≠ .off
      ∧ State.reset.dev.board.standby = true ∧ State.reset.dev.power.st = .off ∧ up.board.unlock = none := by decide

theorem witness_ModuleLevelAndPartialResets :
    up.board.standby = true ∧ up.map.primary.isSome = true ∧ (0x8000A500#32).getLsbD 31 = true ∧ bits 0x8000A500#32 15 8 = 0xA5 ∧ bits 0x8000A400#32 15 8 ≠ 0xA5
      ∧ up.board.pwrEn = true ∧ up.board.j1Latch = false ∧ (0x4001A500#32).getLsbD 31 = false ∧ (0x4001A500#32).getLsbD 30 = true ∧ bits 0x4001A500#32 18 16 = (1 : DieId).val
      ∧ up.inService 1 = true ∧ (up.die 1).saf.resetting = false ∧ up.map.primary ≠ some 1 := by decide

theorem witness_HostLinkResetAndTraining :
    (∀ p, (running.part p).intr = none) ∧ (∀ p, (running.part p).run.all (fun r => !r.decided) = true ∧ ((running.part p).run.isSome = true → (running.part p).almanac.isSome = true))
    ∧ State.reset.dev.board.perst = true
    ∧ (let b := { up.board with linkUp := false, bifurcated := true }
       b.bifurcated = true ∧ b.perst = false ∧ b.linkUp = false)
    ∧ (1 ≤ up.board.stage ∧ up.board.perst = false ∧ up.board.linkUp = true ∧ 3 ≤ up.board.stage ∧ (∀ d, (up.die d).cls ≠ .unclassified) ∧ up.map.primary.isSome = true) := by decide

/-- Every die booted and not yet classified. -/
def booting (f : Die → Die) (stage : Nat) : Dev :=
  { up with dies := Vector.replicate 8 (f { Die.reset with booted := true }), board := { up.board with stage := stage } }

theorem witness_StartupClassifiesDies :
    (let m := booting id 1
     (m.die 7).booted = true ∧ (m.die 7).cls = .unclassified ∧ (m.die 7).rails = false)
    ∧ ((booting (fun x => { x with warmup := true }) 2).die 0).warmup = true ∧ ((booting (fun x => { x with refWait := true }) 2).die 0).refWait = true
    ∧ (let m := booting id 3
       m.board.stage = 3 ∧ ∃ e, (m.die e).cls = .unclassified) ∧ (up.die 0).cls ≠ .unclassified
    ∧ ((0x80#8).getLsbD 7 = true ∧ (0x80#8).getLsbD 6 = false) := by decide

/-- What a die finds at rails good, with REFV in range or not. -/
def found (ok : Bool) : RailsFound :=
  { cold := true, refclk := false, refvOk := ok, refv := 125000, vrefTrim := 5, ratio := 960000, trims := List.replicate 16 1, monO := 2, monG := 3, errors := [] }

theorem witness_DieRecord :
    (found true).refvOk = true ∧ (found false).refvOk = false ∧ (booting id 1).readStore (found false).errors 0 .die 0 0 = none
    ∧ ∃ p, (stored .die (.die 5 960000 (List.replicate 16 0) 2 3)).readStore [] 0 .die 0 0 = some (recd p) ∧ p = .die 5 960000 (List.replicate 16 0) 2 3 :=
  ⟨rfl, rfl, by decide, _, (stored_reads _ _ (by decide)).trans (by decide), rfl⟩

def unlocked (mask : BitVec 8) (priv : Bool) (m : Dev) : Dev :=
  { m with board := { m.board with unlock := some { openedAt := List.replicate 8 0, durationS := 1, mask := mask, margin := false, priv := priv }, testParts := 1 } }

theorem witness_TestHooksAndTestPort :
    (let m := unlocked 1 true loaded
     m.dieRegs 0 = true ∧ bits ((m.die 0).reg tstClassSel) 2 0 = 0 ∧ (m.board.unlock.map (fun u => (u.mask.getLsbD 0, u.priv))) = some (true, true) ∧ (m.die 0).stallSet = []
      ∧ ((unlocked 2 false loaded).board.unlock.map (fun u => (u.mask.getLsbD 0, u.priv))) = some (false, false)
      ∧ m.power.st ≠ .off ∧ m.board.testParts.getLsbD 0 = true ∧ m.board.testParts.getLsbD 1 = false ∧ (m.part 0).hasJob = true ∧ (m.elapsed (List.replicate 8 0)).toNat < 1 * 1000000000
      ∧ (0x80000000#32).getLsbD 31 = true ∧ (0x40000000#32).getLsbD 30 = true)
    ∧ (let m := (unlocked 1 true loaded).modDie 0 (fun x => { x with dcnt := 1000000000 })
       1 * 1000000000 ≤ (m.elapsed (List.replicate 8 0)).toNat)
    ∧ (up.board.standby = true ∧ up.board.testEn = false ∧ ({ up.board with testEn := true } : Board).testEn = true) := by decide

/-! Invariants: what they assume of a state holds at reset, and of the states here -/

theorem witness_FencedDiesNeverReturnToService :
    exec .bypass (st up) = .next ((st up).withDev { up with board := { up.board with ir := .bypass, pinsDriven := false, pinsFloat := false } }) ∧ up.fencedDie 7 = true ∧ up.inService 7 = false := by
  exact ⟨rfl, by decide, by decide⟩

/-- Bytes in stage SRAM and in a save area. -/
def dirty : Dev := up.modDie 0 (fun x => { x with sram := [(3, 1), (7, 2)], stack := { x.stack with mem := [(0, some 1)], save := some [(9, 9)] } })

theorem witness_MemoriesStayCanonical : MemoriesCanonical dirty := by
  refine ⟨fun d => ⟨by revert d; decide, by revert d; decide, fun x h => ?_⟩, by decide⟩
  have save : ∀ d : DieId, (dirty.die d).stack.save = if d = 0 then some [(9, 9)] else none := by decide
  rw [save] at h
  split at h
  · cases h; decide
  · cases h

theorem witness_SetUpRegistersStayInRange : SetUpInRange (up.modDie 0 (fun x => x.setReg stkRetireHi 0x1F)) := by
  unfold SetUpInRange RegInRange
  decide

theorem witness_CommittedStateChangesOnlyAtItsCommands : changesCommitted .bypass = false ∧ changesCommitted (.step 0 { input := [], index := [] }) = false ∧ changesCommitted (.commitPoint 0) = true := by decide

theorem witness_AcceptedSequenceNumbersNeverFall : ∃ t, step ({ st up with pending := [.bypass] }) = .next t := ⟨_, rfl⟩

/-! ### Ill-formed commands are refused -/

/-- A cube operation of one run. -/
def wfDesc : CubeDesc :=
  { kind := .madd, axisA := false, axisB := false, outT := false, accKeep := none
    runs := 1, lastLen := 64, resHalf := 0, backward := false, owner := 0 }

theorem wf_ok : (Instr.cubeOperation 0 0 wfDesc).wf = true ∧ (Instr.registerWrite 0x10000#20 0#32).wf = true
    ∧ (Instr.derpolRecordSend 16).wf = true ∧ (Instr.monitorRound 0 (List.replicate 24 25)).wf = true := by decide
theorem wf_unsupported : (Instr.unsupportedRegisterAccess 0x10000#20 4 true).wf = false := by decide
theorem wf_register_write : (Instr.registerWrite 0x10002#20 0#32).wf = false := by decide
theorem wf_block_row : (Instr.blockRowConversion 0 0 4096 0 0 (.input 0)).wf = false := by decide
theorem wf_stall : (Instr.handshakeStall 0 4 32).wf = false ∧ (Instr.handshakeStall 0 4 31).wf = true := by decide
def wfSample : ColSample := { group := 0, plane := 0, col := 0, fine := true, codes := [511] }
theorem wf_tile_pass : (Instr.tilePass 0 0 0 0 0 0 0#4 []).wf = false ∧ (Instr.tilePass 0 0 0 0 4096 0 1#4 []).wf = false
    ∧ (Instr.tilePass 0 0 0 0 0 0 1#4 [{ wfSample with col := 1152 }]).wf = false ∧ (Instr.tilePass 0 0 0 0 0 0 1#4 [{ wfSample with group := 4 }]).wf = false
    ∧ (Instr.tilePass 0 0 0 0 0 0 1#4 [{ wfSample with plane := 7 }]).wf = false ∧ (Instr.tilePass 0 0 0 0 0 0 1#4 [{ wfSample with codes := [512] }]).wf = false
    ∧ (Instr.tilePass 0 0 0 0 0 0 1#4 [{ wfSample with fine := false }]).wf = false := by decide
theorem wf_window_reads : (Instr.idleWindowOpen 0 0 { refReads := [], colCals := [{ leaf := 0, col := 1120, rows := [], undriven := [] }], found := [] }).wf = false
    ∧ (Instr.almanacWindowOpen 0 0 { refReads := [], colCals := [{ leaf := 0, col := 0, rows := [[-513]], undriven := [] }], found := [] }).wf = false := by decide
theorem wf_cube_operation : (Instr.cubeOperation 0 0 { wfDesc with kind := .cmp 6 }).wf = false
    ∧ (Instr.cubeOperation 0 0 { wfDesc with runs := 0 }).wf = false ∧ (Instr.cubeOperation 0 0 { wfDesc with runs := 65 }).wf = false
    ∧ (Instr.cubeOperation 0 0 { wfDesc with lastLen := 0 }).wf = false ∧ (Instr.cubeOperation 0 0 { wfDesc with lastLen := 65 }).wf = false := by decide
theorem wf_unit_parity : (Instr.unitParityError 0 true 1024).wf = false ∧ (Instr.unitParityError 0 false 64).wf = false := by decide
theorem wf_train : (Instr.writeTrainComplete 0 0 (.remap 256) 1 []).wf = false
    ∧ (Instr.writeTrainComplete 0 0 (.touchUp 0 0 [121]) 1 []).wf = false
    ∧ (Instr.writeTrainComplete 0 0 (.group 0 0) 1 [{ lane := 0, col := 1120, restoreFail := false }]).wf = false := by decide
theorem wf_monitor : (Instr.monitorRound 0 []).wf = false ∧ (Instr.vigilWake 0 [25] 0 0 0).wf = false := by decide
theorem wf_rotation : (Instr.converterRotationComplete 0 0 1296 (List.replicate 256 0) (List.replicate 256 0) (List.replicate 256 0) 0 0 0).wf = false
    ∧ (Instr.converterRotationComplete 0 0 0 [0] (List.replicate 256 0) (List.replicate 256 0) 0 0 0).wf = false
    ∧ (Instr.converterRotationComplete 0 0 0 (List.replicate 256 0) (List.replicate 256 32) (List.replicate 256 0) 0 0 0).wf = false := by decide
theorem wf_test_slice : (Instr.testSliceStart 0 .tile 4160).wf = false ∧ (Instr.testSliceStart 0 .cube 1024).wf = false
    ∧ (Instr.testSliceStart 0 .wunit 64).wf = false ∧ (Instr.testSliceStart 0 .lane 20).wf = false := by decide
theorem wf_measurements : (Instr.measurementRound []).wf = false := by decide
theorem wf_resource : (Instr.bindApply { kind := 8, die := 0, index := 0, leaf := 0 }).wf = false
    ∧ (Instr.bindApply { kind := 0, die := 8, index := 0, leaf := 0 }).wf = false
    ∧ (Instr.resourceReady { kind := 0, die := 0, index := 8192, leaf := 0 }).wf = false
    ∧ (Instr.resourceReady { kind := 0, die := 0, index := 0, leaf := 4 }).wf = false := by decide
theorem wf_derpol : (Instr.derpolRecordSend 0).wf = false ∧ (Instr.derpolRecordSend 17).wf = false := by decide
theorem wf_obj_data : (Instr.objData 0 0 []).wf = false ∧ (Instr.objData 0 0 (List.replicate 241 0#8)).wf = false := by decide

/-! ### Number formats: the values of chapter 2's tables and examples -/

/-- NF8 (R67): least, the 0.015625 step's first code, one, the greatest. -/
theorem test_nf8 : FVal.cmp (nf8Val 0x01#8) (.fin false 1 (-9)) = 0 ∧ FVal.cmp (nf8Val 0x08#8) (.fin false 1 (-6)) = 0
    ∧ FVal.cmp (nf8Val 0x38#8) (.fin false 1 0) = 0 ∧ FVal.cmp (nf8Val 0x7F#8) (.fin false 480 0) = 0 := by decide
/-- NG8 (R68). -/
theorem test_ng8 : FVal.cmp (ng8Val 0x04#8) (.fin false 1 (-14)) = 0 ∧ FVal.cmp (ng8Val 0x3C#8) (.fin false 1 0) = 0
    ∧ FVal.cmp (ng8Val 0x7B#8) (.fin false 57344 0) = 0 ∧ ng8Val 0x7C#8 = .inf false := by decide
/-- BS8: 0x01 is 2^-22, 0x08 is 2^-19, 0xA0 is 1.0, 0xFE is 3584. -/
theorem test_bs8 : FVal.cmp (bs8Val 0x01#8) (.fin false 1 (-22)) = 0 ∧ FVal.cmp (bs8Val 0x08#8) (.fin false 1 (-19)) = 0
    ∧ FVal.cmp (bs8Val 0xA0#8) (.fin false 1 0) = 0 ∧ FVal.cmp (bs8Val 0xFE#8) (.fin false 3584 0) = 0 := by decide
/-- The scales of the example of R73: 2.9/31 and 0.4/31. -/
theorem test_bs8_up : (bs8Up 29 310 0).1 = 0x84#8 ∧ (bs8Up 4 310 0).1 = 0x6E#8 := by decide
/-- The elements of that example, rounded to binary32 here: 1.17 is 12 and -2.9 is -31 at scale 0x84. -/
theorem test_bi6 : (biElem 6 0x84#8 (f32 0x3F95C28F#32)).1 = 12 ∧ (biElem 6 0x84#8 (f32 0xC039999A#32)).1 = -31
    ∧ (biElem 6 0x84#8 (f32 0x404CCCCD#32)).2.isSome = true := by decide
/-- The example of R65: m = 0.014040, scale code 0x4A, four trits. -/
theorem test_weight_code : (weightCode 4 false 0x4A#8 0x3C66099D#32 none).1 = 23 ∧ tw8 23 = 0x90#8 ∧ ofTw8 0x90#8 = 23
    ∧ trits 4 23 = [-1, -1, 0, 1] ∧ ofTrits [-1, -1, 0, 1] = 23 := by decide
/-- The examples of R79 at k = 0: 37.3, -0.0021 and 500. -/
theorem test_to_nf8 : toNF8 0 (f32 0x42153333#32) = (0x61#8, Tally.none) ∧ (toNF8 0 (f32 0xBB09A027#32)).1 = 0x81#8
    ∧ toNF8 0 (f32 0x43FA0000#32) = (0x7F#8, Tally.one true false false) := by decide
/-- binary32 arithmetic: 1 + 2, 3 x 2, ties to even, the fused product, 1/3. -/
theorem test_binary32 : add32 0x3F800000#32 0x40000000#32 = 0x40400000#32 ∧ mul32 0x40400000#32 0x40000000#32 = 0x40C00000#32
    ∧ add32 0x3F800000#32 0x33800000#32 = 0x3F800000#32 ∧ add32 0x3F800001#32 0x33800000#32 = 0x3F800002#32
    ∧ fma32 0x40000000#32 0x40400000#32 0x3F800000#32 = 0x40E00000#32 ∧ div32 0x3F800000#32 0x40400000#32 = 0x3EAAAAAB#32 := by decide
/-- The quiet NaN of an invalid operation, infinities, the square root of 4, and e^0, log 1. -/
theorem test_special : sub32 posInf32 posInf32 = nan32 ∧ add32 posInf32 0x3F800000#32 = posInf32 ∧ sqrt32 0x40800000#32 = 0x40000000#32
    ∧ exp32 0#32 = 0x3F800000#32 ∧ log32 0x3F800000#32 = 0#32 := by decide
/-- CRC-32C of "123456789" (R202). -/
theorem test_crc32c : crc32c [0x31#8, 0x32#8, 0x33#8, 0x34#8, 0x35#8, 0x36#8, 0x37#8, 0x38#8, 0x39#8] = 0xE3069283#32 := by decide
/-- Sizes of a completion record (R296), a Derpol record (R376) and its frame's header (R446). -/
theorem test_record_sizes : (completionBytes { status := 0, detail := 0, flags := 0, seq := 0, tag := 0, epoch := 0, slot := 0, healthy := 0, step := 0 }).length = 32
    ∧ (derpolHead 0 { seq := 1, ev := ev (.saf 1) }).length = 60 ∧ (derpolFrame 0 0 []).length = 22 := by decide
/-- AES-128: the first S-box entries, and the doubling of 0x80 in GF(256). -/
theorem test_aes : sbox 0x00#8 = 0x63#8 ∧ sbox 0x53#8 = 0xED#8 ∧ sbox 0xFF#8 = 0x16#8 ∧ xtime 0x80#8 = 0x1B#8 := by decide

/-! ### Single steps -/

/-- No word spells a command (the table gives no bits), and the reset queue is empty. -/
theorem test_no_words (n w : Nat) (s : State) : decodeTableWord n w = none ∧ s.withFetchWord n w = s := ⟨rfl, rfl⟩
theorem test_reset_queue : State.reset.pending = [] := rfl
/-- A step takes the front command and leaves the rest. -/
theorem test_front : step { st up with pending := [.clamp, .bypass] } = exec .clamp { st up with pending := [.bypass] } := rfl

/-- What a command leaves of the device. -/
def after (c : Instr) (m : Dev) : Dev := match exec c (st m) with
  | .next s => s.dev
  | _ => m

/-- IDCODE shifts out 0x18A104F3. -/
theorem test_idcode : (after .idcode { up with board := { up.board with standby := true } }).out.getLast? = some (.tdo 0x18A104F3#32) := by decide
/-- A private instruction without an unlock loads BYPASS. -/
theorem test_private : (after (.privateInstruction 9) { up with board := { up.board with standby := true } }).board.ir = .bypass := by decide
/-- A nanosecond of duration passes on an empty queue. -/
theorem test_tick : step (st up) = .next (st (tick up)) ∧ ((tick up).die 0).dcnt = 8 := by
  rw [tick_die]
  exact ⟨rfl, by decide⟩
/-- Reading CAL_DCNT_LO answers a value (R40). -/
theorem test_pair_read : ((after (.calDcntLoRead 0) up).out.getLast?.isSome) = true := by decide
/-- ALERT_CLEAR leaves the dies as they are. -/
theorem test_alert : (after .alertClear up).dies = up.dies := by decide
/-- The bytes of a block go from the highest, and back. -/
theorem test_bytes16 : bytes16 0x00112233445566778899AABBCCDDEEFF#128 = [0x00#8, 0x11#8, 0x22#8, 0x33#8, 0x44#8, 0x55#8, 0x66#8, 0x77#8,
      0x88#8, 0x99#8, 0xAA#8, 0xBB#8, 0xCC#8, 0xDD#8, 0xEE#8, 0xFF#8]
    ∧ ofBytes16 (bytes16 0x00112233445566778899AABBCCDDEEFF#128) = 0x00112233445566778899AABBCCDDEEFF#128 := by decide
/-- FIPS 197, appendix C.1. -/
theorem test_aes128 : aes128 0x000102030405060708090A0B0C0D0E0F#128 0x00112233445566778899AABBCCDDEEFF#128 = 0x69C4E0D86A7B0430D8CDB78070B4C55A#128 := by decide
/-- The hypotheses of SectionsFillTheirDirectoryLength meet, in each kind of clause. -/
theorem witness_SectionsFillTheirDirectoryLength :
    sectionForm almanac { typ := 1, variant := 0xFF, die := 0xFF, rsvd0 := 0, offset := 320, length := 128, count := 0, rsvd1 := 0 } = some (0, 128)
    ∧ sectionForm almanac { typ := 0xFF, variant := 0xFF, die := 0xFF, rsvd0 := 0, offset := 448, length := 16624, count := 0, rsvd1 := 0 }
        = some (0, 16624)
    ∧ (sectionForm almanac { typ := 2, variant := 0xFF, die := 0xFF, rsvd0 := 0, offset := 448, length := 64, count := 1, rsvd1 := 0 }).isSome := by decide
/-- The magic as bytes (R273), and a port as R320 names it. -/
theorem test_layout : (headerBytes { almanac with magic := magicAlmanac }).take 8
      = [0x4E#8, 0x56#8, 0x38#8, 0x41#8, 0x4C#8, 0x4D#8, 0x4E#8, 0x43#8]
    ∧ portByte { valid := true, die := 5, port := 2 } = 0xD2#8 ∧ flitHead 1 true false 0x123#12 2 5 = 0x61238005#32 := by decide
end Sys2Proof.Tests
end

namespace Sys2Proof.Machine
open Sys2Proof

/-! O57 (R45). Only the drop of a die, its start-up classification and the reset of the whole module write a die's class. So: one lemma for
each other operation and command, that it keeps every class; what fencing, a reset and the classification do to the classes; and from them the
two inversion lemmas over all commands, `exec_fencesOrWipes` and `execStartupTestDone_classifies`.

An equation that holds by unfolding is proved by `(rfl)`: as a `rfl` lemma simp would rewrite with it by unfolding alone, and could not use it for
the side condition of a loop or of an update. -/

/-- The class of every die. -/
def Dev.classes (m : Dev) : Vector DieClass 8 := m.dies.map Die.cls

@[simp] theorem Dev.map_cls_dies (m : Dev) : m.dies.map Die.cls = m.classes := (rfl)
@[simp] theorem Dev.classes_mk (b d p r ma bi po se fl di re dm ev rg o fr) :
    Dev.classes ⟨b, d, p, r, ma, bi, po, se, fl, di, re, dm, ev, rg, o, fr⟩ = d.map Die.cls := (rfl)
theorem Dev.classes_get (m : Dev) (d : DieId) : m.classes[d] = (m.die d).cls := Vector.getElem_map ..

/-! ### Branches and loops -/

@[simp] theorem ite_classes (c : Prop) [Decidable c] (a b : Dev) : (if c then a else b).classes = if c then a.classes else b.classes :=
  apply_ite Dev.classes c a b
@[simp] theorem when_classes (c : Bool) (f : Dev → Dev) (m : Dev) (h : ∀ m, (f m).classes = m.classes) : (when c f m).classes = m.classes := by
  cases c <;> simp [h]
@[simp] theorem foldl_classes {α : Type} (l : List α) (f : Dev → α → Dev) (m : Dev) (h : ∀ m a, (f m a).classes = m.classes) :
    (l.foldl f m).classes = m.classes := by
  induction l generalizing m with
  | nil => rfl
  | cons a l ih => rw [List.foldl_cons, ih, h]
@[simp] theorem foldl_fst_classes {α β : Type} (l : List α) (f : Dev × β → α → Dev × β) (s : Dev × β)
    (h : ∀ s a, (f s a).1.classes = s.1.classes) : (l.foldl f s).1.classes = s.1.classes := by
  induction l generalizing s with
  | nil => rfl
  | cons a l ih => rw [List.foldl_cons, ih, h]
@[simp] theorem ite_cls (c : Prop) [Decidable c] (a b : Die) : (if c then a else b).cls = if c then a.cls else b.cls := apply_ite Die.cls c a b
@[simp] theorem foldl_cls {α : Type} (l : List α) (f : Die → α → Die) (x : Die) (h : ∀ x a, (f x a).cls = x.cls) : (l.foldl f x).cls = x.cls := by
  induction l generalizing x with
  | nil => rfl
  | cons a l ih => rw [List.foldl_cons, ih, h]

@[simp] theorem Dev.modDie_classes (m : Dev) (d : DieId) (f : Die → Die) (h : ∀ x, (f x).cls = x.cls) : (m.modDie d f).classes = m.classes :=
  Vector.map_set_same _ _ _ _ _ (h _)

/-- No class changes where the meaning answers a next state. -/
def KeepsClasses (s : State) (r : Res) : Prop := ∀ t, r = .next t → t.dev.classes = s.dev.classes

theorem keepsClasses_go {s : State} {f : Dev → Dev} (h : ∀ m, (f m).classes = m.classes) : KeepsClasses s (s.go f) := by
  simp [KeepsClasses, h]
@[simp] theorem keepsClasses_next (s t : State) : KeepsClasses s (.next t) ↔ t.dev.classes = s.dev.classes := by
  simp [KeepsClasses]
@[simp] theorem keepsClasses_refused (s : State) (r : Refusal) : KeepsClasses s (.refused r) := by simp [KeepsClasses]

/-! ### Machine/Regs -/

@[simp] theorem Die.setReg_cls (x : Die) (r : RegDef) (v : Word) : (x.setReg r v).cls = x.cls := (rfl)
@[simp] theorem Dev.setReg_classes (m : Dev) (r : RegDef) (v : Word) : (m.setReg r v).classes = m.classes := (rfl)

/-! ### Machine/Ops -/

@[simp] theorem Dev.modPart_classes (m : Dev) (p : Pid) (f : Part → Part) : (m.modPart p f).classes = m.classes := (rfl)
@[simp] theorem Dev.modRing_classes (m : Dev) (k : SetId) (f : RingSet → RingSet) : (m.modRing k f).classes = m.classes := (rfl)
@[simp] theorem Dev.modCom_classes (m : Dev) (p : Pid) (f : Committed → Committed) : (m.modCom p f).classes = m.classes := (rfl)
@[simp] theorem Dev.modRun_classes (m : Dev) (p : Pid) (f : StepRun → StepRun) : (m.modRun p f).classes = m.classes := (rfl)
@[simp] theorem Die.modTile_cls (x : Die) (t : Nat) (f : Tile → Tile) : (x.modTile t f).cls = x.cls := (rfl)
@[simp] theorem Die.modLeaf_cls (x : Die) (t : Nat) (l : LeafId) (f : Leaf → Leaf) : (x.modLeaf t l f).cls = x.cls := (rfl)
@[simp] theorem Die.modCube_cls (x : Die) (c : Nat) (f : Cube → Cube) : (x.modCube c f).cls = x.cls := (rfl)
@[simp] theorem Die.modWunit_cls (x : Die) (u : Nat) (f : WUnit → WUnit) : (x.modWunit u f).cls = x.cls := (rfl)
@[simp] theorem Die.modPort_cls (x : Die) (p : PortId) (f : Port → Port) : (x.modPort p f).cls = x.cls := (rfl)
@[simp] theorem Dev.emit_classes (m : Dev) (o : Out) : (m.emit o).classes = m.classes := (rfl)
@[simp] theorem Dev.drawn_classes (m : Dev) (n : Nat) : (m.drawn n).classes = m.classes := (rfl)
@[simp] theorem Dev.eachHealthy_classes (m : Dev) (f : Die → Die) (h : ∀ x, (f x).cls = x.cls) : (m.eachHealthy f).classes = m.classes := by
  simp [h, Dev.eachHealthy]
@[simp] theorem Dev.publishMap_classes (m : Dev) : m.publishMap.classes = m.classes := (rfl)
@[simp] theorem Die.count_cls (x : Die) (k : CntKey) (n : Nat) : (x.count k n).cls = x.cls := (rfl)
@[simp] theorem Die.clearBlock_cls (x : Die) (blk : Nat) : (x.clearBlock blk).cls = x.cls := (rfl)
@[simp] theorem Die.clearOne_cls (x : Die) (k : CntKey) : (x.clearOne k).cls = x.cls := (rfl)
@[simp] theorem Dev.count_classes (m : Dev) (d : DieId) (k : CntKey) (n : Nat) : (m.count d k n).classes = m.classes := by simp [Dev.count]
@[simp] theorem Dev.countTally_classes (m : Dev) (d : DieId) (p : Pid) (layer cls : Nat) (t : Tally) :
    (m.countTally d p layer cls t).classes = m.classes := by
  simp [Dev.countTally]
@[simp] theorem Die.buffer_cls (x : Die) (e : Event) : (x.buffer e).cls = x.cls := by simp [Die.buffer]
@[simp] theorem Dev.record_classes (m : Dev) (det : Option DieId) (e : Event) : (m.record det e).classes = m.classes := by
  unfold Dev.record
  dsimp only
  split <;> simp
@[simp] theorem Dev.abortEntry_classes (m : Dev) (blk : Nat) : (m.abortEntry blk).classes = m.classes := by
  unfold Dev.abortEntry
  split <;> simp
@[simp] theorem Dev.raise_classes (m : Dev) (det : Option DieId) (e : Event) : (m.raise det e).classes = m.classes := by simp [Dev.raise]
@[simp] theorem Dev.raiseP_classes (m : Dev) (det : Option DieId) (p : Pid) (e : Event) : (m.raiseP det p e).classes = m.classes := by
  simp [Dev.raiseP]
@[simp] theorem Dev.setOwner_classes (m : Dev) (r : Resource) (p : Option Pid) : (m.setOwner r p).classes = m.classes := (rfl)
@[simp] theorem Dev.haltRing_classes (m : Dev) (k : SetId) (detail : Nat) : (m.haltRing k detail).classes = m.classes := by simp [Dev.haltRing]
@[simp] theorem Dev.completeHead_classes (m : Dev) (k : SetId) (status detail : Nat) (step : Dbl) (slot : Option Nat) (halts : Bool) :
    (m.completeHead k status detail step slot halts).classes = m.classes := by
  simp [Dev.completeHead]
@[simp] theorem Dev.reject_classes (m : Dev) (k : SetId) (detail : Nat) : (m.reject k detail).classes = m.classes := (rfl)
@[simp] theorem Dev.completeOk_classes (m : Dev) (k : SetId) : (m.completeOk k).classes = m.classes := (rfl)
@[simp] theorem Dev.setHead_classes (m : Dev) (k : SetId) (f : Held → Held) : (m.setHead k f).classes = m.classes := (rfl)
@[simp] theorem Dev.execHead_classes (m : Dev) (k : SetId) (op : Nat) (f : Held → Pid → Dev → Dev) (h : ∀ x y n, (f x y n).classes = n.classes) :
    (m.execHead k op f).classes = m.classes := by
  unfold Dev.execHead
  split <;> simp [h]
@[simp] theorem Dev.publish_classes (m : Dev) (k : SetId) (pay : Payload) : (m.publish k pay).1.classes = m.classes := by
  unfold Dev.publish
  dsimp only
  repeat' split
  all_goals simp
@[simp] theorem Die.dropPieces_cls (p : Pid) (x : Die) : (x.dropPieces p).cls = x.cls := (rfl)
@[simp] theorem Dev.dropStaged_classes (m : Dev) (p : Pid) : (m.dropStaged p).classes = m.classes := by simp [Dev.dropStaged]
@[simp] theorem Dev.rejectArmed_classes (m : Dev) (p : Pid) : (m.rejectArmed p).classes = m.classes := by
  unfold Dev.rejectArmed
  split <;> simp
@[simp] theorem Dev.publishIfCalm_classes (m : Dev) : m.publishIfCalm.classes = m.classes := by simp [Dev.publishIfCalm]
@[simp] theorem Dev.stopJob_classes (m : Dev) (p : Pid) : (m.stopJob p).classes = m.classes := by simp [Dev.stopJob]

/-! ### Machine/LinkOps -/

@[simp] theorem Dev.emitFlit_classes (m : Dev) (d : DieId) (q : PortId) (f : TxFlit) : (m.emitFlit d q f).classes = m.classes := by
  simp [Dev.emitFlit]
@[simp] theorem Dev.pump_classes (m : Dev) (d : DieId) (q : PortId) : (m.pump d q).classes = m.classes := by simp [Dev.pump]
@[simp] theorem Dev.sendOn_classes (m : Dev) (d : DieId) (q : PortId) (f : Frame) : (m.sendOn d q f).classes = m.classes := by simp [Dev.sendOn]
@[simp] theorem Dev.sendRing_classes (m : Dev) (p : Pid) (g : RingEntry) (f : Frame) : (m.sendRing p g f).classes = m.classes := by
  unfold Dev.sendRing
  split <;> simp
@[simp] theorem Dev.takeMark_classes (m : Dev) (p : Pid) (k : Nat) : (m.takeMark p k).classes = m.classes := (rfl)
@[simp] theorem Dev.sendMarks_classes (m : Dev) (p : Pid) (k : Nat) : (m.sendMarks p k).classes = m.classes := by
  unfold Dev.sendMarks
  dsimp only
  split <;> simp
@[simp] theorem Dev.settlePorts_classes (m : Dev) (p : Pid) : (m.settlePorts p).classes = m.classes := by simp [Dev.settlePorts]

/-! ### Machine/StepOps -/

@[simp] theorem Dev.countDecision_classes (m : Dev) (k : CntKey) (n : Nat) : (m.countDecision k n).classes = m.classes := by
  unfold Dev.countDecision
  split <;> simp
@[simp] theorem Dev.countClamp_classes (m : Dev) (p : Pid) (a : Container) (l cls : Nat) : (m.countClamp p a l cls).classes = m.classes := by
  unfold Dev.countClamp
  split <;> simp
@[simp] theorem Dev.fixExps_classes (m : Dev) (p : Pid) (a : Container) (t : Tab Word) (put : Tab Int → Committed → Committed) :
    (m.fixExps p a t put).classes = m.classes := by
  simp [Dev.fixExps]
@[simp] theorem Dev.fixMasters_classes (m : Dev) (p : Pid) : (m.fixMasters p).classes = m.classes := by
  unfold Dev.fixMasters
  split <;> simp
@[simp] theorem Dev.fixEpacts_classes (m : Dev) (p : Pid) : (m.fixEpacts p).classes = m.classes := by
  unfold Dev.fixEpacts
  split <;> simp
@[simp] theorem Dev.leaveDigital_classes (m : Dev) (p : Pid) (a : Container) : (m.leaveDigital p a).classes = m.classes := by
  simp [Dev.leaveDigital]
@[simp] theorem Dev.returnUnits_classes (m : Dev) (p : Pid) : (m.returnUnits p).classes = m.classes := foldl_classes _ _ _ fun n d => by simp
@[simp] theorem Dev.countScales_classes (m : Dev) (p : Pid) (sc : Scales) : (m.countScales p sc).classes = m.classes := by simp [Dev.countScales]
@[simp] theorem Dev.beginStep_classes (m : Dev) (p : Pid) (k : SetId) (isForward replaying : Bool) (tokens : Nat) (inp : StepInput) :
    (m.beginStep p k isForward replaying tokens inp).classes = m.classes := by
  unfold Dev.beginStep
  split <;> simp
@[simp] theorem Dev.endProbe_classes (m : Dev) (p : Pid) : (m.endProbe p).classes = m.classes := by
  unfold Dev.endProbe
  split <;> simp
@[simp] theorem Dev.missedPreempt_classes (m : Dev) (p : Pid) (n : Dbl) : (m.missedPreempt p n).classes = m.classes := by
  unfold Dev.missedPreempt
  split <;> simp
@[simp] theorem Dev.settleUnits_classes (m : Dev) (p : Pid) : (m.settleUnits p).classes = m.classes := by simp [Dev.settleUnits]
@[simp] theorem Dev.completeStep_classes (m : Dev) (k : SetId) (status detail : Nat) (step : Dbl) (slot : Option Nat) :
    (m.completeStep k status detail step slot).classes = m.classes := by
  simp [Dev.completeStep]
@[simp] theorem Dev.abortStep_classes (m : Dev) (p : Pid) (c : AbortCause) : (m.abortStep p c).classes = m.classes := by
  unfold Dev.abortStep
  split <;> simp

/-! ### Machine/RingOps -/

@[simp] theorem Dev.readLine_classes (m : Dev) (k : SetId) (l : Doorbell) : (m.readLine k l).classes = m.classes := by simp [Dev.readLine]
@[simp] theorem Dev.readKept_classes (m : Dev) (ks : List SetId) : (m.readKept ks).classes = m.classes :=
  foldl_classes _ _ _ fun n a => by split <;> simp

/-! ### Machine/Faults -/

@[simp] theorem Dev.stopWindows_classes (m : Dev) (p : Pid) : (m.stopWindows p).classes = m.classes := by simp [Dev.stopWindows]
@[simp] theorem Dev.endJob_classes (m : Dev) (p : Pid) : (m.endJob p).classes = m.classes := by simp [Dev.endJob]
@[simp] theorem Dev.secondFault_classes (m : Dev) (det : Option DieId) (p : Pid) : (m.secondFault det p).classes = m.classes := by
  simp [Dev.secondFault]
@[simp] theorem Dev.interrupt_classes (m : Dev) (det : Option DieId) (p : Pid) (i : Interrupt) : (m.interrupt det p i).classes = m.classes := by
  unfold Dev.interrupt
  dsimp only
  repeat' split
  all_goals simp
@[simp] theorem Dev.movePlan_classes (m : Dev) (old new : List Region) : (m.movePlan old new).classes = m.classes := by simp [Dev.movePlan]
@[simp] theorem Dev.rollback_classes (m : Dev) (det : Option DieId) (ps : List Pid) (action : Nat) :
    (m.rollback det ps action).classes = m.classes := by
  simp [Dev.rollback]
@[simp] theorem Die.eachPort_cls (x : Die) (f : Port → Port) : (x.eachPort f).cls = x.cls := by simp [Die.eachPort]
@[simp] theorem Dev.electAfter_classes (m : Dev) (old : Option DieId) : (m.electAfter old).classes = m.classes := by
  unfold Dev.electAfter
  dsimp only
  split <;> simp
@[simp] theorem Dev.dieLoss_classes (m : Dev) (d : DieId) (p : Pid) : (m.dieLoss d p).classes = m.classes := by
  unfold Dev.dieLoss
  dsimp only
  repeat' split
  all_goals simp
@[simp] theorem Dev.tooFew_classes (m : Dev) : m.tooFew.classes = m.classes := by simp [Dev.tooFew]
@[simp] theorem Dev.restart_classes (m : Dev) (p : Pid) : (m.restart p).classes = m.classes := by
  unfold Dev.restart
  split <;> simp
@[simp] theorem Dev.resumePart_classes (m : Dev) (p : Pid) : (m.resumePart p).classes = m.classes := by
  unfold Dev.resumePart
  split <;> simp
@[simp] theorem Dev.storm_classes (m : Dev) (p : Pid) (a : Container) : (m.storm p a).classes = m.classes := by simp [Dev.storm]

/-! ### Machine/WeightOps -/

@[simp] theorem Die.startLeaf_cls (x : Die) (t : Nat) (l : LeafId) (byDesc : Bool) (codes : Tab Int) (scales : Tab Byte) :
    (x.startLeaf t l byDesc codes scales).cls = x.cls :=
  (rfl)
@[simp] theorem Dev.programLeaf_classes (m : Dev) (p : Pid) (d : DieId) (t : Nat) (l : LeafId) (byDesc : Bool) :
    (m.programLeaf p d t l byDesc).classes = m.classes := by
  unfold Dev.programLeaf
  split <;> simp
@[simp] theorem Dev.programHeld_classes (m : Dev) (p : Pid) (d : DieId) (t : Nat) (l : LeafId) (byDesc : Bool) (scales : Tab Byte) :
    (m.programHeld p d t l byDesc scales).classes = m.classes := by
  unfold Dev.programHeld
  split <;> simp
@[simp] theorem Dev.rebuildTables_classes (m : Dev) (p : Pid) (d : DieId) (bs : List Nat) : (m.rebuildTables p d bs).classes = m.classes := by
  unfold Dev.rebuildTables
  split <;> simp
@[simp] theorem Dev.refixEpacts_classes (m : Dev) (p : Pid) (die : Nat → Option DieId) (ls : List Nat) :
    (m.refixEpacts p die ls).classes = m.classes :=
  foldl_classes _ _ _ fun n a => by split <;> simp
@[simp] theorem Dev.recordSites_classes (m : Dev) (p : Pid) (d : DieId) (ss : List Site) : (m.recordSites p d ss).classes = m.classes := by
  unfold Dev.recordSites
  split <;> simp
@[simp] theorem Dev.leafRecord_classes (m : Dev) (p : Pid) (d : DieId) (t : Nat) (l : LeafId) : (m.leafRecord p d t l).classes = m.classes := by
  unfold Dev.leafRecord
  split <;> simp

/-! ### Machine/TileOps -/

@[simp] theorem Die.phases_cls (x : Die) (cap draw : Nat) (strobe5 : Bool) (t n : Nat) : (x.phases cap draw strobe5 t n).cls = x.cls := (rfl)

/-! ### Machine/Rings -/

@[simp] theorem execDoorbellSnoop_keepsClasses (k : SetId) (l : Doorbell) (s : State) : KeepsClasses s (execDoorbellSnoop k l s) := by
  simp [execDoorbellSnoop]
@[simp] theorem execDescriptorAccept_keepsClasses (k : SetId) (d : Desc) (s : State) : KeepsClasses s (execDescriptorAccept k d s) := by
  simp [execDescriptorAccept]
@[simp] theorem execNop_keepsClasses (k : SetId) (s : State) : KeepsClasses s (execNop k s) := by simp [execNop]
@[simp] theorem Dev.barrier_classes (m : Dev) (k : SetId) : (m.barrier k).classes = m.classes := by simp [Dev.barrier]
@[simp] theorem execBarrier_keepsClasses (k : SetId) (s : State) : KeepsClasses s (execBarrier k s) := by simp [execBarrier]
@[simp] theorem Dev.settleUnknown_classes (m : Dev) (k : SetId) : (m.settleUnknown k).classes = m.classes := by
  unfold Dev.settleUnknown
  split <;> simp
@[simp] theorem execCompletionWrite_keepsClasses (k : SetId) (s : State) : KeepsClasses s (execCompletionWrite k s) :=
  keepsClasses_go fun m => by
    dsimp only
    repeat' split
    all_goals simp
@[simp] theorem Dev.badAccess_classes (m : Dev) : m.badAccess.classes = m.classes := by simp [Dev.badAccess]
@[simp] theorem execResultWindowRead_keepsClasses (addr : BitVec 28) (s : State) : KeepsClasses s (execResultWindowRead addr s) := by
  simp [execResultWindowRead]
@[simp] theorem execResultWindowWrite_keepsClasses (addr : BitVec 28) (s : State) : KeepsClasses s (execResultWindowWrite addr s) := by
  simp [execResultWindowWrite]
@[simp] theorem Dev.writeRingCtrl_classes (m : Dev) (v : Word) : (m.writeRingCtrl v).classes = m.classes := by
  unfold Dev.writeRingCtrl
  dsimp only
  repeat' split
  all_goals simp
@[simp] theorem execRingEnable_keepsClasses (v : Word) (s : State) : KeepsClasses s (execRingEnable v s) := by simp [execRingEnable]
@[simp] theorem execRingDisable_keepsClasses (v : Word) (s : State) : KeepsClasses s (execRingDisable v s) := by simp [execRingDisable]
@[simp] theorem execRingHaltClear_keepsClasses (s : State) : KeepsClasses s (execRingHaltClear s) := by simp [execRingHaltClear]
@[simp] theorem execRingBadClear_keepsClasses (s : State) : KeepsClasses s (execRingBadClear s) := by simp [execRingBadClear]

/-! ### Machine/SetupOps -/

@[simp] theorem Dev.waitHead_classes (m : Dev) (k : SetId) (h : Held) : (m.waitHead k h).classes = m.classes := by simp [Dev.waitHead]
@[simp] theorem Dev.refuseObject_classes (m : Dev) (p : Pid) (k : SetId) (detail : Nat) (almanac : Bool) :
    (m.refuseObject p k detail almanac).classes = m.classes := by
  simp [Dev.refuseObject]
@[simp] theorem Dev.clearLeaves_classes (m : Dev) (p : Pid) (d : DieId) : (m.clearLeaves p d).classes = m.classes := by simp [Dev.clearLeaves]
@[simp] theorem Dev.placeLeaves_classes (m : Dev) (a : Container) (d : DieId) : (m.placeLeaves a d).classes = m.classes := by
  simp [Dev.placeLeaves]
@[simp] theorem Dev.installAlmanac_classes (m : Dev) (p : Pid) (a : Container) (v : Nat) : (m.installAlmanac p a v).classes = m.classes := by
  simp [Dev.installAlmanac]
@[simp] theorem Dev.recordLeaves_classes (m : Dev) (p : Pid) (ls : List (DieId × Nat × LeafId)) : (m.recordLeaves p ls).classes = m.classes := by
  unfold Dev.recordLeaves
  split <;> simp
@[simp] theorem Dev.loadWeights_classes (m : Dev) (p : Pid) (a : Container) (w : WPackage) : (m.loadWeights p a w).classes = m.classes := by
  simp [Dev.loadWeights]
@[simp] theorem Dev.settleLeafProgram_classes (m : Dev) (p : Pid) : (m.settleLeafProgram p).classes = m.classes :=
  foldl_classes _ _ _ fun n a => by split <;> simp
@[simp] theorem Dev.restoreImage_classes (m : Dev) (p : Pid) (a : Container) (i : Image) : (m.restoreImage p a i).classes = m.classes := by
  simp [Dev.restoreImage]

/-! ### Machine/Windows -/

@[simp] theorem Dev.raiseLeaf_classes (m : Dev) (d : DieId) (t : Nat) (l : LeafId) (c : Ev) (layer : Option Nat) :
    (m.raiseLeaf d t l c layer).classes = m.classes := by
  simp [Dev.raiseLeaf]
@[simp] theorem Dev.raiseTile_classes (m : Dev) (d : DieId) (t : Nat) (c : Ev) : (m.raiseTile d t c).classes = m.classes := by
  simp [Dev.raiseTile]
@[simp] theorem Dev.countWr_classes (m : Dev) (d : DieId) (t : Nat) (l : LeafId) (kind : Nat) (ls : List Nat) (n : Nat) :
    (m.countWr d t l kind ls n).classes = m.classes := by
  unfold Dev.countWr
  split <;> simp
@[simp] theorem Die.recordDue_cls (x : Die) (k : StoreKind) (t l : Nat) : (x.recordDue k t l).cls = x.cls := (rfl)
@[simp] theorem Dev.failCol_classes (m : Dev) (d : DieId) (t col : Nat) : (m.failCol d t col).classes = m.classes := by simp [Dev.failCol]
@[simp] theorem Die.diagWindow_cls (x : Die) (t : Nat) (opens : Bool) : (x.diagWindow t opens).cls = x.cls := by simp [Die.diagWindow]
@[simp] theorem Dev.openWindow_classes (m : Dev) (d : DieId) (t : Nat) (kind : WinKind) (reads : WindowReads) :
    (m.openWindow d t kind reads).classes = m.classes := by
  simp [Dev.openWindow]
@[simp] theorem Dev.verifyFail_classes (m : Dev) (d : DieId) (t : Nat) (l : LeafId) (col : Nat) (again : Bool) (layer : Option Nat) :
    (m.verifyFail d t l col again layer).classes = m.classes := by
  simp [Dev.verifyFail]
@[simp] theorem Dev.trainGroup_classes (m : Dev) (d : DieId) (t : Nat) (w : Window) (l : LeafId) (row trains : Nat) (fails : List VerifyFail) :
    (m.trainGroup d t w l row trains fails).classes = m.classes := by
  simp [Dev.trainGroup]
@[simp] theorem Dev.trainRemap_classes (m : Dev) (d : DieId) (t : Nat) (w : Window) (r : Remap) (row trains : Nat) (fails : List VerifyFail) :
    (m.trainRemap d t w r row trains fails).classes = m.classes := by
  simp [Dev.trainRemap]
@[simp] theorem Dev.trainTouch_classes (m : Dev) (d : DieId) (t : Nat) (l : LeafId) (row trains : Nat) (lanes : List Nat) :
    (m.trainTouch d t l row trains lanes).classes = m.classes := by
  simp [Dev.trainTouch]
@[simp] theorem Dev.trainRow_classes (m : Dev) (d : DieId) (t : Nat) (w : Window) (l : LeafId) (row trains : Nat) (fails : List VerifyFail) :
    (m.trainRow d t w l row trains fails).classes = m.classes := by
  simp [Dev.trainRow]
@[simp] theorem Dev.trainSweep_classes (m : Dev) (d : DieId) (t : Nat) (l : LeafId) (fails : List VerifyFail) :
    (m.trainSweep d t l fails).classes = m.classes := by
  simp [Dev.trainSweep]
@[simp] theorem execWriteTrainComplete_keepsClasses (d : DieId) (t : TileId) (work : TrainWork) (trains : Nat) (fails : List VerifyFail)
    (s : State) :
    KeepsClasses s (execWriteTrainComplete d t work trains fails s) :=
  keepsClasses_go fun m => by
    dsimp only
    repeat' split
    all_goals simp
@[simp] theorem Dev.recordLeaf_classes (m : Dev) (d : DieId) (t : Nat) (w : Window) (l : LeafId) :
    (m.recordLeaf d t w l).classes = m.classes := by
  unfold Dev.recordLeaf
  split <;> simp
@[simp] theorem Dev.raiseRefs_classes (m : Dev) (d : DieId) (t : Nat) (w : Window) : (m.raiseRefs d t w).classes = m.classes := by
  simp [Dev.raiseRefs]
@[simp] theorem Dev.settleRemaps_classes (m : Dev) (d : DieId) (t : Nat) : (m.settleRemaps d t).classes = m.classes := by simp [Dev.settleRemaps]
@[simp] theorem Dev.takeOwners_classes (m : Dev) (d : DieId) (t n : Nat) : (m.takeOwners d t n).classes = m.classes := by simp [Dev.takeOwners]
@[simp] theorem Dev.settleRetire_classes (m : Dev) (d : DieId) (t : Nat) : (m.settleRetire d t).classes = m.classes := by
  unfold Dev.settleRetire
  dsimp only
  split
  · rfl
  · split
    · simp
    · split
      · rw [Dev.raiseTile_classes, foldl_classes]
        · simp
        · intro n l
          split <;> simp
      · simp
@[simp] theorem Die.showTile_cls (x : Die) (t : Nat) : (x.showTile t).cls = x.cls := (rfl)
@[simp] theorem Dev.settleBand_classes (m : Dev) (d : DieId) (t : Nat) : (m.settleBand d t).classes = m.classes := by simp [Dev.settleBand]
@[simp] theorem Dev.recordRefresh_classes (m : Dev) (d : DieId) (t : Nat) (w : Window) : (m.recordRefresh d t w).classes = m.classes := (rfl)
@[simp] theorem Die.settleService_cls (x : Die) (t : Nat) : (x.settleService t).cls = x.cls := by simp [Die.settleService]
@[simp] theorem Dev.closeWindow_classes (m : Dev) (d : DieId) (t : Nat) : (m.closeWindow d t).classes = m.classes := by
  unfold Dev.closeWindow
  split <;> simp
@[simp] theorem execAlmanacWindowOpen_keepsClasses (d : DieId) (t : TileId) (reads : WindowReads) (s : State) :
    KeepsClasses s (execAlmanacWindowOpen d t reads s) :=
  keepsClasses_go fun m => by split <;> simp
@[simp] theorem execIdleWindowOpen_keepsClasses (d : DieId) (t : TileId) (reads : WindowReads) (s : State) :
    KeepsClasses s (execIdleWindowOpen d t reads s) := by
  simp [execIdleWindowOpen]
@[simp] theorem execWindowClose_keepsClasses (d : DieId) (t : TileId) (s : State) : KeepsClasses s (execWindowClose d t s) := by
  simp [execWindowClose]
@[simp] theorem Dev.closeWindows_classes (m : Dev) (p : Pid) : (m.closeWindows p).classes = m.classes := by simp [Dev.closeWindows]
@[simp] theorem execRefreshDue_keepsClasses (d : DieId) (t : TileId) (l : LeafId) (s : State) : KeepsClasses s (execRefreshDue d t l s) := by
  simp [execRefreshDue]
@[simp] theorem execRefreshOverdue_keepsClasses (d : DieId) (t : TileId) (l : LeafId) (s : State) :
    KeepsClasses s (execRefreshOverdue d t l s) := by
  simp [execRefreshOverdue]
@[simp] theorem Dev.leafProgrammed_classes (m : Dev) (d : DieId) (t : Nat) (l : LeafId) : (m.leafProgrammed d t l).classes = m.classes := by
  unfold Dev.leafProgrammed
  dsimp only
  repeat' split
  all_goals simp
@[simp] theorem execLeafProgramComplete_keepsClasses (d : DieId) (t : TileId) (l : LeafId) (s : State) :
    KeepsClasses s (execLeafProgramComplete d t l s) := by
  simp [execLeafProgramComplete]
@[simp] theorem Dev.clearOn_classes (m : Dev) (d : DieId) (blk : Nat) : (m.clearOn d blk).classes = m.classes := by simp [Dev.clearOn]
@[simp] theorem Dev.clearLayerSel_classes (m : Dev) (d : DieId) (sel : RegDef) (kinds : Nat) (key : Pid → Nat → Nat → CntKey) :
    (m.clearLayerSel d sel kinds key).classes = m.classes := by
  simp [Dev.clearLayerSel]
@[simp] theorem execWrClearAll_keepsClasses (d : DieId) (s : State) : KeepsClasses s (execWrClearAll d s) := by simp [execWrClearAll]
@[simp] theorem execWrClearSel_keepsClasses (d : DieId) (s : State) : KeepsClasses s (execWrClearSel d s) := by simp [execWrClearSel]
@[simp] theorem execAniClearAll_keepsClasses (d : DieId) (s : State) : KeepsClasses s (execAniClearAll d s) := by simp [execAniClearAll]
@[simp] theorem execAniClearSel_keepsClasses (d : DieId) (s : State) : KeepsClasses s (execAniClearSel d s) := by simp [execAniClearSel]

/-! ### Machine/Store -/

@[simp] theorem Dev.storeCopy_classes (m : Dev) (d : DieId) (k : StoreKind) (t : Nat) (l : LeafId) (second : Bool) :
    (m.storeCopy d k t l second).classes = m.classes := by
  simp [Dev.storeCopy]
@[simp] theorem Dev.eraseCopy_classes (m : Dev) (d : DieId) (k : StoreKind) (t : Nat) (l : LeafId) (second : Bool) :
    (m.eraseCopy d k t l second).classes = m.classes :=
  (rfl)
@[simp] theorem Dev.storeRecord_classes (m : Dev) (d : DieId) (k : StoreKind) (t : Nat) (l : LeafId) :
    (m.storeRecord d k t l).classes = m.classes := by
  simp [Dev.storeRecord]
@[simp] theorem execStoreRecordWrite_keepsClasses (d : DieId) (k : StoreKind) (t : TileId) (l : LeafId) (failures : Nat) (s : State) :
    KeepsClasses s (execStoreRecordWrite d k t l failures s) := by
  simp [execStoreRecordWrite]

/-! ### Machine/Calibration -/

@[simp] theorem Die.takeReadings_cls (x : Die) (rs : List Int) : (x.takeReadings rs).cls = x.cls := (rfl)
@[simp] theorem Die.noteCold_cls (x : Die) : x.noteCold.cls = x.cls := (rfl)
@[simp] theorem Die.feel_cls (x : Die) : x.feel.cls = x.cls := by simp [Die.feel]
@[simp] theorem Dev.overtemp_classes (m : Dev) (d : DieId) : (m.overtemp d).classes = m.classes := by simp [Dev.overtemp]
@[simp] theorem Dev.feelTemps_classes (m : Dev) (d : DieId) : (m.feelTemps d).classes = m.classes := by simp [Dev.feelTemps]
@[simp] theorem Dev.takeRound_classes (m : Dev) (d : DieId) (rs : List Int) : (m.takeRound d rs).classes = m.classes := by simp [Dev.takeRound]
@[simp] theorem execMonitorRound_keepsClasses (d : DieId) (rs : List Int) (s : State) : KeepsClasses s (execMonitorRound d rs s) := by
  simp [execMonitorRound]
@[simp] theorem Dev.compareRefs_classes (m : Dev) (d : DieId) (refv band vref : Nat) : (m.compareRefs d refv band vref).classes = m.classes := by
  simp [Dev.compareRefs]
@[simp] theorem execReferenceComparison_keepsClasses (d : DieId) (refv band vref : Nat) (s : State) :
    KeepsClasses s (execReferenceComparison d refv band vref s) := by
  simp [execReferenceComparison]
@[simp] theorem execAnalogSupplyFault_keepsClasses (d : DieId) (s : State) : KeepsClasses s (execAnalogSupplyFault d s) := by
  simp [execAnalogSupplyFault]
@[simp] theorem execAnalogSupplyRecovered_keepsClasses (d : DieId) (s : State) : KeepsClasses s (execAnalogSupplyRecovered d s) := by
  simp [execAnalogSupplyRecovered]
@[simp] theorem execConverterRotationComplete_keepsClasses (d : DieId) (t : TileId) (conv : Nat) (zero pfs nfs : List Int)
    (supRd supCnv diode : Int) (s : State) :
    KeepsClasses s (execConverterRotationComplete d t conv zero pfs nfs supRd supCnv diode s) := by
  simp [execConverterRotationComplete]
@[simp] theorem execTrackingIntervalEnd_keepsClasses (d : DieId) (t : TileId) (l : LeafId) (s : State) :
    KeepsClasses s (execTrackingIntervalEnd d t l s) :=
  keepsClasses_go fun m => by
    dsimp only
    split <;> simp
@[simp] theorem execTrackingValueReady_keepsClasses (d : DieId) (t : TileId) (l : LeafId) (s : State) :
    KeepsClasses s (execTrackingValueReady d t l s) :=
  keepsClasses_go fun m => by
    dsimp only
    split <;> simp
@[simp] theorem execTrackingAgeExpired_keepsClasses (d : DieId) (t : TileId) (l : LeafId) (s : State) :
    KeepsClasses s (execTrackingAgeExpired d t l s) := by
  simp [execTrackingAgeExpired]
@[simp] theorem execCnvDiagGo_keepsClasses (d : DieId) (v : Word) (s : State) : KeepsClasses s (execCnvDiagGo d v s) := by simp [execCnvDiagGo]
@[simp] theorem execCnvDiagDone_keepsClasses (d : DieId) (codes : List Int) (s : State) : KeepsClasses s (execCnvDiagDone d codes s) := by
  simp [execCnvDiagDone]
@[simp] theorem execCnvClipClear_keepsClasses (d : DieId) (s : State) : KeepsClasses s (execCnvClipClear d s) := by simp [execCnvClipClear]

/-! ### Machine/Counters -/

@[simp] theorem Dev.clearKey_classes (m : Dev) (d : DieId) (ok : Bool) (k : CntKey) : (m.clearKey d ok k).classes = m.classes := by
  simp [Dev.clearKey]
@[simp] theorem execOvfClearAll_keepsClasses (d : DieId) (s : State) : KeepsClasses s (execOvfClearAll d s) := by simp [execOvfClearAll]
@[simp] theorem execOvfClearSel_keepsClasses (d : DieId) (s : State) : KeepsClasses s (execOvfClearSel d s) := by simp [execOvfClearSel]
@[simp] theorem execForceWarmup_keepsClasses (d : DieId) (s : State) : KeepsClasses s (execForceWarmup d s) := by simp [execForceWarmup]
@[simp] theorem execMceClearAll_keepsClasses (d : DieId) (s : State) : KeepsClasses s (execMceClearAll d s) := by simp [execMceClearAll]
@[simp] theorem execMceClearSel_keepsClasses (d : DieId) (s : State) : KeepsClasses s (execMceClearSel d s) := by simp [execMceClearSel]
@[simp] theorem execStepCntClearAll_keepsClasses (d : DieId) (s : State) : KeepsClasses s (execStepCntClearAll d s) := by
  simp [execStepCntClearAll]
@[simp] theorem execStepCntClearSel_keepsClasses (d : DieId) (s : State) : KeepsClasses s (execStepCntClearSel d s) := by
  simp [execStepCntClearSel]
@[simp] theorem execSmpCfgWrite_keepsClasses (d : DieId) (v : Word) (s : State) : KeepsClasses s (execSmpCfgWrite d v s) := by
  simp [execSmpCfgWrite]
@[simp] theorem execSmpClearAll_keepsClasses (d : DieId) (s : State) : KeepsClasses s (execSmpClearAll d s) := by simp [execSmpClearAll]
@[simp] theorem execSmpClearSel_keepsClasses (d : DieId) (s : State) : KeepsClasses s (execSmpClearSel d s) := by simp [execSmpClearSel]

/-! ### Machine/Sources -/

@[simp] theorem Die.put_cls (x : Die) (p : Pid) (addr : Nat) (fmt : PieceFmt) (k : Int) (bs : List Byte) :
    (x.put p addr fmt k bs).cls = x.cls := by
  simp [Die.put]
@[simp] theorem Die.putWords_cls (x : Die) (p : Pid) (addr : Nat) (ws : List Word) : (x.putWords p addr ws).cls = x.cls := by simp [Die.putWords]
@[simp] theorem Die.putCodes_cls (x : Die) (p : Pid) (addr : Nat) (fmt : PieceFmt) (k : Int) (cs : List Byte) :
    (x.putCodes p addr fmt k cs).cls = x.cls := by
  simp [Die.putCodes]

/-! ### Machine/Forward -/

@[simp] theorem Dev.addAmax_classes (m : Dev) (p : Pid) (i : Nat) (cap : Option (Nat × Int)) (vs : List Word) :
    (m.addAmax p i cap vs).classes = m.classes :=
  (rfl)
@[simp] theorem Dev.stash_classes (m : Dev) (p : Pid) (d : DieId) (i : Nat) : (m.stash p d i).classes = m.classes := by
  unfold Dev.stash
  repeat' split
  all_goals simp
@[simp] theorem Dev.settleBlock_classes (m : Dev) (p : Pid) (d : DieId) (l : Nat) (abort : Bool) (se : Settled) :
    (m.settleBlock p d l abort se).classes = m.classes := by
  unfold Dev.settleBlock
  dsimp only
  repeat' split
  all_goals simp
@[simp] theorem execBlockRowConversion_keepsClasses (p : Pid) (d : DieId) (l row b : Nat) (src : Src) (s : State) :
    KeepsClasses s (execBlockRowConversion p d l row b src s) :=
  keepsClasses_go fun m => by
    dsimp only
    repeat' split
    all_goals simp
@[simp] theorem execTilePass_keepsClasses (p : Pid) (d : DieId) (t : TileId) (l : LeafId) (layer row : Nat) (groups : BitVec 4)
    (ss : List ColSample) (s : State) :
    KeepsClasses s (execTilePass p d t l layer row groups ss s) :=
  keepsClasses_go fun m => by
    dsimp only
    split <;> simp

/-! ### Machine/Units -/

@[simp] theorem Dev.raiseUnit_classes (m : Dev) (d : DieId) (isCube : Bool) (n : Nat) (c : Ev) :
    (m.raiseUnit d isCube n c).classes = m.classes := by
  simp [Dev.raiseUnit]
@[simp] theorem Dev.retireUnit_classes (m : Dev) (d : DieId) (isCube : Bool) (n : Nat) : (m.retireUnit d isCube n).classes = m.classes := by
  unfold Dev.retireUnit
  dsimp only
  repeat' split
  all_goals simp
@[simp] theorem Dev.unitFault_classes (m : Dev) (d : DieId) (isCube parity : Bool) (n : Nat) :
    (m.unitFault d isCube parity n).classes = m.classes := by
  simp [Dev.unitFault]

/-! ### Machine/Mace -/

@[simp] theorem Dev.lateStash_classes (m : Dev) (p : Pid) (l : Nat) : (m.lateStash p l).classes = m.classes := by
  unfold Dev.lateStash
  split <;> simp
@[simp] theorem execCubeOperation_keepsClasses (d : DieId) (c : CubeId) (op : CubeDesc) (s : State) :
    KeepsClasses s (execCubeOperation d c op s) :=
  keepsClasses_go fun m => by
    dsimp only
    repeat' split
    all_goals simp
@[simp] theorem execOperandHalfFull_keepsClasses (d : DieId) (c : CubeId) (sideB : Bool) (half : Fin 2) (src : OpndSrc) (s : State) :
    KeepsClasses s (execOperandHalfFull d c sideB half src s) :=
  keepsClasses_go fun m => by
    dsimp only
    repeat' split
    all_goals simp
@[simp] theorem Dev.putNF8_classes (m : Dev) (p : Pid) (d : DieId) (r : StepRun) (e : Nat × TensorEntry) (addr : Nat) (keep : Nat → Bool)
    (vs : List Word) :
    (m.putNF8 p d r e addr keep vs).classes = m.classes := by
  simp [Dev.putNF8]
@[simp] theorem Dev.putAct_classes (m : Dev) (p : Pid) (d : DieId) (a : Container) (r : StepRun) (l addr : Nat) (keep : Nat → Bool)
    (vs : List Word) :
    (m.putAct p d a r l addr keep vs).classes = m.classes := by
  unfold Dev.putAct
  split <;> simp
@[simp] theorem Dev.putGrad_classes (m : Dev) (p : Pid) (d : DieId) (a : Container) (r : StepRun) (e : Nat × TensorEntry) (addr : Nat)
    (vs : List (Nat × Word)) :
    (m.putGrad p d a r e addr vs).classes = m.classes := by
  simp [Dev.putGrad]
@[simp] theorem Dev.putForward_classes (m : Dev) (p : Pid) (d : DieId) (a : Container) (r : StepRun) (l row o addr : Nat) (ys : List FwdOut) :
    (m.putForward p d a r l row o addr ys).classes = m.classes := by
  simp [Dev.putForward]
@[simp] theorem Dev.releaseHalf_classes (m : Dev) (f : ResRef × Nat) : (m.releaseHalf f).classes = m.classes := by simp [Dev.releaseHalf]
theorem Dev.useProduct_classes (m : Dev) (p : Pid) (d : DieId) (a : Container) (r : StepRun) (vs : List Word) (use : CubeUse) :
    ∀ n, m.useProduct p d a r vs use = some n → n.classes = m.classes := by
  unfold Dev.useProduct
  split
  case h_3 => split <;> simp
  all_goals simp
@[simp] theorem execCubeOperationComplete_keepsClasses (out : ResRef) (segs : List ResRef) (use : CubeUse) (s : State) :
    KeepsClasses s (execCubeOperationComplete out segs use s) :=
  keepsClasses_go fun m => by
    dsimp only
    split
    · split
      · split
        · split
          · next hn => simp [m.useProduct_classes _ _ _ _ _ _ _ hn]
          · rfl
        · rfl
      · rfl
    · rfl
@[simp] theorem execUnitParityError_keepsClasses (d : DieId) (isCube : Bool) (n : Nat) (s : State) :
    KeepsClasses s (execUnitParityError d isCube n s) := by
  simp [execUnitParityError]
@[simp] theorem Dev.dropGathered_classes (m : Dev) (p : Pid) (r : StepRun) (layer lost : Nat) :
    (m.dropGathered p r layer lost).classes = m.classes := by
  simp [Dev.dropGathered]
@[simp] theorem execGather_keepsClasses (p : Pid) (d : DieId) (gid : Nat) (table : TableSrc) (src dst : Nat) (s : State) :
    KeepsClasses s (execGather p d gid table src dst s) :=
  keepsClasses_go fun m => by
    repeat' split
    all_goals simp
@[simp] theorem execStashPrefetch_keepsClasses (p : Pid) (l : Nat) (s : State) : KeepsClasses s (execStashPrefetch p l s) :=
  keepsClasses_go fun m => by split <;> simp

/-! ### Machine/XchgOps -/

@[simp] theorem Dev.sendOnce_classes (m : Dev) (p : Pid) (a : Container) (g : RingEntry) (f : Frame) :
    (m.sendOnce p a g f).classes = m.classes := by
  simp [Dev.sendOnce]
@[simp] theorem Dev.sendFirst_classes (m : Dev) (p : Pid) (a : Container) (g : RingEntry) (bucket : Nat) :
    (m.sendFirst p a g bucket).classes = m.classes := by
  unfold Dev.sendFirst
  split <;> simp
@[simp] theorem Dev.sendMirrorFirst_classes (m : Dev) (p : Pid) (a : Container) (g : RingEntry) (bucket : Nat) :
    (m.sendMirrorFirst p a g bucket).classes = m.classes := by
  unfold Dev.sendMirrorFirst
  split <;> simp
@[simp] theorem Dev.uncovered_classes (m : Dev) (det : Option DieId) (p : Pid) (a : Container) : (m.uncovered det p a).classes = m.classes := by
  simp [Dev.uncovered]
@[simp] theorem Dev.putFinals_classes (m : Dev) (p : Pid) (es : List (Nat × Word)) : (m.putFinals p es).classes = m.classes := (rfl)
@[simp] theorem Dev.markSlot_classes (m : Dev) (p : Pid) (f : Frame) : (m.markSlot p f).classes = m.classes := (rfl)
@[simp] theorem Dev.deliverReduce_classes (m : Dev) (p : Pid) (d : DieId) (a : Container) (g : RingEntry) (f : Frame) :
    (m.deliverReduce p d a g f).classes = m.classes := by
  unfold Dev.deliverReduce
  split <;> simp
@[simp] theorem Dev.deliverGather_classes (m : Dev) (p : Pid) (a : Container) (g : RingEntry) (f : Frame) :
    (m.deliverGather p a g f).classes = m.classes := by
  simp [Dev.deliverGather]
@[simp] theorem Dev.deliverData_classes (m : Dev) (p : Pid) (d : DieId) (a : Container) (g : RingEntry) (f : Frame) :
    (m.deliverData p d a g f).classes = m.classes := by
  simp [Dev.deliverData]
@[simp] theorem Dev.closed_classes (m : Dev) (p : Pid) (a : Container) (total : Dbl) (maxima : List Word) :
    (m.closed p a total maxima).classes = m.classes :=
  (rfl)
@[simp] theorem Dev.closeReduce_classes (m : Dev) (p : Pid) (det : Option DieId) (a : Container) (g : RingEntry) (ss : List (Dbl × Dbl))
    (mx : List Word) :
    (m.closeReduce p det a g ss mx).classes = m.classes := by
  unfold Dev.closeReduce
  dsimp only
  repeat' split
  all_goals simp
@[simp] theorem Dev.deliverCloseReduce_classes (m : Dev) (p : Pid) (d : DieId) (a : Container) (g : RingEntry) (f : Frame) :
    (m.deliverCloseReduce p d a g f).classes = m.classes := by
  simp [Dev.deliverCloseReduce]
@[simp] theorem Dev.deliverCloseGather_classes (m : Dev) (p : Pid) (a : Container) (g : RingEntry) (f : Frame) :
    (m.deliverCloseGather p a g f).classes = m.classes := by
  simp [Dev.deliverCloseGather]

/-! ### Machine/WunitOps -/

@[simp] theorem Dev.updateOne_classes (m : Dev) (p : Pid) (d : DieId) (l o i : Nat) : (m.updateOne p d l o i).classes = m.classes := by
  unfold Dev.updateOne
  split
  · split <;> simp
  · simp
@[simp] theorem Dev.normTotal_classes (m : Dev) (p : Pid) : (m.normTotal p).classes = m.classes := by
  unfold Dev.normTotal
  split <;> simp
@[simp] theorem Dev.gradRow_classes (m : Dev) (p : Pid) (d : DieId) (a : Container) (r : StepRun) (l ent first addr : Nat) (x : List Word) :
    (m.gradRow p d a r l ent first addr x).classes = m.classes := by
  unfold Dev.gradRow
  split <;> simp
theorem Dev.runWOp_classes (m : Dev) (p : Pid) (d : DieId) (a : Container) (r : StepRun) (op : WOp) :
    ∀ n, m.runWOp p d a r op = some n → n.classes = m.classes := by
  unfold Dev.runWOp
  dsimp only
  repeat' split
  all_goals simp
@[simp] theorem execWUnitOperation_keepsClasses (d : DieId) (u : WUnitId) (p : Pid) (op : WOp) (s : State) :
    KeepsClasses s (execWUnitOperation d u p op s) :=
  keepsClasses_go fun m => by
    dsimp only
    split
    · split
      · split
        · simp
        · split
          · next hn => simp [m.runWOp_classes _ _ _ _ _ _ hn]
          · rfl
      · rfl
    · rfl

/-! ### Machine/FrameOps -/

@[simp] theorem Dev.authentic_classes (m : Dev) (d : DieId) (q : PortId) (f : Frame) : (m.authentic d q f).1.classes = m.classes := by
  unfold Dev.authentic
  dsimp only
  split <;> simp
@[simp] theorem Dev.holdFrame_classes (m : Dev) (d : DieId) (q : PortId) (f : Frame) : (m.holdFrame d q f).classes = m.classes := by
  simp [Dev.holdFrame]
@[simp] theorem Dev.leaveBuffer_classes (m : Dev) (d : DieId) (q : PortId) (f : Frame) : (m.leaveBuffer d q f).classes = m.classes := by
  simp [Dev.leaveBuffer]
@[simp] theorem Dev.lateFrame_classes (m : Dev) (d : DieId) (q : PortId) (f : Frame) : (m.lateFrame d q f).classes = m.classes := by
  simp [Dev.lateFrame]
@[simp] theorem Dev.applyMark_classes (m : Dev) (p : Pid) (d : DieId) (mark : Nat) : (m.applyMark p d mark).classes = m.classes := by
  unfold Dev.applyMark
  split
  · simp
  · split <;> simp
@[simp] theorem Dev.passPoison_classes (m : Dev) (p : Pid) (a : Container) (g : RingEntry) (r : StepRun) (f : Frame) (cause : Nat) :
    (m.passPoison p a g r f cause).classes = m.classes := by
  unfold Dev.passPoison
  split
  · split <;> simp
  · simp
@[simp] theorem Dev.authPoison_classes (m : Dev) (p : Pid) (f : Frame) : (m.authPoison p f).classes = m.classes := by
  unfold Dev.authPoison
  split
  · split <;> simp
  · simp
@[simp] theorem Dev.receive_classes (m : Dev) (d : DieId) (q : PortId) (f : Frame) (use : StepRun → Dev → Dev)
    (h : ∀ x n, (use x n).classes = n.classes) :
    (m.receive d q f use).classes = m.classes := by
  unfold Dev.receive
  dsimp only
  repeat' split
  all_goals simp [h]
@[simp] theorem Dev.takeMirror_classes (m : Dev) (p : Pid) (d : DieId) (q : PortId) (nonfin : Bool) (deliver : Dev → Dev)
    (h : ∀ n, (deliver n).classes = n.classes) :
    (m.takeMirror p d q nonfin deliver).classes = m.classes := by
  simp [h, Dev.takeMirror]
@[simp] theorem Dev.crossCheck_classes (m : Dev) (p : Pid) (d : DieId) (f g : Frame) : (m.crossCheck p d f g).classes = m.classes := by
  simp [Dev.crossCheck]
@[simp] theorem Dev.select_classes (m : Dev) (p : Pid) (d : DieId) (q : PortId) (a : Container) (mirrored : Bool) (f : Frame)
    (deliver : Frame → Dev → Dev) (h : ∀ x n, (deliver x n).classes = n.classes) :
    (m.select p d q a mirrored f deliver).classes = m.classes := by
  unfold Dev.select
  dsimp only
  repeat' split
  all_goals simp [h]
@[simp] theorem Dev.mirrorFrame_classes (m : Dev) (p : Pid) (a : Container) (r : StepRun) (g : RingEntry) (e : MirrorEntry) (f : Frame) :
    (m.mirrorFrame p a r g e f).classes = m.classes := by
  simp [Dev.mirrorFrame]
@[simp] theorem Dev.dataIn_classes (m : Dev) (p : Pid) (d : DieId) (q : PortId) (f : Frame) (r : StepRun) :
    (m.dataIn p d q f r).classes = m.classes := by
  unfold Dev.dataIn
  repeat' split
  all_goals simp
@[simp] theorem Dev.closeIn_classes (m : Dev) (p : Pid) (d : DieId) (q : PortId) (f : Frame) (r : StepRun) :
    (m.closeIn p d q f r).classes = m.classes := by
  unfold Dev.closeIn
  split
  · split <;> simp
  · simp
@[simp] theorem Dev.transferIn_classes (m : Dev) (p : Pid) (d : DieId) (q : PortId) (f : Frame) (r : StepRun) :
    (m.transferIn p d q f r).classes = m.classes := by
  unfold Dev.transferIn
  split <;> simp
@[simp] theorem Dev.extendIn_classes (m : Dev) (p : Pid) (d : DieId) (q : PortId) (f : Frame) : (m.extendIn p d q f).classes = m.classes := by
  simp [Dev.extendIn]
@[simp] theorem Dev.useFrame_classes (m : Dev) (p : Pid) (d : DieId) (q : PortId) (f : Frame) (r : StepRun) :
    (m.useFrame p d q f r).classes = m.classes := by
  simp [Dev.useFrame]
@[simp] theorem Dev.takeHeld_classes (m : Dev) (p : Pid) (pick : Frame → Bool) : (m.takeHeld p pick).1.classes = m.classes := by
  simp [Dev.takeHeld]
@[simp] theorem Dev.replayHeld_classes (m : Dev) (p : Pid) (e : DieId × PortId × Frame) : (m.replayHeld p e).classes = m.classes := by
  unfold Dev.replayHeld
  dsimp only
  split <;> simp
@[simp] theorem Dev.drainHeld_classes (m : Dev) (p : Pid) (pick : Frame → Bool) : (m.drainHeld p pick).classes = m.classes := by
  simp [Dev.drainHeld]
@[simp] theorem Dev.drainStep_classes (m : Dev) (p : Pid) : (m.drainStep p).classes = m.classes := by simp [Dev.drainStep]
@[simp] theorem Dev.askAgain_classes (m : Dev) (p : Pid) : (m.askAgain p).classes = m.classes := by
  unfold Dev.askAgain
  split
  · split <;> simp
  · simp

/-! ### Machine/StepCmds -/

@[simp] theorem Dev.settleTrips_classes (m : Dev) (p : Pid) (a : Container) : (m.settleTrips p a).classes = m.classes := by
  unfold Dev.settleTrips
  dsimp only
  split <;> simp
@[simp] theorem Dev.settleComparisons_classes (m : Dev) (p : Pid) (a : Container) : (m.settleComparisons p a).classes = m.classes := by
  unfold Dev.settleComparisons
  split <;> simp
@[simp] theorem execShadowComparison_keepsClasses (p : Pid) (d : DieId) (l row o : Nat) (s : State) :
    KeepsClasses s (execShadowComparison p d l row o s) :=
  keepsClasses_go fun m => by
    dsimp only
    split <;> simp
@[simp] theorem execStormReplayStart_keepsClasses (p : Pid) (s : State) : KeepsClasses s (execStormReplayStart p s) := by
  simp [execStormReplayStart]
@[simp] theorem execLossTotalCheck_keepsClasses (p : Pid) (s : State) : KeepsClasses s (execLossTotalCheck p s) :=
  keepsClasses_go fun m => by
    split
    · split <;> simp
    · simp
@[simp] theorem execBucketArm_keepsClasses (p : Pid) (bucket : Nat) (s : State) : KeepsClasses s (execBucketArm p bucket s) :=
  keepsClasses_go fun m => by
    dsimp only
    split
    · split
      · split
        · rfl
        · rw [Dev.drainHeld_classes, Dev.sendMirrorFirst_classes, Dev.sendFirst_classes, foldl_classes]
          · simp
          · intro n t
            split <;> simp
      · rfl
    · rfl
@[simp] theorem execExchangeCompletePoint_keepsClasses (p : Pid) (s : State) : KeepsClasses s (execExchangeCompletePoint p s) :=
  keepsClasses_go fun m => by
    dsimp only
    repeat' split
    all_goals simp
@[simp] theorem execCommitDecision_keepsClasses (p : Pid) (s : State) : KeepsClasses s (execCommitDecision p s) :=
  keepsClasses_go fun m => by
    dsimp only
    repeat' split
    all_goals simp

/-! ### Machine/DigestOps -/

@[simp] theorem Dev.sendDigest_classes (m : Dev) (p : Pid) (a : Container) (g : RingEntry) (step : Dbl) (es : List DigestEntry) :
    (m.sendDigest p a g step es).classes = m.classes := by
  unfold Dev.sendDigest
  split <;> simp
@[simp] theorem Dev.expel_classes (m : Dev) (p : Pid) : (m.expel p).classes = m.classes := by
  unfold Dev.expel
  split <;> simp
@[simp] theorem Dev.decideDigest_classes (m : Dev) (p : Pid) (a : Container) (r : DigestRun) : (m.decideDigest p a r).classes = m.classes := by
  unfold Dev.decideDigest
  dsimp only
  split <;> simp
@[simp] theorem Dev.fullDigest_classes (m : Dev) (p : Pid) (a : Container) (r : DigestRun) : (m.fullDigest p a r).classes = m.classes := by
  simp [Dev.fullDigest]
@[simp] theorem Dev.digestIn_classes (m : Dev) (p : Pid) (f : Frame) : (m.digestIn p f).classes = m.classes := by
  unfold Dev.digestIn
  split
  · split <;> simp
  · simp
@[simp] theorem Dev.startDigest_classes (m : Dev) (p : Pid) (a : Container) (n : Nat) : (m.startDigest p a n).classes = m.classes := by
  unfold Dev.startDigest
  dsimp only
  repeat' split
  all_goals simp

/-! ### Machine/Links -/

@[simp] theorem Dev.raisePort_classes (m : Dev) (d : DieId) (q : PortId) (n lane : Nat) : (m.raisePort d q n lane).classes = m.classes := by
  simp [Dev.raisePort]
@[simp] theorem Dev.resendFrames_classes (m : Dev) (p : Pid) (fs : List Frame) : (m.resendFrames p fs).classes = m.classes := by
  unfold Dev.resendFrames
  split
  · refine foldl_classes _ _ _ fun n f => ?_
    repeat' split
    all_goals simp
  · rfl
@[simp] theorem Dev.portDown_classes (m : Dev) (d : DieId) (q : PortId) : (m.portDown d q).classes = m.classes := by
  unfold Dev.portDown
  split <;> simp
@[simp] theorem Dev.laneFailed_classes (m : Dev) (d : DieId) (q : PortId) (lane : Nat) : (m.laneFailed d q lane).classes = m.classes := by
  simp [Dev.laneFailed]
@[simp] theorem execLaneFail_keepsClasses (d : DieId) (q : PortId) (lane : Fin 5) (s : State) : KeepsClasses s (execLaneFail d q lane s) := by
  simp [execLaneFail]
@[simp] theorem execLaneFailoverComplete_keepsClasses (d : DieId) (q : PortId) (s : State) : KeepsClasses s (execLaneFailoverComplete d q s) := by
  simp [execLaneFailoverComplete]
@[simp] theorem execPortLinkUp_keepsClasses (d : DieId) (q : PortId) (pd : DieId) (pq : PortId) (idx : Option (BitVec 12)) (s : State) :
    KeepsClasses s (execPortLinkUp d q pd pq idx s) := by
  simp [execPortLinkUp]
@[simp] theorem execPortRetraining_keepsClasses (d : DieId) (q : PortId) (s : State) : KeepsClasses s (execPortRetraining d q s) := by
  simp [execPortRetraining]
@[simp] theorem execPortEnable_keepsClasses (d : DieId) (v : Word) (s : State) : KeepsClasses s (execPortEnable d v s) := by simp [execPortEnable]
@[simp] theorem Dev.sendAck_classes (m : Dev) (d : DieId) (q : PortId) : (m.sendAck d q).classes = m.classes := by simp [Dev.sendAck]
@[simp] theorem execFlitReceive_keepsClasses (d : DieId) (q : PortId) (f : Flit) (s : State) : KeepsClasses s (execFlitReceive d q f s) := by
  simp [execFlitReceive]
@[simp] theorem execLinkFlitReceive_keepsClasses (d : DieId) (q : PortId) (msg : LinkMsg) (s : State) :
    KeepsClasses s (execLinkFlitReceive d q msg s) :=
  keepsClasses_go fun m => by split <;> simp
@[simp] theorem execAckTimer_keepsClasses (d : DieId) (q : PortId) (s : State) : KeepsClasses s (execAckTimer d q s) := by simp [execAckTimer]
@[simp] theorem Dev.frameIn_classes (m : Dev) (d : DieId) (q : PortId) (k : Nat) (f : Frame) : (m.frameIn d q k f).classes = m.classes := by
  simp [Dev.frameIn]
@[simp] theorem execReduceFrame_keepsClasses (d : DieId) (q : PortId) (f : Frame) (s : State) : KeepsClasses s (execReduceFrame d q f s) := by
  simp [execReduceFrame]
@[simp] theorem execGatherFrame_keepsClasses (d : DieId) (q : PortId) (f : Frame) (s : State) : KeepsClasses s (execGatherFrame d q f s) := by
  simp [execGatherFrame]
@[simp] theorem execCloseReduceFrame_keepsClasses (d : DieId) (q : PortId) (f : Frame) (s : State) :
    KeepsClasses s (execCloseReduceFrame d q f s) := by
  simp [execCloseReduceFrame]
@[simp] theorem execCloseGatherFrame_keepsClasses (d : DieId) (q : PortId) (f : Frame) (s : State) :
    KeepsClasses s (execCloseGatherFrame d q f s) := by
  simp [execCloseGatherFrame]
@[simp] theorem execTransferFrame_keepsClasses (d : DieId) (q : PortId) (f : Frame) (s : State) : KeepsClasses s (execTransferFrame d q f s) := by
  simp [execTransferFrame]
@[simp] theorem execMarkFrame_keepsClasses (d : DieId) (q : PortId) (f : Frame) (s : State) : KeepsClasses s (execMarkFrame d q f s) := by
  simp [execMarkFrame]
@[simp] theorem execExtendFrame_keepsClasses (d : DieId) (q : PortId) (f : Frame) (s : State) : KeepsClasses s (execExtendFrame d q f s) := by
  simp [execExtendFrame]
@[simp] theorem Dev.controlIn_classes (m : Dev) (d : DieId) (q : PortId) (f : Frame) (use : Dev → Dev) (h : ∀ n, (use n).classes = n.classes) :
    (m.controlIn d q f use).classes = m.classes := by
  simp [h, Dev.controlIn]
@[simp] theorem execDigestFrame_keepsClasses (d : DieId) (q : PortId) (f : Frame) (s : State) : KeepsClasses s (execDigestFrame d q f s) :=
  keepsClasses_go fun m => Dev.controlIn_classes _ _ _ _ _ fun n => by
    dsimp only
    split
    · split
      · simp
      · split <;> simp
    · split <;> simp
@[simp] theorem execResendFrame_keepsClasses (d : DieId) (q : PortId) (f : Frame) (s : State) : KeepsClasses s (execResendFrame d q f s) :=
  keepsClasses_go fun m => Dev.controlIn_classes _ _ _ _ _ fun n => by
    dsimp only
    repeat' split
    all_goals simp
@[simp] theorem Dev.takeCopies_classes (m : Dev) (p : Pid) (d : DieId) (q : PortId) (a : Container) (fs : List Frame) :
    (m.takeCopies p d q a fs).classes = m.classes :=
  foldl_classes _ _ _ fun n a => by split <;> simp
@[simp] theorem execFrameDeadlineExpiry_keepsClasses (p : Pid) (d : DieId) (q : PortId) (kind bucket chunk : Nat) (s : State) :
    KeepsClasses s (execFrameDeadlineExpiry p d q kind bucket chunk s) :=
  keepsClasses_go fun m => by split <;> simp
@[simp] theorem execDigestWaitExpiry_keepsClasses (p : Pid) (s : State) : KeepsClasses s (execDigestWaitExpiry p s) :=
  keepsClasses_go fun m => by split <;> simp
@[simp] theorem execDigestCfgWrite_keepsClasses (d : DieId) (v : Word) (s : State) : KeepsClasses s (execDigestCfgWrite d v s) := by
  simp [execDigestCfgWrite]
@[simp] theorem execLinkKeyInstall_keepsClasses (d : DieId) (q : PortId) (nonce : Dbl) (s : State) :
    KeepsClasses s (execLinkKeyInstall d q nonce s) :=
  keepsClasses_go fun m => by
    dsimp only
    repeat' split
    all_goals simp
@[simp] theorem execCdmClearAll_keepsClasses (d : DieId) (s : State) : KeepsClasses s (execCdmClearAll d s) := by simp [execCdmClearAll]
@[simp] theorem execCdmClearSel_keepsClasses (d : DieId) (s : State) : KeepsClasses s (execCdmClearSel d s) := by simp [execCdmClearSel]

/-! ### Machine/Stack -/

@[simp] theorem Dev.correctedError_classes (m : Dev) (d : DieId) (kind : Nat) : (m.correctedError d kind).classes = m.classes := by
  simp [Dev.correctedError]
@[simp] theorem execStackCorrectedError_keepsClasses (d : DieId) (onDie : Bool) (s : State) :
    KeepsClasses s (execStackCorrectedError d onDie s) := by
  simp [execStackCorrectedError]
@[simp] theorem Die.wearLineLost_cls (x : Die) (addr : Nat) : (x.wearLineLost addr).cls = x.cls := by simp [Die.wearLineLost]
@[simp] theorem Die.latchUe_cls (x : Die) (addr : BitVec 37) (patrol : Bool) : (x.latchUe addr patrol).cls = x.cls := (rfl)
@[simp] theorem Dev.ueRepaired_classes (m : Dev) (d : DieId) (e : Event) : (m.ueRepaired d e).classes = m.classes := by simp [Dev.ueRepaired]
@[simp] theorem Dev.ueFault_classes (m : Dev) (p : Pid) (d : DieId) (addr : BitVec 37) (e : Event) :
    (m.ueFault p d addr e).classes = m.classes := by
  unfold Dev.ueFault
  dsimp only
  split <;> simp
@[simp] theorem Dev.uncorrectable_classes (m : Dev) (d : DieId) (p : Pid) (region : UeRegion) (addr : BitVec 37) (patrol : Bool) :
    (m.uncorrectable d p region addr patrol).classes = m.classes := by
  unfold Dev.uncorrectable
  dsimp only
  split <;> simp
@[simp] theorem execStackUncorrectable_keepsClasses (d : DieId) (p : Pid) (region : UeRegion) (addr : BitVec 37) (s : State) :
    KeepsClasses s (execStackUncorrectable d p region addr s) := by
  simp [execStackUncorrectable]
@[simp] theorem execPatrolRead_keepsClasses (d : DieId) (p : Pid) (addr : BitVec 37) (corrected : Bool) (ue : Option UeRegion) (s : State) :
    KeepsClasses s (execPatrolRead d p addr corrected ue s) :=
  keepsClasses_go fun m => by
    split
    · simp
    · split <;> simp
@[simp] theorem Die.stackTemp_cls (x : Die) (t : Int) (flag : Bool) : (x.stackTemp t flag).cls = x.cls := (rfl)
@[simp] theorem execStackTempRead_keepsClasses (d : DieId) (t : Int) (flag : Bool) (s : State) :
    KeepsClasses s (execStackTempRead d t flag s) := by
  simp [execStackTempRead]
@[simp] theorem Dev.retirePage_classes (m : Dev) (d : DieId) (page : BitVec 21) : (m.retirePage d page).classes = m.classes := by
  simp [Dev.retirePage]
@[simp] theorem Dev.retireGo_classes (m : Dev) (d : DieId) : (m.retireGo d).classes = m.classes := by simp [Dev.retireGo]
@[simp] theorem Dev.retireClear_classes (m : Dev) (d : DieId) : (m.retireClear d).classes = m.classes := by simp [Dev.retireClear]
@[simp] theorem Dev.retireCtrl_classes (m : Dev) (d : DieId) (v : Word) : (m.retireCtrl d v).classes = m.classes := by simp [Dev.retireCtrl]
@[simp] theorem execPageRetire_keepsClasses (d : DieId) (v : Word) (s : State) : KeepsClasses s (execPageRetire d v s) := by simp [execPageRetire]
@[simp] theorem execPageRetireApply_keepsClasses (d : DieId) (s : State) : KeepsClasses s (execPageRetireApply d s) :=
  keepsClasses_go fun m => by split <;> simp
@[simp] theorem execRetireClearTable_keepsClasses (d : DieId) (s : State) : KeepsClasses s (execRetireClearTable d s) := by
  simp [execRetireClearTable]
@[simp] theorem Dev.marginWrite_classes (m : Dev) (d : DieId) (v : Word) : (m.marginWrite d v).classes = m.classes := by simp [Dev.marginWrite]
@[simp] theorem execMarginRun_keepsClasses (d : DieId) (v : Word) (s : State) : KeepsClasses s (execMarginRun d v s) := by simp [execMarginRun]
@[simp] theorem execMarginRunDone_keepsClasses (d : DieId) (errors : Nat) (s : State) : KeepsClasses s (execMarginRunDone d errors s) := by
  simp [execMarginRunDone]
@[simp] theorem execStkClearAll_keepsClasses (d : DieId) (s : State) : KeepsClasses s (execStkClearAll d s) := by simp [execStkClearAll]
@[simp] theorem execStkClearSel_keepsClasses (d : DieId) (s : State) : KeepsClasses s (execStkClearSel d s) := by simp [execStkClearSel]
@[simp] theorem execFarTierError_keepsClasses (p : Pid) (duringSave : Bool) (s : State) : KeepsClasses s (execFarTierError p duringSave s) := by
  simp [execFarTierError]

/-! ### Machine/Rotation -/

@[simp] theorem Die.takeOut_cls (x : Die) (c : TestClass) (i : Nat) (visit : List Nat × Nat) : (x.takeOut c i visit).cls = x.cls := by
  unfold Die.takeOut
  split <;> simp
@[simp] theorem execTestSliceStart_keepsClasses (d : DieId) (c : TestClass) (i : Nat) (s : State) :
    KeepsClasses s (execTestSliceStart d c i s) := by
  simp [execTestSliceStart]
@[simp] theorem Die.putBack_cls (x : Die) (c : TestClass) (i : Nat) : (x.putBack c i).cls = x.cls := by
  unfold Die.putBack
  split <;> simp
@[simp] theorem Dev.raiseTest_classes (m : Dev) (d : DieId) (c : TestClass) (i : Nat) (pattern : BitVec 16) (source : BitVec 4) :
    (m.raiseTest d c i pattern source).classes = m.classes := by
  simp [Dev.raiseTest]
@[simp] theorem Dev.testFault_classes (m : Dev) (d : DieId) (isCube again : Bool) (n : Nat) :
    (m.testFault d isCube again n).classes = m.classes := by
  simp [Dev.testFault]
@[simp] theorem Dev.testFailed_classes (m : Dev) (d : DieId) (c : TestClass) (again : Bool) (i : Nat) :
    (m.testFailed d c again i).classes = m.classes := by
  unfold Dev.testFailed
  split <;> simp
@[simp] theorem Die.visited_cls (x : Die) (c : TestClass) (i : Nat) (pass : Bool) : (x.visited c i pass).cls = x.cls := by
  unfold Die.visited
  dsimp only
  split <;> simp
@[simp] theorem Die.slicePassed_cls (x : Die) (c : TestClass) (i : Nat) : (x.slicePassed c i).cls = x.cls := by simp [Die.slicePassed]
@[simp] theorem Die.sliceFailed_cls (x : Die) (c : TestClass) (i : Nat) : (x.sliceFailed c i).cls = x.cls := by simp [Die.sliceFailed]
@[simp] theorem execTestSliceComplete_keepsClasses (d : DieId) (c : TestClass) (passed : Bool) (pattern : BitVec 16) (source : BitVec 4)
    (s : State) :
    KeepsClasses s (execTestSliceComplete d c passed pattern source s) :=
  keepsClasses_go fun m => by
    dsimp only
    split <;> simp
@[simp] theorem Dev.logIn_classes (m : Dev) (e : Event) : (m.logIn e).classes = m.classes := by simp [Dev.logIn]
@[simp] theorem Dev.tell_classes (m : Dev) (e : Event) : (m.tell e).classes = m.classes := by simp [Dev.tell]
@[simp] theorem execEventLogEntry_keepsClasses (d : DieId) (s : State) : KeepsClasses s (execEventLogEntry d s) :=
  keepsClasses_go fun m => by
    dsimp only
    repeat' split
    all_goals simp
@[simp] theorem execDerpolRecordSend_keepsClasses (count : Nat) (s : State) : KeepsClasses s (execDerpolRecordSend count s) :=
  keepsClasses_go fun m => by
    dsimp only
    split <;> simp
@[simp] theorem execXchkClear_keepsClasses (s : State) : KeepsClasses s (execXchkClear s) := by simp [execXchkClear]
@[simp] theorem execAlertClear_keepsClasses (s : State) : KeepsClasses s (execAlertClear s) := by simp [execAlertClear]

/-! ### Machine/BindOps -/

@[simp] theorem Dev.startScrub_classes (m : Dev) (old : Option Pid) (d : DieId) (t : Nat) (l : LeafId) :
    (m.startScrub old d t l).classes = m.classes := by
  unfold Dev.startScrub
  split
  · split <;> simp
  · simp
@[simp] theorem Dev.replaceLeaf_classes (m : Dev) (p : Pid) (d : DieId) (t : Nat) (l : LeafId) : (m.replaceLeaf p d t l).classes = m.classes := by
  unfold Dev.replaceLeaf
  split
  · split <;> simp
  · simp
@[simp] theorem Dev.setTest_classes (m : Dev) (p : Pid) (on : Bool) : (m.setTest p on).classes = m.classes := (rfl)
@[simp] theorem Dev.comeToBe_classes (m : Dev) (p : Pid) : (m.comeToBe p).classes = m.classes := by simp [Dev.comeToBe]
@[simp] theorem Dev.ceaseToBe_classes (m : Dev) (p : Pid) : (m.ceaseToBe p).classes = m.classes := by simp [Dev.ceaseToBe]
@[simp] theorem Dev.wipe_classes (m : Dev) (r : Resource) : (m.wipe r).classes = m.classes := by
  unfold Dev.wipe
  split <;> simp
@[simp] theorem Dev.recordPair_classes (m : Dev) (r : Resource) (p : Option Pid) : (m.recordPair r p).classes = m.classes := (rfl)
@[simp] theorem Dev.applyBind_classes (m : Dev) (r : Resource) (t : Option Pid) : (m.applyBind r t).classes = m.classes := by
  unfold Dev.applyBind
  dsimp only
  repeat' split
  all_goals simp
@[simp] theorem Dev.refuseBind_classes (m : Dev) (src : Source) (r : Resource) (res : Nat) : (m.refuseBind src r res).classes = m.classes := by
  simp [Dev.refuseBind]

/-! ### Machine/Binding -/

@[simp] theorem Dev.bindGo_classes (m : Dev) (src : Source) : (m.bindGo src).classes = m.classes := by simp [Dev.bindGo]
@[simp] theorem execBindRequest_keepsClasses (src : Source) (s : State) : KeepsClasses s (execBindRequest src s) := by simp [execBindRequest]
@[simp] theorem Dev.bindApply_classes (m : Dev) (w : Rebind) : (m.bindApply w).classes = m.classes := by simp [Dev.bindApply]
@[simp] theorem execBindApply_keepsClasses (r : Resource) (s : State) : KeepsClasses s (execBindApply r s) :=
  keepsClasses_go fun m => by split <;> simp
@[simp] theorem execResourceReady_keepsClasses (r : Resource) (s : State) : KeepsClasses s (execResourceReady r s) := by simp [execResourceReady]
@[simp] theorem Dev.partSetWrite_classes (m : Dev) (v : Word) : (m.partSetWrite v).classes = m.classes := by simp [Dev.partSetWrite]
@[simp] theorem execPartSetWrite_keepsClasses (v : Word) (s : State) : KeepsClasses s (execPartSetWrite v s) := by simp [execPartSetWrite]
@[simp] theorem execLeafScrubComplete_keepsClasses (d : DieId) (t : TileId) (l : LeafId) (s : State) :
    KeepsClasses s (execLeafScrubComplete d t l s) := by
  simp [execLeafScrubComplete]
@[simp] theorem Dev.electFirst_classes (m : Dev) : m.electFirst.classes = m.classes := by simp [Dev.electFirst]
@[simp] theorem Dev.partialReset_classes (m : Dev) (d : DieId) : (m.partialReset d).classes = m.classes := by simp [Dev.partialReset]
@[simp] theorem execSaffronWatchdogExpiry_keepsClasses (d : DieId) (s : State) : KeepsClasses s (execSaffronWatchdogExpiry d s) := by
  simp [execSaffronWatchdogExpiry]

/-! ### Machine/PowerOps -/

@[simp] theorem Dev.rampCores_classes (m : Dev) : m.rampCores.classes = m.classes := by simp [Dev.rampCores]
@[simp] theorem Dev.refusePower_classes (m : Dev) (src : Option Source) (target blk : Nat) (reason : Byte) :
    (m.refusePower src target blk reason).classes = m.classes := by
  simp [Dev.refusePower]
@[simp] theorem Dev.handshake_classes (m : Dev) (src : Option Source) (target : Nat) (bs : List Nat) :
    (m.handshake src target bs).classes = m.classes := by
  unfold Dev.handshake
  split <;> simp
@[simp] theorem Dev.enterVigil_classes (m : Dev) (byTimer : Bool) : (m.enterVigil byTimer).classes = m.classes := by simp [Dev.enterVigil]
@[simp] theorem Dev.setTarget_classes (m : Dev) (src : Source) (t : Nat) : (m.setTarget src t).classes = m.classes := (rfl)
@[simp] theorem Dev.setPowerResult_classes (m : Dev) (src : Option Source) (r : Nat) : (m.setPowerResult src r).classes = m.classes := (rfl)
@[simp] theorem Dev.startExit_classes (m : Dev) (src : Option Source) : (m.startExit src).classes = m.classes := (rfl)
@[simp] theorem Dev.requestRun_classes (m : Dev) (src : Source) : (m.requestRun src).classes = m.classes := by
  unfold Dev.requestRun
  split <;> simp
@[simp] theorem Dev.requestDown_classes (m : Dev) (src : Source) (t : Nat) : (m.requestDown src t).classes = m.classes := by
  simp [Dev.requestDown]
@[simp] theorem Dev.powerGo_classes (m : Dev) (src : Source) (t : Nat) : (m.powerGo src t).classes = m.classes := by simp [Dev.powerGo]
@[simp] theorem Dev.writeStore_classes (m : Dev) (d : DieId) : (m.writeStore d).classes = m.classes := by simp [Dev.writeStore]
@[simp] theorem Die.sleepDeep_cls (key : BitVec 256) (x : Die) : (x.sleepDeep key).cls = x.cls := by simp [Die.sleepDeep]
@[simp] theorem Dev.enterRepose_classes (m : Dev) : m.enterRepose.classes = m.classes := by simp [Dev.enterRepose]
@[simp] theorem Dev.ranOutLeaves_classes (m : Dev) (d : DieId) : (m.ranOutLeaves d).classes = m.classes := by simp [Dev.ranOutLeaves]
@[simp] theorem Die.wakeDeep_cls (mv : Nat) (x : Die) : (x.wakeDeep mv).cls = x.cls := by simp [Die.wakeDeep]
@[simp] theorem Dev.enterRun_classes (m : Dev) : m.enterRun.classes = m.classes := by simp [Dev.enterRun]
@[simp] theorem Dev.closeUnlock_classes (m : Dev) : m.closeUnlock.classes = m.classes := by simp [Dev.closeUnlock]
@[simp] theorem Dev.boot_classes (m : Dev) : m.boot.classes = m.classes := by simp [Dev.boot]

/-! ### Machine/RegRead -/

@[simp] theorem Dev.latch_classes (m : Dev) (off : Nat) : (m.latch off).classes = m.classes := by
  unfold Dev.latch
  split
  · split <;> simp
  · simp
@[simp] theorem Dev.readReg_classes (m : Dev) (src : Source) (off : Nat) (f : Word → Out) : (m.readReg src off f).classes = m.classes := by
  simp [Dev.readReg]

/-! ### Machine/Attest -/

@[simp] theorem Dev.spdm_classes (m : Dev) (path : SpdmPath) (c : Instr) (f : Dev → Dev) (h : ∀ n, (f n).classes = n.classes) :
    (m.spdm path c f).classes = m.classes := by
  simp [h, Dev.spdm]
@[simp] theorem Dev.signed_classes (m : Dev) : m.signed.classes = m.classes := (rfl)
@[simp] theorem Dev.answerVersion_classes (m : Dev) : m.answerVersion.classes = m.classes := (rfl)
@[simp] theorem Dev.answerCapabilities_classes (m : Dev) : m.answerCapabilities.classes = m.classes := (rfl)
@[simp] theorem Dev.answerAlgorithms_classes (m : Dev) (path : SpdmPath) (supported : Bool) :
    (m.answerAlgorithms path supported).classes = m.classes := by
  simp [Dev.answerAlgorithms]
@[simp] theorem Dev.answerDigests_classes (m : Dev) : m.answerDigests.classes = m.classes := (rfl)
@[simp] theorem Dev.answerCertificate_classes (m : Dev) (slot offset length : Nat) :
    (m.answerCertificate slot offset length).classes = m.classes := by
  simp [Dev.answerCertificate]
@[simp] theorem Dev.answerChallenge_classes (m : Dev) (nonce : BitVec 256) : (m.answerChallenge nonce).classes = m.classes := (rfl)
@[simp] theorem Dev.answerMeasurements_classes (m : Dev) (index : Nat) : (m.answerMeasurements index).classes = m.classes := by
  simp [Dev.answerMeasurements]
@[simp] theorem Dev.answerKeyExchange_classes (m : Dev) (path : SpdmPath) : (m.answerKeyExchange path).classes = m.classes := by
  simp [Dev.answerKeyExchange]
@[simp] theorem Dev.modSession_classes (m : Dev) (n : Nat) (f : Session → Session) : (m.modSession n f).classes = m.classes := (rfl)
@[simp] theorem Dev.dropSession_classes (m : Dev) (n : Nat) : (m.dropSession n).classes = m.classes := (rfl)
@[simp] theorem Dev.answerFinish_classes (m : Dev) (path : SpdmPath) (n : Nat) (verified : Bool) :
    (m.answerFinish path n verified).classes = m.classes := by
  unfold Dev.answerFinish
  split <;> simp
@[simp] theorem Dev.inSession_classes (m : Dev) (path : SpdmPath) (n : Nat) (f : Dev → Dev) (h : ∀ n, (f n).classes = n.classes) :
    (m.inSession path n f).classes = m.classes := by
  unfold Dev.inSession
  split <;> simp [h]
@[simp] theorem Dev.answerEnd_classes (m : Dev) (path : SpdmPath) (n : Nat) : (m.answerEnd path n).classes = m.classes := by simp [Dev.answerEnd]
@[simp] theorem Dev.answerHeartbeat_classes (m : Dev) (path : SpdmPath) (n : Nat) : (m.answerHeartbeat path n).classes = m.classes := by
  simp [Dev.answerHeartbeat]
@[simp] theorem Dev.answerKeyUpdate_classes (m : Dev) (path : SpdmPath) (n : Nat) : (m.answerKeyUpdate path n).classes = m.classes := by
  simp [Dev.answerKeyUpdate]
@[simp] theorem Dev.answerChunk_classes (m : Dev) (handle seqNo : Nat) : (m.answerChunk handle seqNo).classes = m.classes := by
  simp [Dev.answerChunk]
@[simp] theorem Dev.answerSlh_classes (m : Dev) : m.answerSlh.classes = m.classes := by
  unfold Dev.answerSlh
  split <;> simp
@[simp] theorem execGetVersion_keepsClasses (p : SpdmPath) (s : State) : KeepsClasses s (execGetVersion p s) := by simp [execGetVersion]
@[simp] theorem execGetCapabilities_keepsClasses (p : SpdmPath) (s : State) : KeepsClasses s (execGetCapabilities p s) := by
  simp [execGetCapabilities]
@[simp] theorem execNegotiateAlgorithms_keepsClasses (p : SpdmPath) (ok : Bool) (s : State) :
    KeepsClasses s (execNegotiateAlgorithms p ok s) := by
  simp [execNegotiateAlgorithms]
@[simp] theorem execGetDigests_keepsClasses (p : SpdmPath) (s : State) : KeepsClasses s (execGetDigests p s) := by simp [execGetDigests]
@[simp] theorem execGetCertificate_keepsClasses (p : SpdmPath) (slot offset length : Nat) (s : State) :
    KeepsClasses s (execGetCertificate p slot offset length s) := by
  simp [execGetCertificate]
@[simp] theorem execChallenge_keepsClasses (p : SpdmPath) (nonce : BitVec 256) (s : State) : KeepsClasses s (execChallenge p nonce s) := by
  simp [execChallenge]
@[simp] theorem execGetMeasurements_keepsClasses (p : SpdmPath) (index : Nat) (nonce : BitVec 256) (s : State) :
    KeepsClasses s (execGetMeasurements p index nonce s) := by
  simp [execGetMeasurements]
@[simp] theorem execKeyExchange_keepsClasses (p : SpdmPath) (s : State) : KeepsClasses s (execKeyExchange p s) := by simp [execKeyExchange]
@[simp] theorem execFinish_keepsClasses (p : SpdmPath) (n : Nat) (ok : Bool) (s : State) : KeepsClasses s (execFinish p n ok s) := by
  simp [execFinish]
@[simp] theorem execEndSession_keepsClasses (p : SpdmPath) (n : Nat) (s : State) : KeepsClasses s (execEndSession p n s) := by
  simp [execEndSession]
@[simp] theorem execHeartbeat_keepsClasses (p : SpdmPath) (n : Nat) (s : State) : KeepsClasses s (execHeartbeat p n s) := by simp [execHeartbeat]
@[simp] theorem execKeyUpdate_keepsClasses (p : SpdmPath) (n : Nat) (s : State) : KeepsClasses s (execKeyUpdate p n s) := by simp [execKeyUpdate]
@[simp] theorem execChunkGet_keepsClasses (p : SpdmPath) (h n : Nat) (s : State) : KeepsClasses s (execChunkGet p h n s) := by simp [execChunkGet]
@[simp] theorem execGetSlhSignature_keepsClasses (p : SpdmPath) (s : State) : KeepsClasses s (execGetSlhSignature p s) := by
  simp [execGetSlhSignature]
theorem Dev.answerKept_classes {m : Dev} {c : Instr} {r : SpdmPath × Dev} (h : m.answerKept c = some r) : r.2.classes = m.classes := by
  unfold Dev.answerKept at h
  split at h <;> cases h <;> simp
@[simp] theorem execRespondIfReady_keepsClasses (p : SpdmPath) (s : State) : KeepsClasses s (execRespondIfReady p s) :=
  keepsClasses_go fun m => by
    split
    · rfl
    · split
      · next hr =>
        obtain ⟨c, -, hc⟩ := Option.bind_eq_some_iff.mp hr
        simp [Dev.answerKept_classes hc]
      · simp
@[simp] theorem execIdeKeyProgram_keepsClasses (n : Nat) (kind : IdeKind) (stream : Nat) (refresh : Bool) (s : State) :
    KeepsClasses s (execIdeKeyProgram n kind stream refresh s) := by
  simp [execIdeKeyProgram]

/-! ### Machine/Setup -/

@[simp] theorem execAlmanacLoad_keepsClasses (k : SetId) (obj : Option Container) (s : State) : KeepsClasses s (execAlmanacLoad k obj s) :=
  keepsClasses_go fun m => Dev.execHead_classes _ _ _ _ fun h p n => by
    repeat' split
    all_goals simp
@[simp] theorem execAlmanacLoadComplete_keepsClasses (k : SetId) (s : State) : KeepsClasses s (execAlmanacLoadComplete k s) :=
  keepsClasses_go fun m => by
    repeat' split
    all_goals simp
@[simp] theorem execBufferBind_keepsClasses (k : SetId) (s : State) : KeepsClasses s (execBufferBind k s) := by simp [execBufferBind]
@[simp] theorem execWeightLoad_keepsClasses (k : SetId) (obj : Option WPackage) (s : State) : KeepsClasses s (execWeightLoad k obj s) :=
  keepsClasses_go fun m => Dev.execHead_classes _ _ _ _ fun h p n => by
    repeat' split
    all_goals simp
@[simp] theorem Dev.leafProgram_classes (m : Dev) (k : SetId) : (m.leafProgram k).classes = m.classes :=
  Dev.execHead_classes _ _ _ _ fun h p n => by
    dsimp only
    repeat' split
    all_goals simp
@[simp] theorem execLeafProgram_keepsClasses (k : SetId) (s : State) : KeepsClasses s (execLeafProgram k s) := by simp [execLeafProgram]
@[simp] theorem Dev.waitInput_classes (m : Dev) (k : SetId) (h : Held) (inp : StepInput) : (m.waitInput k h inp).classes = m.classes := by
  simp [Dev.waitInput]
@[simp] theorem Dev.startStep_classes (m : Dev) (k : SetId) (inp : StepInput) : (m.startStep k inp).classes = m.classes := by simp [Dev.startStep]
@[simp] theorem execStep_keepsClasses (k : SetId) (inp : StepInput) (s : State) : KeepsClasses s (execStep k inp s) := by simp [execStep]
@[simp] theorem Dev.startForward_classes (m : Dev) (k : SetId) (inp : StepInput) : (m.startForward k inp).classes = m.classes := by
  simp [Dev.startForward]
@[simp] theorem Dev.finishForward_classes (m : Dev) (p : Pid) (k : SetId) (h : Held) (a : Container) (r : StepRun) :
    (m.finishForward p k h a r).classes = m.classes := by
  simp [Dev.finishForward]
@[simp] theorem execForward_keepsClasses (k : SetId) (inp : StepInput) (s : State) : KeepsClasses s (execForward k inp s) :=
  keepsClasses_go fun m => by
    repeat' split
    all_goals simp
@[simp] theorem execCheckpointSave_keepsClasses (k : SetId) (written : Bool) (s : State) : KeepsClasses s (execCheckpointSave k written s) :=
  keepsClasses_go fun m => Dev.execHead_classes _ _ _ _ fun h p n => by
    repeat' split
    all_goals simp
@[simp] theorem execCheckpointRestore_keepsClasses (k : SetId) (img : Option Image) (s : State) :
    KeepsClasses s (execCheckpointRestore k img s) :=
  keepsClasses_go fun m => Dev.execHead_classes _ _ _ _ fun h p n => by
    repeat' split
    all_goals simp
@[simp] theorem execPreempt_keepsClasses (k : SetId) (s : State) : KeepsClasses s (execPreempt k s) := by simp [execPreempt]
@[simp] theorem execResume_keepsClasses (k : SetId) (s : State) : KeepsClasses s (execResume k s) := by simp [execResume]
@[simp] theorem execPreemptPointReached_keepsClasses (p : Pid) (point : Nat) (s : State) : KeepsClasses s (execPreemptPointReached p point s) :=
  keepsClasses_go fun m => by
    dsimp only
    split <;> simp
@[simp] theorem execPreemptDrainComplete_keepsClasses (p : Pid) (s : State) : KeepsClasses s (execPreemptDrainComplete p s) :=
  keepsClasses_go fun m => by split <;> simp
@[simp] theorem execPreconditionCleared_keepsClasses (k : SetId) (s : State) : KeepsClasses s (execPreconditionCleared k s) :=
  keepsClasses_go fun m => by
    repeat' split
    all_goals simp

/-! ### Machine/Commit -/

@[simp] theorem Dev.commitLeaf_classes (m : Dev) (p : Pid) (a : Container) (old : Tab Word) (e : DieId × Nat × LeafId) :
    (m.commitLeaf p a old e).classes = m.classes := by
  simp [Dev.commitLeaf]
@[simp] theorem Dev.warnLeaf_classes (m : Dev) (p : Pid) (a : Container) (e : DieId × Nat × LeafId) : (m.warnLeaf p a e).classes = m.classes := by
  simp [Dev.warnLeaf]
@[simp] theorem Dev.commitTile_classes (m : Dev) (p : Pid) (a : Container) (old : Tab Word) (d : DieId) (t : Nat) :
    (m.commitTile p a old d t).1.classes = m.classes := by
  simp [Dev.commitTile]
@[simp] theorem Dev.commitDie_classes (m : Dev) (p : Pid) (a : Container) (old : Tab Word) (d : DieId) :
    (m.commitDie p a old d).classes = m.classes := by
  simp [Dev.commitDie]
@[simp] theorem Dev.commitWeights_classes (m : Dev) (p : Pid) (a : Container) (r : StepRun) : (m.commitWeights p a r).classes = m.classes := by
  simp [Dev.commitWeights]
@[simp] theorem Dev.countFallback_classes (m : Dev) (p : Pid) (r : StepRun) : (m.countFallback p r).classes = m.classes := by
  simp [Dev.countFallback]
@[simp] theorem Dev.commit_classes (m : Dev) (p : Pid) (a : Container) (r : StepRun) : (m.commit p a r).classes = m.classes := by
  unfold Dev.commit
  dsimp only
  split <;> simp
@[simp] theorem execCommitPoint_keepsClasses (p : Pid) (s : State) : KeepsClasses s (execCommitPoint p s) :=
  keepsClasses_go fun m => by split <;> simp

/-! ### Machine/FaultCmds -/

@[simp] theorem Dev.stallEvent_classes (m : Dev) (d : DieId) (cls action index : Nat) (ps : List Pid) :
    (m.stallEvent d cls action index ps).classes = m.classes := by
  simp [Dev.stallEvent]
@[simp] theorem Dev.stallTile_classes (m : Dev) (d : DieId) (t : Nat) : (m.stallTile d t).classes = m.classes := by simp [Dev.stallTile]
@[simp] theorem Dev.stallRollback_classes (m : Dev) (d : DieId) (cls index : Nat) (ps : List Pid) :
    (m.stallRollback d cls index ps).classes = m.classes := by
  simp [Dev.stallRollback]
@[simp] theorem Dev.handshakeStall_classes (m : Dev) (d : DieId) (cls : HsClass) (index : Nat) :
    (m.handshakeStall d cls index).classes = m.classes := by
  unfold Dev.handshakeStall
  split
  · simp
  · split <;> simp
@[simp] theorem execHandshakeStall_keepsClasses (d : DieId) (cls : HsClass) (index : Nat) (s : State) :
    KeepsClasses s (execHandshakeStall d cls index s) := by
  simp [execHandshakeStall]
@[simp] theorem execRollbackResume_keepsClasses (p : Pid) (s : State) : KeepsClasses s (execRollbackResume p s) := by simp [execRollbackResume]
@[simp] theorem execRefclkLoss_keepsClasses (d : DieId) (s : State) : KeepsClasses s (execRefclkLoss d s) := by simp [execRefclkLoss]
@[simp] theorem execRefclkReturn_keepsClasses (d : DieId) (s : State) : KeepsClasses s (execRefclkReturn d s) := by simp [execRefclkReturn]
@[simp] theorem execDcntCalibrationStart_keepsClasses (d : DieId) (s : State) : KeepsClasses s (execDcntCalibrationStart d s) := by
  simp [execDcntCalibrationStart]
@[simp] theorem execDcntCalibrationEnd_keepsClasses (d : DieId) (trim : BitVec 16) (s : State) :
    KeepsClasses s (execDcntCalibrationEnd d trim s) := by
  simp [execDcntCalibrationEnd]
@[simp] theorem execBridgeEccCorrected_keepsClasses (s : State) : KeepsClasses s (execBridgeEccCorrected s) := by simp [execBridgeEccCorrected]
@[simp] theorem execBridgeEccUncorrectable_keepsClasses (sect : BridgeSection) (s : State) : KeepsClasses s (execBridgeEccUncorrectable sect s) :=
  keepsClasses_go fun m => by split <;> simp

/-! ### Machine/Hooks -/

@[simp] theorem Dev.loadIr_classes (m : Dev) (i : JtagIr) : (m.loadIr i).classes = m.classes := (rfl)
@[simp] theorem Dev.complianceIr_classes (m : Dev) (i : JtagIr) : (m.complianceIr i).classes = m.classes := by simp [Dev.complianceIr]
@[simp] theorem Dev.jtag_classes (m : Dev) (f : Dev → Dev) (h : ∀ n, (f n).classes = n.classes) : (m.jtag f).classes = m.classes := by
  simp [h, Dev.jtag]
@[simp] theorem execBypass_keepsClasses (s : State) : KeepsClasses s (execBypass s) := by simp [execBypass]
@[simp] theorem execIdcode_keepsClasses (s : State) : KeepsClasses s (execIdcode s) := by simp [execIdcode]
@[simp] theorem execSamplePreload_keepsClasses (capture preload : BitVec 64) (s : State) :
    KeepsClasses s (execSamplePreload capture preload s) := by
  simp [execSamplePreload]
@[simp] theorem execExtest_keepsClasses (s : State) : KeepsClasses s (execExtest s) := by simp [execExtest]
@[simp] theorem execClamp_keepsClasses (s : State) : KeepsClasses s (execClamp s) := by simp [execClamp]
@[simp] theorem execHighz_keepsClasses (s : State) : KeepsClasses s (execHighz s) := by simp [execHighz]
@[simp] theorem execPrivateInstruction_keepsClasses (code : Nat) (s : State) : KeepsClasses s (execPrivateInstruction code s) := by
  unfold execPrivateInstruction
  split <;> simp
@[simp] theorem execSegmentDeadlineExpiry_keepsClasses (p : Pid) (d : DieId) (segment : Nat) (s : State) :
    KeepsClasses s (execSegmentDeadlineExpiry p d segment s) :=
  keepsClasses_go fun m => by split <;> simp

/-! ### Machine/Power -/

@[simp] theorem execPowerRequestRun_keepsClasses (src : Source) (s : State) : KeepsClasses s (execPowerRequestRun src s) := by
  simp [execPowerRequestRun]
@[simp] theorem execPowerRequestVigil_keepsClasses (src : Source) (s : State) : KeepsClasses s (execPowerRequestVigil src s) := by
  simp [execPowerRequestVigil]
@[simp] theorem execPowerRequestRepose_keepsClasses (src : Source) (s : State) : KeepsClasses s (execPowerRequestRepose src s) := by
  simp [execPowerRequestRepose]
@[simp] theorem execPowerRequestOff_keepsClasses (src : Source) (s : State) : KeepsClasses s (execPowerRequestOff src s) := by
  simp [execPowerRequestOff]
@[simp] theorem execPowerDeferRetry_keepsClasses (n : Nat) (s : State) : KeepsClasses s (execPowerDeferRetry n s) :=
  keepsClasses_go fun m => by
    repeat' split
    all_goals simp
@[simp] theorem execAutoVigilExpiry_keepsClasses (s : State) : KeepsClasses s (execAutoVigilExpiry s) := by simp [execAutoVigilExpiry]
@[simp] theorem execIdleTimerExpiry_keepsClasses (s : State) : KeepsClasses s (execIdleTimerExpiry s) := by simp [execIdleTimerExpiry]
@[simp] theorem Die.vigilFeel_cls (x : Die) (dt : Nat) : (x.vigilFeel dt).cls = x.cls := by simp [Die.vigilFeel]
@[simp] theorem execVigilWake_keepsClasses (d : DieId) (rs : List Int) (refv band vref : Nat) (s : State) :
    KeepsClasses s (execVigilWake d rs refv band vref s) := by
  simp [execVigilWake]
@[simp] theorem execVigilSleep_keepsClasses (d : DieId) (s : State) : KeepsClasses s (execVigilSleep d s) := by simp [execVigilSleep]
@[simp] theorem Dev.plWrite_classes (m : Dev) (v : Word) : (m.plWrite v).classes = m.classes := by simp [Dev.plWrite]
@[simp] theorem execPlWrite_keepsClasses (v : Word) (s : State) : KeepsClasses s (execPlWrite v s) := by simp [execPlWrite]
@[simp] theorem execPowerSample_keepsClasses (watts : Nat) (vin : Nat) (s : State) : KeepsClasses s (execPowerSample watts vin s) := by
  simp [execPowerSample]
@[simp] theorem execCapCheck_keepsClasses (s : State) : KeepsClasses s (execCapCheck s) := by simp [execCapCheck]
@[simp] theorem execCapRaiseCheck_keepsClasses (s : State) : KeepsClasses s (execCapRaiseCheck s) := by simp [execCapRaiseCheck]
@[simp] theorem execThermalCapFall_keepsClasses (d : DieId) (s : State) : KeepsClasses s (execThermalCapFall d s) := by simp [execThermalCapFall]
@[simp] theorem execThermalCapRise_keepsClasses (d : DieId) (s : State) : KeepsClasses s (execThermalCapRise d s) := by simp [execThermalCapRise]
@[simp] theorem execOvertempRecovered_keepsClasses (d : DieId) (s : State) : KeepsClasses s (execOvertempRecovered d s) := by
  simp [execOvertempRecovered]
@[simp] theorem execPwrClearAll_keepsClasses (s : State) : KeepsClasses s (execPwrClearAll s) := by simp [execPwrClearAll]
@[simp] theorem execPwrClearSel_keepsClasses (s : State) : KeepsClasses s (execPwrClearSel s) := by simp [execPwrClearSel]

/-! ### Machine/Startup -/

@[simp] theorem execStandbyPowerGood_keepsClasses (s : State) : KeepsClasses s (execStandbyPowerGood s) := by simp [execStandbyPowerGood]
@[simp] theorem execPowerOnStart_keepsClasses (testEn : Bool) (s : State) : KeepsClasses s (execPowerOnStart testEn s) := by
  simp [execPowerOnStart]
@[simp] theorem Dev.hostResetPart_classes (m : Dev) (p : Pid) : (m.hostResetPart p).classes = m.classes := by
  unfold Dev.hostResetPart
  dsimp only
  split <;> simp
@[simp] theorem execHostLinkReset_keepsClasses (kind : HostResetKind) (s : State) : KeepsClasses s (execHostLinkReset kind s) :=
  keepsClasses_go fun m => by
    dsimp only
    simp
    rw [when_classes]
    · simp
    · simp
@[simp] theorem execPerstRelease_keepsClasses (s : State) : KeepsClasses s (execPerstRelease s) := by simp [execPerstRelease]
@[simp] theorem execCxlHalf0Timeout_keepsClasses (s : State) : KeepsClasses s (execCxlHalf0Timeout s) := by simp [execCxlHalf0Timeout]
@[simp] theorem execCxlLinkUp_keepsClasses (s : State) : KeepsClasses s (execCxlLinkUp s) := by simp [execCxlLinkUp]
@[simp] theorem execCxlConfigRequest_keepsClasses (tag : Nat) (cache : Option Bool) (s : State) :
    KeepsClasses s (execCxlConfigRequest tag cache s) := by
  simp [execCxlConfigRequest]
@[simp] theorem execCxlReady_keepsClasses (s : State) : KeepsClasses s (execCxlReady s) := by simp [execCxlReady]
@[simp] theorem Dev.toTests_classes (m : Dev) : m.toTests.classes = m.classes := by simp [Dev.toTests]
@[simp] theorem Dev.discardCopies_classes (m : Dev) (errs : List FlashError) (d : DieId) (k : StoreKind) (t : Nat) (l : LeafId) :
    (m.discardCopies errs d k t l).classes = m.classes :=
  foldl_classes _ _ _ fun n a => by split <;> simp
@[simp] theorem Dev.setWear_classes (m : Dev) (d : DieId) (t : Nat) (ls : List (Nat × Nat)) : (m.setWear d t ls).classes = m.classes := by
  simp [Dev.setWear]
@[simp] theorem Dev.recalConv_classes (m : Dev) (d : DieId) (t : Nat) : (m.recalConv d t).classes = m.classes := by simp [Dev.recalConv]
@[simp] theorem Dev.recalCols_classes (m : Dev) (d : DieId) (t : Nat) (l : LeafId) : (m.recalCols d t l).classes = m.classes := by
  simp [Dev.recalCols]
@[simp] theorem Dev.recalTrack_classes (m : Dev) (d : DieId) (t : Nat) (l : LeafId) : (m.recalTrack d t l).classes = m.classes := by
  simp [Dev.recalTrack]
@[simp] theorem Dev.recalibrate_classes (m : Dev) (errs : List FlashError) (d : DieId) (k : StoreKind) (t : Nat) (l : LeafId) :
    (m.recalibrate errs d k t l).classes = m.classes := by
  unfold Dev.recalibrate
  split <;> simp
@[simp] theorem execStoreReady_keepsClasses (d : DieId) (errs : List FlashError) (s : State) : KeepsClasses s (execStoreReady d errs s) := by
  simp [execStoreReady]
@[simp] theorem Dev.restoreWear_classes (m : Dev) (d : DieId) : (m.restoreWear d).classes = m.classes :=
  foldl_classes _ _ _ fun n a => by
    split
    · split <;> simp
    · simp
@[simp] theorem Dev.restoreBinds_classes (m : Dev) : m.restoreBinds.classes = m.classes := by simp [Dev.restoreBinds]
@[simp] theorem execJobReady_keepsClasses (s : State) : KeepsClasses s (execJobReady s) := by simp [execJobReady]

/-! ### Machine/RegWrite -/

@[simp] theorem Dev.asCommand_classes (f : State → Res) (m : Dev) (h : ∀ s, KeepsClasses s (f s)) : (m.asCommand f).classes = m.classes := by
  unfold Dev.asCommand
  split
  · next hs => exact h _ _ hs
  · rfl
@[simp] theorem when_asCommand_classes (c : Bool) (f : State → Res) (m : Dev) (h : ∀ s, KeepsClasses s (f s)) :
    (when c (Dev.asCommand f) m).classes = m.classes := by
  simp [h]
@[simp] theorem Dev.clears_classes (m : Dev) (v : Word) (all sel : State → Res) (hall : ∀ s, KeepsClasses s (all s))
    (hsel : ∀ s, KeepsClasses s (sel s)) : (m.clears v all sel).classes = m.classes := by
  simp [Dev.clears, hall, hsel]
@[simp] theorem Dev.tstWrite_classes (m : Dev) (d : DieId) (r : RegDef) (fs : List FieldRule) (v : Word) :
    (m.tstWrite d r fs v).classes = m.classes := by
  simp [Dev.tstWrite]
@[simp] theorem Dev.stallWrite_classes (m : Dev) (d : DieId) (v : Word) : (m.stallWrite d v).classes = m.classes := by simp [Dev.stallWrite]
@[simp] theorem Dev.unlockWrite_classes (m : Dev) (v : Word) : (m.unlockWrite v).classes = m.classes := by simp [Dev.unlockWrite]
@[simp] theorem Dev.writeBase_classes (m : Dev) (i : Nat) (mask v : Word) : (m.writeBase i mask v).classes = m.classes := (rfl)
@[simp] theorem Dev.writeBindReq_classes (m : Dev) (src : Source) (v : Word) : (m.writeBindReq src v).classes = m.classes := (rfl)
@[simp] theorem Dev.writePwrCtrl_classes (m : Dev) (src : Source) (v : Word) : (m.writePwrCtrl src v).classes = m.classes := by
  simp [Dev.writePwrCtrl]
@[simp] theorem Dev.writeXchk_classes (m : Dev) (v : Word) : (m.writeXchk v).classes = m.classes := by simp [Dev.writeXchk]

/-! ### Machine/Management -/

@[simp] theorem Dev.reply_classes (m : Dev) (code status : Nat) (v : Word) : (m.reply code status v).classes = m.classes := (rfl)
@[simp] theorem execRegRead_keepsClasses (off : BitVec 20) (s : State) : KeepsClasses s (execRegRead off s) := by simp [execRegRead]
@[simp] theorem Dev.objectRefused_classes (m : Dev) : m.objectRefused.classes = m.classes := by simp [Dev.objectRefused]
@[simp] theorem Dev.applyRecord_classes (m : Dev) (seq : Dbl) (b : RecordBody) (digest : BitVec 384) :
    (m.applyRecord seq b digest).classes = m.classes := by
  unfold Dev.applyRecord
  split <;> simp
@[simp] theorem Dev.takeRecord_classes (m : Dev) (magic : Dbl) (format length : Nat) (seq idtag : Dbl) (rsvd : Nat) (b : RecordBody)
    (digest : BitVec 384) (g : Signature) :
    (m.takeRecord magic format length seq idtag rsvd b digest g).1.classes = m.classes := by
  unfold Dev.takeRecord
  dsimp only
  split <;> simp
@[simp] theorem execObjBegin_keepsClasses (kind length : Nat) (s : State) : KeepsClasses s (execObjBegin kind length s) :=
  keepsClasses_go fun m => by
    split
    · simp
    · split <;> simp
@[simp] theorem execObjData_keepsClasses (handle offset : Nat) (data : List Byte) (s : State) :
    KeepsClasses s (execObjData handle offset data s) :=
  keepsClasses_go fun m => by
    split
    · simp
    · split <;> simp
theorem Dev.takeFirmware_classes (m : Dev) (magic : Dbl) (format component svn : Nat) (digest : BitVec 384) (g : Signature) :
    ∀ n, m.takeFirmware magic format component svn digest g = some n → n.classes = m.classes := by
  unfold Dev.takeFirmware
  split <;> simp
@[simp] theorem Dev.takeObject_classes (m : Dev) (kind : Nat) (obj : Option MgmtObject) : (m.takeObject kind obj).1.classes = m.classes := by
  unfold Dev.takeObject
  split
  · split
    · simp
    · split
      · next hn => exact m.takeFirmware_classes _ _ _ _ _ _ _ hn
      · simp
  · dsimp only
    split <;> simp
  · split <;> simp
  · simp
@[simp] theorem execObjEnd_keepsClasses (handle : Nat) (obj : Option MgmtObject) (s : State) : KeepsClasses s (execObjEnd handle obj s) :=
  keepsClasses_go fun m => by
    dsimp only
    repeat' split
    all_goals simp
@[simp] theorem execLogRead_keepsClasses (seq : Dbl) (s : State) : KeepsClasses s (execLogRead seq s) :=
  keepsClasses_go fun m => by
    split
    · simp
    · split <;> simp
@[simp] theorem execSetDest_keepsClasses (mac : BitVec 48) (s : State) : KeepsClasses s (execSetDest mac s) := by simp [execSetDest]

/-! ### Machine/Registers -/

@[simp] theorem execUnsupportedRegisterAccess_keepsClasses (off : BitVec 20) (bytes : Nat) (isWrite : Bool) (s : State) :
    KeepsClasses s (execUnsupportedRegisterAccess off bytes isWrite s) := by
  simp [execUnsupportedRegisterAccess]
@[simp] theorem Dev.hostRead_classes (m : Dev) (off : Nat) : (m.hostRead off).classes = m.classes := by simp [Dev.hostRead]
@[simp] theorem execCalDcntLoRead_keepsClasses (d : DieId) (s : State) : KeepsClasses s (execCalDcntLoRead d s) := by simp [execCalDcntLoRead]
@[simp] theorem execStepCountLoRead_keepsClasses (d : DieId) (s : State) : KeepsClasses s (execStepCountLoRead d s) := by
  simp [execStepCountLoRead]
@[simp] theorem execNormLoRead_keepsClasses (d : DieId) (s : State) : KeepsClasses s (execNormLoRead d s) := by simp [execNormLoRead]
@[simp] theorem execLastAgreeLoRead_keepsClasses (s : State) : KeepsClasses s (execLastAgreeLoRead s) := by simp [execLastAgreeLoRead]
@[simp] theorem execUeAddrLoRead_keepsClasses (d : DieId) (s : State) : KeepsClasses s (execUeAddrLoRead d s) := by simp [execUeAddrLoRead]
@[simp] theorem execUnlockCloseWrite_keepsClasses (v : Word) (s : State) : KeepsClasses s (execUnlockCloseWrite v s) := by
  simp [execUnlockCloseWrite]
@[simp] theorem execUnlockExpiry_keepsClasses (s : State) : KeepsClasses s (execUnlockExpiry s) := keepsClasses_go fun m => by split <;> simp
@[simp] theorem execAckDelayWrite_keepsClasses (d : DieId) (v : Word) (s : State) : KeepsClasses s (execAckDelayWrite d v s) := by
  simp [execAckDelayWrite]
@[simp] theorem execStretchWrite_keepsClasses (d : DieId) (v : Word) (s : State) : KeepsClasses s (execStretchWrite d v s) := by
  simp [execStretchWrite]
@[simp] theorem execBackpressWrite_keepsClasses (d : DieId) (v : Word) (s : State) : KeepsClasses s (execBackpressWrite d v s) := by
  simp [execBackpressWrite]
@[simp] theorem execPatternWrite_keepsClasses (d : DieId) (v : Word) (s : State) : KeepsClasses s (execPatternWrite d v s) := by
  simp [execPatternWrite]
@[simp] theorem execStallGo_keepsClasses (d : DieId) (v : Word) (s : State) : KeepsClasses s (execStallGo d v s) := by simp [execStallGo]

/-! ### Fences -/

/-- Every die keeps its class or is fenced. -/
def FencesOnly (v w : Vector DieClass 8) : Prop := ∀ d : DieId, w[d] = v[d] ∨ w[d] = .fenced

@[simp] theorem FencesOnly.refl (v : Vector DieClass 8) : FencesOnly v v := fun _ => .inl rfl
theorem FencesOnly.trans {u v w : Vector DieClass 8} (h : FencesOnly u v) (k : FencesOnly v w) : FencesOnly u w := fun d => by
  rcases k d with hk | hk
  · rw [hk]
    exact h d
  · exact .inr hk

@[simp] theorem Die.drop_cls (x : Die) : x.drop.cls = .fenced := (rfl)

theorem Dev.modDie_fencesOnly (m : Dev) (d : DieId) (f : Die → Die) (h : ∀ x, (f x).cls = .fenced) : FencesOnly m.classes (m.modDie d f).classes := by
  intro e
  rw [Dev.classes_get, Dev.classes_get, Dev.modDie_die_if]
  split
  · exact .inr (h _)
  · exact .inl rfl

theorem Dev.fence_fencesOnly (m : Dev) (d : DieId) : FencesOnly m.classes (m.fence d).classes := by
  unfold Dev.fence
  split
  · simp
  · simp [Dev.modDie_fencesOnly]

theorem Dev.failDie_fencesOnly (m : Dev) (d : DieId) : FencesOnly m.classes (m.failDie d).classes := by
  unfold Dev.failDie
  split
  · simp
  · simp [Dev.modDie_fencesOnly]

@[simp] theorem FencesOnly.fence {v : Vector DieClass 8} {m : Dev} (h : FencesOnly v m.classes) (d : DieId) : FencesOnly v (m.fence d).classes :=
  h.trans (m.fence_fencesOnly d)
@[simp] theorem FencesOnly.failDie {v : Vector DieClass 8} {m : Dev} (h : FencesOnly v m.classes) (d : DieId) : FencesOnly v (m.failDie d).classes :=
  h.trans (m.failDie_fencesOnly d)

theorem foldl_fencesOnly {α : Type} {v : Vector DieClass 8} (l : List α) (f : Dev → α → Dev) (m : Dev) (hm : FencesOnly v m.classes)
    (hf : ∀ n a, FencesOnly n.classes (f n a).classes) : FencesOnly v (l.foldl f m).classes := by
  induction l generalizing m with
  | nil => exact hm
  | cons a l ih => exact ih _ (hm.trans (hf m a))

@[simp] theorem Dev.fenceBoth_fencesOnly (m : Dev) (a b : DieId) : FencesOnly m.classes (m.fenceBoth a b).classes := by
  unfold Dev.fenceBoth
  exact (FencesOnly.fence (by simp) a).fence b

@[simp] theorem Dev.trimVref_fencesOnly (m : Dev) (d : DieId) (f : RailsFound) : FencesOnly m.classes (m.trimVref d f).classes := by
  unfold Dev.trimVref
  dsimp only
  split
  · simp
  · split <;> simp

/-! ### The reset of the whole module -/

/-- Every die's class and every partition are as at reset. -/
def Dev.Wiped (n : Dev) : Prop := n.classes = Dev.reset.classes ∧ n.parts = Dev.reset.parts

theorem Dev.Wiped.cls {n : Dev} (h : n.Wiped) (e : DieId) : (n.die e).cls = .unclassified := by
  rw [← Dev.classes_get, h.1]
  simp [Dev.reset, Dev.classes, Die.reset]
theorem Dev.Wiped.part {n : Dev} (h : n.Wiped) (p : Pid) : n.part p = Part.reset := by
  simp [Dev.part, h.2, Dev.reset]

theorem Dev.removeRails_wiped (m : Dev) (cause : Nat) : (m.removeRails cause).Wiped := ⟨rfl, rfl⟩

theorem Dev.boot_parts (m : Dev) : m.boot.parts = m.parts := rfl

theorem Dev.Wiped.boot {n : Dev} (h : n.Wiped) : n.boot.Wiped := ⟨n.boot_classes.trans h.1, n.boot_parts.trans h.2⟩

theorem Dev.moduleReset_wiped (m : Dev) (testEn : Bool) : (m.moduleReset testEn).Wiped := by
  have wiped_ite : ∀ (c : Bool) (n : Dev), n.Wiped → (if c then n.boot else n).Wiped := fun c n h => by
    cases c
    · exact h
    · exact h.boot
  exact wiped_ite _ _ ⟨rfl, rfl⟩

/-- No die is unfenced but by the reset of the whole module, and none enters service (R45). -/
def Dev.FencedOrWiped (m n : Dev) : Prop := FencesOnly m.classes n.classes ∨ n.Wiped

@[simp] theorem Dev.FencedOrWiped.of_classes {m n : Dev} (h : n.classes = m.classes) : m.FencedOrWiped n := .inl (by simp [h])

theorem Dev.safResetWrite_fencedOrWiped (m : Dev) (src : Source) (v : Word) (testEn : Bool) : m.FencedOrWiped (m.safResetWrite src v testEn) := by
  unfold Dev.safResetWrite
  split
  · simp
  · split
    · exact .inr (m.moduleReset_wiped testEn)
    · simp

/-! ### Register writes -/

theorem Dev.writeDieCmd_classes (m : Dev) (d : DieId) (off : Nat) (v : Word) : ∀ n, m.writeDieCmd d off v = some n → n.classes = m.classes := by
  unfold Dev.writeDieCmd
  split
  all_goals simp

theorem Dev.writeDie_classes (m : Dev) (d : DieId) (off : Nat) (v : Word) : ∀ n, m.writeDie d off v = some n → n.classes = m.classes := by
  unfold Dev.writeDie
  split
  · simp
  · exact m.writeDieCmd_classes d off v

theorem Dev.writeModCmd_fencedOrWiped (m : Dev) (src : Source) (off : Nat) (v : Word) :
    ∀ n, m.writeModCmd src off v = some n → m.FencedOrWiped n := by
  unfold Dev.writeModCmd
  split
  all_goals simp [Dev.safResetWrite_fencedOrWiped]

theorem Dev.writeMod_fencedOrWiped (m : Dev) (src : Source) (off : Nat) (v : Word) : ∀ n, m.writeMod src off v = some n → m.FencedOrWiped n := by
  unfold Dev.writeMod
  split
  · simp
  · exact m.writeModCmd_fencedOrWiped src off v

theorem Dev.writeReg_fencedOrWiped (m : Dev) (src : Source) (off : Nat) (v : Word) : ∀ n, m.writeReg src off v = some n → m.FencedOrWiped n := by
  unfold Dev.writeReg
  split
  · intro n hn
    obtain ⟨k, hk, rfl⟩ := Option.map_eq_some_iff.mp hn
    have := m.writeDie_classes _ _ _ k hk
    simp [this]
  · intro n hn
    obtain ⟨k, hk, rfl⟩ := Option.map_eq_some_iff.mp hn
    split
    · simp
    · exact m.writeMod_fencedOrWiped src off v k hk

theorem Dev.FencedOrWiped.reply {m n : Dev} (h : m.FencedOrWiped n) (code status : Nat) (data : Word) : m.FencedOrWiped (n.reply code status data) := h

/-! ### The commands that fence or reset -/

/-- Where the meaning answers a next state, dies are only fenced or the whole module is reset. -/
def FencesOrWipes (s : State) (r : Res) : Prop := ∀ t, r = .next t → s.dev.FencedOrWiped t.dev

theorem KeepsClasses.fencesOrWipes {s : State} {r : Res} (h : KeepsClasses s r) : FencesOrWipes s r := fun t ht => .of_classes (h t ht)
theorem fencesOrWipes_go {s : State} {f : Dev → Dev} (h : ∀ m : Dev, m.FencedOrWiped (f m)) : FencesOrWipes s (s.go f) := by
  simp [FencesOrWipes, h]

theorem execStackFailure_fencesOrWipes (d : DieId) (s : State) : FencesOrWipes s (execStackFailure d s) := fencesOrWipes_go fun m => by
  split
  · simp
  · exact .inl (by simp)

theorem execMeasurementRound_fencesOrWipes (meas : List (Option (BitVec 384))) (s : State) : FencesOrWipes s (execMeasurementRound meas s) :=
  fencesOrWipes_go fun m => .inl (by
    dsimp only
    rw [ite_classes, Dev.electFirst_classes, ite_self]
    apply foldl_fencesOnly
    · simp
    · simp)

theorem execPartialResetDone_fencesOrWipes (d : DieId) (inMajority : Bool) (s : State) : FencesOrWipes s (execPartialResetDone d inMajority s) :=
  fencesOrWipes_go fun m => by
    split
    · cases inMajority
      · exact .inl (by simp)
      · simp
    · simp

theorem execHs6RetryExpiry_fencesOrWipes (a b : DieId) (acked stalledA stalledB : Bool) (s : State) :
    FencesOrWipes s (execHs6RetryExpiry a b acked stalledA stalledB s) := fencesOrWipes_go fun m => .inl (by
  repeat' split
  all_goals simp)

theorem execRailsGood_fencesOrWipes (d : DieId) (f : RailsFound) (s : State) : FencesOrWipes s (execRailsGood d f s) :=
  fencesOrWipes_go fun m => .inl (by
    split
    · simp
    · dsimp only
      rw [Dev.toTests_classes]
      exact FencesOnly.trans (by simp) (Dev.trimVref_fencesOnly _ d f))

theorem execWarmupEnd_fencesOrWipes (d : DieId) (reached : Bool) (s : State) : FencesOrWipes s (execWarmupEnd d reached s) :=
  fencesOrWipes_go fun m => .inl (by
    repeat' split
    all_goals simp)

theorem execRefclkWaitTimeout_fencesOrWipes (d : DieId) (s : State) : FencesOrWipes s (execRefclkWaitTimeout d s) :=
  fencesOrWipes_go fun m => .inl (by split <;> simp)

theorem execPowerStateReached_fencesOrWipes (s : State) : FencesOrWipes s (execPowerStateReached s) := fencesOrWipes_go fun m => by
  split
  · split
    · simp
    · dsimp only
      split
      · simp
      · simp
      · simp
      · exact .inr (Dev.removeRails_wiped _ 5)
  · simp

theorem execThermalTrip115_fencesOrWipes (d : DieId) (s : State) : FencesOrWipes s (execThermalTrip115 d s) := fencesOrWipes_go fun m => by
  dsimp only
  split
  · exact .inr (m.removeRails_wiped 3)
  · simp

theorem execStandbyPowerLoss_fencesOrWipes (s : State) : FencesOrWipes s (execStandbyPowerLoss s) := fencesOrWipes_go fun _ => .inr ⟨rfl, rfl⟩

theorem execJ1OutOfRange_fencesOrWipes (mV : Nat) (s : State) : FencesOrWipes s (execJ1OutOfRange mV s) := fencesOrWipes_go fun m => by
  split
  · simp
  · dsimp only
    split
    · simp
    · exact .inr (m.removeRails_wiped (if mV < 54000 then 1 else 2))

theorem execPwrEnLow_fencesOrWipes (s : State) : FencesOrWipes s (execPwrEnLow s) := fencesOrWipes_go fun m => by
  dsimp only
  split
  · simp
  · exact .inr (m.beforeReset.removeRails_wiped 4)

theorem execModRstNAssert_fencesOrWipes (testEn : Bool) (s : State) : FencesOrWipes s (execModRstNAssert testEn s) := fencesOrWipes_go fun m => by
  split
  · exact .inr (Dev.moduleReset_wiped _ testEn)
  · simp

theorem execSafResetModule_fencesOrWipes (v : Word) (testEn : Bool) (s : State) : FencesOrWipes s (execSafResetModule v testEn s) :=
  fencesOrWipes_go fun m => by
    split
    · simp
    · exact m.safResetWrite_fencedOrWiped .mgmt v testEn

theorem execSafResetPartial_fencesOrWipes (v : Word) (s : State) : FencesOrWipes s (execSafResetPartial v s) := fencesOrWipes_go fun m => by
  split
  · simp
  · exact m.safResetWrite_fencedOrWiped .mgmt v _

theorem execRegWrite_fencesOrWipes (off : BitVec 20) (v : Word) (s : State) : FencesOrWipes s (execRegWrite off v s) := fencesOrWipes_go fun m => by
  split
  · simp
  · split
    · simp
    · split
      · next hn => exact (m.writeReg_fencedOrWiped .mgmt off.toNat v _ hn).reply 0x02 0 0
      · simp

theorem execRegisterWrite_fencesOrWipes (off : BitVec 20) (v : Word) (s : State) : FencesOrWipes s (execRegisterWrite off v s) :=
  fencesOrWipes_go fun m => by
    split
    · cases hn : m.writeReg .host off.toNat v with
      | none => simp
      | some n => exact m.writeReg_fencedOrWiped .host off.toNat v n hn
    · simp

/-- Every command but the start-up classification. -/
theorem exec_fencesOrWipes (c : Instr) (s : State) (hc : ∀ p k u, c ≠ .startupTestDone p k u) : FencesOrWipes s (exec c s) := by
  cases c with
  | startupTestDone p k u => exact absurd rfl (hc p k u)
  | stackFailure d => exact execStackFailure_fencesOrWipes d s
  | measurementRound meas => exact execMeasurementRound_fencesOrWipes meas s
  | partialResetDone d b => exact execPartialResetDone_fencesOrWipes d b s
  | hs6RetryExpiry a b acked stalledA stalledB => exact execHs6RetryExpiry_fencesOrWipes a b acked stalledA stalledB s
  | railsGood d f => exact execRailsGood_fencesOrWipes d f s
  | warmupEnd d b => exact execWarmupEnd_fencesOrWipes d b s
  | refclkWaitTimeout d => exact execRefclkWaitTimeout_fencesOrWipes d s
  | powerStateReached => exact execPowerStateReached_fencesOrWipes s
  | thermalTrip115 d => exact execThermalTrip115_fencesOrWipes d s
  | standbyPowerLoss => exact execStandbyPowerLoss_fencesOrWipes s
  | j1OutOfRange mV => exact execJ1OutOfRange_fencesOrWipes mV s
  | pwrEnLow => exact execPwrEnLow_fencesOrWipes s
  | modRstNAssert b => exact execModRstNAssert_fencesOrWipes b s
  | safResetModule v b => exact execSafResetModule_fencesOrWipes v b s
  | safResetPartial v => exact execSafResetPartial_fencesOrWipes v s
  | regWrite off v => exact execRegWrite_fencesOrWipes off v s
  | registerWrite off v => exact execRegisterWrite_fencesOrWipes off v s
  | _ => exact KeepsClasses.fencesOrWipes (by simp [exec])

/-! ### The start-up classification -/

/-- As `FencesOnly`, but an unclassified die may be in service after. -/
def Classifies (v w : Vector DieClass 8) : Prop := ∀ d : DieId, w[d] = v[d] ∨ w[d] = .fenced ∨ (v[d] = .unclassified ∧ w[d] = .inService)

theorem Classifies.refl (v : Vector DieClass 8) : Classifies v v := fun _ => .inl rfl

theorem Classifies.fences {u v w : Vector DieClass 8} (h : Classifies u v) (k : FencesOnly v w) : Classifies u w := fun d => by
  rcases k d with hk | hk
  · rw [hk]
    exact h d
  · exact .inr (.inl hk)

theorem Dev.modDie_classes_set (m : Dev) (d : DieId) (f : Die → Die) : (m.modDie d f).classes = m.classes.set d (f (m.die d)).cls := Vector.map_set ..

theorem Dev.classify_classes (m : Dev) (d : DieId) (unitsPassed : Bool) : (m.classify d unitsPassed).classes = m.classes.set d .inService := by
  unfold Dev.classify
  dsimp only
  split <;> simp [Dev.modDie_classes_set]

theorem Classifies.classify {v : Vector DieClass 8} {m : Dev} (h : Classifies v m.classes) {d : DieId} (hd : v[d] = .unclassified) (unitsPassed : Bool) :
    Classifies v (m.classify d unitsPassed).classes := fun e => by
  by_cases he : e = d
  · subst he
    exact .inr (.inr ⟨hd, by simp [Dev.classify_classes]⟩)
  · have : (m.classify d unitsPassed).classes[e] = m.classes[e] := by
      rw [Dev.classify_classes]
      exact Vector.getElem_set_ne _ _ fun hv => he (Fin.ext hv.symm)
    rw [this]
    exact h e

theorem foldl_classifies {v : Vector DieClass 8} (l : List DieId) (f : Dev → DieId → Dev) (m : Dev) (hm : Classifies v m.classes)
    (hf : ∀ n, ∀ d ∈ l, Classifies v n.classes → Classifies v (f n d).classes) : Classifies v (l.foldl f m).classes := by
  induction l generalizing m with
  | nil => exact hm
  | cons a l ih => exact ih _ (hf m a (by simp) hm) fun n d hd => hf n d (by simp [hd])

theorem execStartupTestDone_classifies (p k : BitVec 8) (u : Bool) (s t : State) (h : execStartupTestDone p k u s = .next t) :
    Classifies s.dev.classes t.dev.classes := by
  simp only [execStartupTestDone, State.go_eq, Host.Outcome.next.injEq] at h
  subst h
  split
  · exact .refl _
  · dsimp only
    rw [Dev.publishIfCalm_classes, Dev.tooFew_classes]
    refine foldl_classifies _ _ _ (.refl _) fun n d hd hn => ?_
    have hd : s.dev.classes[d] = .unclassified := by
      rw [Dev.classes_get]
      simp only [List.mem_append, List.mem_filter, decide_eq_true_eq] at hd
      rcases hd with ⟨⟨-, hd⟩, -⟩ | ⟨⟨-, hd⟩, -⟩ <;> exact hd
    split
    · exact hn.fences (by simp)
    · split
      · exact hn.classify hd u
      · exact hn.fences (by simp)

/-! ### What a class can become -/

theorem FencesOnly.inService {v w : Vector DieClass 8} (h : FencesOnly v w) {d : DieId} (hw : w[d] = .inService) : v[d] = .inService := by
  rcases h d with k | k
  · exact k.symm.trans hw
  · exact absurd (k.symm.trans hw) nofun

theorem FencesOnly.classifies {v w : Vector DieClass 8} (h : FencesOnly v w) : Classifies v w := (Classifies.refl v).fences h

theorem Classifies.fenced {v w : Vector DieClass 8} (h : Classifies v w) {d : DieId} (hv : v[d] = .fenced) : w[d] = .fenced := by
  rcases h d with k | k | ⟨k, -⟩
  · exact k.trans hv
  · exact k
  · exact absurd (hv.symm.trans k) nofun

theorem Classifies.unclassified {v w : Vector DieClass 8} (h : Classifies v w) {d : DieId} (hv : v[d] ≠ .inService) (hw : w[d] = .inService) :
    v[d] = .unclassified := by
  rcases h d with k | k | ⟨k, -⟩
  · exact absurd (k.symm.trans hw) hv
  · exact absurd (k.symm.trans hw) nofun
  · exact k

/-- Settles O57: the start-up classification takes unclassified dies alone into service; every other command only fences dies, or resets the
whole module. -/
theorem fencedDiesNeverReturnToService : Obligations.FencedDiesNeverReturnToService := by
  intro c s t d ht
  simp only [Dev.fencedDie, Dev.inService, decide_eq_true_eq, decide_eq_false_iff_not, ← Dev.classes_get]
  have of_classifies (h : Classifies s.dev.classes t.dev.classes) :
      (s.dev.classes[d] = .fenced → t.dev.classes[d] ≠ .inService) ∧ (s.dev.classes[d] = .fenced → t.dev.classes[d] = .fenced) :=
    ⟨fun hf => by simp [h.fenced hf], h.fenced⟩
  by_cases hc : ∃ p k u, c = .startupTestDone p k u
  · have h : Classifies s.dev.classes t.dev.classes := by
      obtain ⟨p, k, u, rfl⟩ := hc
      exact execStartupTestDone_classifies p k u s t ht
    exact ⟨(of_classifies h).1, fun hs hi => ⟨h.unclassified hs hi, hc⟩, fun hf hn => absurd ((of_classifies h).2 hf) hn⟩
  · rcases exec_fencesOrWipes c s (fun p k u e => hc ⟨p, k, u, e⟩) t ht with h | h
    · exact ⟨(of_classifies h.classifies).1, fun hs hi => absurd (h.inService hi) hs, fun hf hn => absurd ((of_classifies h.classifies).2 hf) hn⟩
    · have hd : t.dev.classes[d] = .unclassified := (Dev.classes_get _ d).trans (h.cls d)
      exact ⟨by simp [hd], by simp [hd], fun _ _ => ⟨fun e => (Dev.classes_get _ e).trans (h.cls e), h.part⟩⟩

end Sys2Proof.Machine

namespace Sys2Proof.Machine
open Sys2Proof

/-! O8 (R415). Whether a ring set takes a line over or accepts a descriptor depends on the rings, the partitions, the bindings, the power control
and the bridge alone (`SameGate`). What wakes the dies at the exit to Run (EV-CLV-10 out of Repose, the cores' voltage) leaves these alone, since
no power-state entry is under way that an event could abort (R424). So the exit is `Dev.readKept` on a module that shows its ring sets what the
one before showed them, and with one line kept that is `Dev.readLine` of it. -/

/-! ### What leaves a ring set's gate alone -/

/-- `n` shows a ring set all that `m` shows it: what decides the fate of its doorbell line and of its head descriptor (R288 to R290, R415). -/
structure SameGate (m n : Dev) : Prop where
  rings : n.rings = m.rings
  parts : n.parts = m.parts
  binds : n.binds = m.binds
  power : n.power = m.power
  bridge : n.bridgeDown = m.bridgeDown

theorem SameGate.refl (m : Dev) : SameGate m m := ⟨rfl, rfl, rfl, rfl, rfl⟩

theorem SameGate.trans {a b c : Dev} (h : SameGate a b) (k : SameGate b c) : SameGate a c :=
  ⟨k.rings.trans h.rings, k.parts.trans h.parts, k.binds.trans h.binds, k.power.trans h.power, k.bridge.trans h.bridge⟩

theorem SameGate.ring {m n : Dev} (h : SameGate m n) (k : SetId) : n.ring k = m.ring k := by rw [Dev.ring, h.rings, Dev.ring]

theorem Dev.interrupted_congr {m n : Dev} (hp : n.parts = m.parts) (hb : n.binds = m.binds) (k : SetId) : n.interrupted k = m.interrupted k := by
  simp only [Dev.interrupted, Dev.partOf, Dev.owner, Dev.part, hp, hb]

theorem SameGate.interrupted {m n : Dev} (h : SameGate m n) (k : SetId) : n.interrupted k = m.interrupted k :=
  Dev.interrupted_congr h.parts h.binds k

theorem SameGate.foldl {α : Type} {m n : Dev} (h : SameGate m n) (l : List α) (f : Dev → α → Dev)
    (step : ∀ n a, SameGate m n → SameGate m (f n a)) : SameGate m (l.foldl f n) := by
  induction l generalizing n with
  | nil => exact h
  | cons a l ih => exact ih (step n a h)

theorem modDie_sameGate (m : Dev) (d : DieId) (f : Die → Die) : SameGate m (m.modDie d f) := ⟨rfl, rfl, rfl, rfl, rfl⟩

theorem eachHealthy_sameGate (m : Dev) (f : Die → Die) : SameGate m (m.eachHealthy f) :=
  (SameGate.refl m).foldl _ _ fun n d h => h.trans (modDie_sameGate n d f)

theorem SameGate.modRing {m n : Dev} (h : SameGate m n) (k : SetId) (f : RingSet → RingSet) : SameGate (m.modRing k f) (n.modRing k f) :=
  ⟨by simp only [Dev.modRing, h.rings], h.parts, h.binds, h.power, h.bridge⟩

theorem SameGate.setPower {m n : Dev} (h : SameGate m n) (f : Power → Power) :
    SameGate { m with power := f m.power } { n with power := f n.power } :=
  ⟨h.rings, h.parts, h.binds, congrArg f h.power, h.bridge⟩

theorem emit_sameGate (m : Dev) (o : Out) : SameGate m (m.emit o) := ⟨rfl, rfl, rfl, rfl, rfl⟩

theorem OnlyEvents.sameGate {m n : Dev} (h : OnlyEvents m n) (hp : n.power = m.power) : SameGate m n where
  rings := h.rings
  parts := h.parts
  binds := h.binds
  power := hp
  bridge := by rw [h.1]; rfl

theorem record_power (m : Dev) (det : Option DieId) (e : Event) : (m.record det e).power = m.power := by
  unfold Dev.record when
  dsimp only
  split <;> split <;> rfl

/-- R424: with no request in progress there is no power-state entry to abort. -/
theorem abortEntry_of_no_request (m : Dev) (blk : Nat) (h : m.power.req = none) : m.abortEntry blk = m := by
  simp only [Dev.abortEntry, h]

theorem SameGate.no_request {m n : Dev} (h : SameGate m n) (hp : m.power.req = none) : n.power.req = none := by rw [h.power, hp]

theorem SameGate.abortEntry {m n : Dev} (h : SameGate m n) (hp : m.power.req = none) (blk : Nat) : SameGate m (n.abortEntry blk) := by
  rwa [abortEntry_of_no_request n blk (h.no_request hp)]

theorem raise_sameGate (m : Dev) (det : Option DieId) (e : Event) (hp : m.power.req = none) : SameGate m (m.raise det e) := by
  have recorded : SameGate m (m.record det e) := (record_onlyEvents m det e).sameGate (record_power m det e)
  unfold Dev.raise
  cases decide (2 ≤ e.sev)
  · exact recorded
  · exact recorded.abortEntry hp _

/-! ### The exit to Run up to the kept lines -/

theorem ranOutLeaves_sameGate (m : Dev) (d : DieId) (h : m.power.req = none) : SameGate m (m.ranOutLeaves d) :=
  (SameGate.refl m).foldl _ _ fun _ _ hn => hn.trans (raise_sameGate _ _ _ (hn.no_request h))

/-- What wakes out of Repose before the state is entered (R430). -/
theorem wakeDeep_sameGate (m : Dev) (mv : Nat) (h : m.power.req = none) :
    SameGate m ((m.healthy.foldl (fun n d => n.ranOutLeaves d) m).eachHealthy (Die.wakeDeep mv)) :=
  ((SameGate.refl m).foldl _ _ fun _ _ hn => hn.trans (ranOutLeaves_sameGate _ _ (hn.no_request h))).trans
    (eachHealthy_sameGate _ _)

/-- The power control once Run is entered. -/
def Power.inRun (w : Power) : Power := { w with st := .run, byTimer := false, exitAsked := false }

/-- The exit to Run: the power control is in Run, and the lines kept on ring sets that no interruption holds are read. -/
theorem enterRun_eq_readKept (m : Dev) (h : m.power.req = none) :
    ∃ n, SameGate { m with power := m.power.inRun } n ∧ m.enterRun = n.readKept (setIds.filter (fun k => !n.interrupted k)) := by
  refine ⟨_, SameGate.trans (SameGate.setPower ?_ Power.inRun) (eachHealthy_sameGate _ _), rfl⟩
  split
  · exact wakeDeep_sameGate m _ h
  · exact .refl m

/-! ### Reading kept lines -/

/-- A ring set once a valid line is taken over: RELEASE frees the slots it covers (R289, R302). -/
def RingSet.takeLine (l : Doorbell) (r : RingSet) : RingSet :=
  { r with subTail := l.subTail, cplHead := l.cplHead, released := l.release,
           slots := if r.winSlots = 0 then r.slots
             else freeSlots r.winSlots (min (l.release - r.released).toNat r.winSlots) r.released r.slots }

/-- A ring set once its kept line is read. -/
def RingSet.unkeep (r : RingSet) : RingSet := { r with kept := none }

theorem Dev.modRing_modRing (m : Dev) (k : SetId) (f g : RingSet → RingSet) : (m.modRing k f).modRing k g = m.modRing k (g ∘ f) := by
  simp [Dev.modRing]

theorem Dev.modRing_congr (m : Dev) (k : SetId) {f g : RingSet → RingSet} (h : f (m.ring k) = g (m.ring k)) : m.modRing k f = m.modRing k g :=
  congrArg (fun r => { m with rings := m.rings.set k r }) h

/-- R288, R289: a valid line of an enabled ring set, with no entry under way to abort (R424), is taken over. -/
theorem readLine_of_lineOk (m : Dev) (k : SetId) (l : Doorbell) (he : (m.ring k).enabled = true) (hl : lineOk (m.ring k) l = true)
    (hp : m.power.req = none) : SameGate (m.modRing k (RingSet.takeLine l)) (m.readLine k l) := by
  have freed (gone : List Nat) (f : RingSet → RingSet) (hf : (m.ring k).takeLine l = f (m.ring k)) :
      SameGate (m.modRing k (RingSet.takeLine l)) ((gone.foldl (fun n s => n.emit (.backInvalidate k.val s)) m).modRing k f) := by
    rw [m.modRing_congr k hf]
    exact ((SameGate.refl m).foldl _ _ fun _ _ h => h.trans (emit_sameGate _ _)).modRing k f
  simp only [Dev.readLine, he, hl, Bool.not_true, Bool.false_eq_true, if_false]
  split
  · exact freed _ _ rfl
  · have hp' : (m.modRing k (RingSet.takeLine l)).power.req = none := hp
    refine SameGate.abortEntry ?_ hp' _
    exact freed _ _ rfl

theorem readKept_of_none_kept (m : Dev) (ks : List SetId) (h : ∀ j, (m.ring j).kept = none) : m.readKept ks = m := by
  induction ks with
  | nil => rfl
  | cons j ks ih =>
    rw [Dev.readKept, List.foldl_cons, h j]
    exact ih

/-- Where one ring set alone keeps a line, reading the kept lines of ring sets it is among is reading that line. -/
theorem readKept_of_one_kept (m : Dev) (k : SetId) (l : Doorbell) (ks : List SetId) (hk : k ∈ ks) (kept : (m.ring k).kept = some l)
    (alone : ∀ j ≠ k, (m.ring j).kept = none) (after : ∀ j, (((m.modRing k RingSet.unkeep).readLine k l).ring j).kept = none) :
    m.readKept ks = (m.modRing k RingSet.unkeep).readLine k l := by
  induction ks with
  | nil => exact absurd hk List.not_mem_nil
  | cons j ks ih =>
    by_cases hj : j = k
    · subst hj
      rw [Dev.readKept, List.foldl_cons, kept]
      exact readKept_of_none_kept _ ks after
    · rw [Dev.readKept, List.foldl_cons, alone j hj]
      exact ih ((List.mem_cons.mp hk).resolve_left (Ne.symm hj))

/-- The one kept line, where it is valid, is taken over by its ring set. -/
theorem readKept_takes_line (m : Dev) (k : SetId) (l : Doorbell) (ks : List SetId) (hk : k ∈ ks) (kept : (m.ring k).kept = some l)
    (alone : ∀ j ≠ k, (m.ring j).kept = none) (he : (m.ring k).enabled = true) (hl : lineOk (m.ring k) l = true) (hp : m.power.req = none) :
    SameGate (m.modRing k (RingSet.takeLine l ∘ RingSet.unkeep)) (m.readKept ks) := by
  have unkept : (m.modRing k RingSet.unkeep).ring k = (m.ring k).unkeep := Dev.modRing_ring ..
  have h := readLine_of_lineOk (m.modRing k RingSet.unkeep) k l (by rw [unkept]; exact he) (by rw [unkept]; exact hl) hp
  rw [Dev.modRing_modRing] at h
  rwa [readKept_of_one_kept m k l ks hk kept alone]
  intro j
  rw [h.ring]
  by_cases hj : j = k
  · rw [hj, Dev.modRing_ring]; rfl
  · rw [Dev.modRing_ring_ne _ _ _ _ hj, alone j hj]

/-! ### The commands -/

theorem mem_setIds (k : SetId) : k ∈ setIds := List.mem_map.mpr ⟨k.val, List.mem_range.mpr k.isLt, by simp⟩

theorem working_of_st_ne_run (m : Dev) (h : m.power.st ≠ .run) : m.working = false := by simp [Dev.working, h]

theorem execDescriptorAccept_of_not_working (k : SetId) (d : Desc) (s : State) (h : s.dev.working = false) :
    execDescriptorAccept k d s = .next s := by
  simp [execDescriptorAccept, h]

/-- R290: with all its conditions met, a descriptor enters the held copy. -/
theorem execDescriptorAccept_of_acceptable (k : SetId) (d : Desc) (s : State) (hw : s.dev.working = true) (hh : s.dev.holdsRings = false)
    (hi : s.dev.interrupted k = false) (ha : acceptable (s.dev.ring k) d = true) :
    execDescriptorAccept k d s = .next { s with dev := s.dev.modRing k (fun r =>
      { r with held := r.held ++ [heldCopy r.accepted (s.dev.epochOf k) s.dev.acceptedNow d], accepted := r.accepted + 1 }) } := by
  simp [execDescriptorAccept, hw, hh, hi, ha]

theorem execDoorbellSnoop_of_not_working (k : SetId) (l : Doorbell) (s : State) (hw : s.dev.working = false) (he : (s.dev.ring k).enabled = true)
    (hb : s.dev.bridgeDown = false) : execDoorbellSnoop k l s = .next { s with dev := s.dev.modRing k (fun r => { r with kept := some l }) } := by
  simp [execDoorbellSnoop, hw, he, hb]

theorem Power.setResult_req (w : Power) (src : Option Source) (r : Nat) : (w.setResult src r).req = w.req := by
  unfold Power.setResult
  split <;> rfl

/-- The module with its request answered and no longer in progress. -/
def Dev.requestDone (m : Dev) (r : PowerReq) : Dev := ({ m with power := { m.power with req := none } } : Dev).setPowerResult r.src 0

/-- POWER_STATE_REACHED at the end of an exit to Run that waits for no wake. -/
theorem execPowerStateReached_of_exit (s : State) (r : PowerReq) (h : s.dev.power.req = some r) (ha : r.accepted = true) (ht : r.target = 0)
    (hx : s.dev.power.exitAsked = false) : execPowerStateReached s = .next { s with dev := (s.dev.requestDone r).enterRun } := by
  simp [execPowerStateReached, Dev.requestDone, h, ha, ht, hx]

/-- The exit to Run with one valid line kept: Run is reached with no request in progress, and the line is taken over; nothing else that a ring
set's gate looks at changes. -/
theorem enterRun_takes_kept_line (m : Dev) (k : SetId) (l : Doorbell) (hp : m.power.req = none) (hi : m.interrupted k = false)
    (kept : (m.ring k).kept = some l) (alone : ∀ j ≠ k, (m.ring j).kept = none) (he : (m.ring k).enabled = true)
    (hl : lineOk (m.ring k) l = true) :
    SameGate (({ m with power := m.power.inRun } : Dev).modRing k (RingSet.takeLine l ∘ RingSet.unkeep)) m.enterRun := by
  obtain ⟨n, hn, e⟩ := enterRun_eq_readKept m hp
  have hr (j : SetId) : n.ring j = m.ring j := hn.ring j
  have hk : k ∈ setIds.filter (fun k => !n.interrupted k) := by
    rw [List.mem_filter, (hn.interrupted k).trans hi]
    exact ⟨mem_setIds k, rfl⟩
  rw [e]
  exact (hn.modRing k _).trans (readKept_takes_line n k l _ hk (by rw [hr, kept]) (fun j hj => by rw [hr, alone j hj]) (by rw [hr, he])
    (by rw [hr, hl]) (hn.no_request hp))

/-- Settles O8: out of Run the gate is shut and a snoop is kept; the exit to Run reads the kept line and opens the gate, which then asks for the
conditions of R290 alone. -/
theorem descriptorsAreAcceptedOnlyInRunAndHold : Obligations.DescriptorsAreAcceptedOnlyInRunAndHold := by
  intro s k l
  refine ⟨fun hs d => ?_, fun hs he hb => ?_, ?_⟩
  · exact execDescriptorAccept_of_not_working k d s (working_of_st_ne_run _ hs)
  · refine execDoorbellSnoop_of_not_working k l s (working_of_st_ne_run _ ?_) he hb
    rcases hs with hs | hs <;> simp [hs]
  · intro r _ hr ha _ ht hx he kept alone hi hl hb
    have hq : (s.dev.requestDone r).power.req = none := Power.setResult_req ..
    have gate := enterRun_takes_kept_line (s.dev.requestDone r) k l hq hi kept alone he hl
    have reached := execPowerStateReached_of_exit s r hr ha ht hx
    generalize (s.dev.requestDone r).enterRun = n at gate reached
    have hst : n.power.st = .run := by rw [gate.power]; rfl
    have hreq : n.power.req = none := gate.no_request hq
    have hbridge : n.bridgeDown = false := gate.bridge.trans hb
    have hring : n.ring k = (s.dev.ring k).unkeep.takeLine l := (gate.ring k).trans (Dev.modRing_ring ..)
    refine ⟨{ s with dev := n }, reached, hst, hreq, ?_, fun d hd => ?_⟩
    · rw [hring]; rfl
    · have accept := execDescriptorAccept_of_acceptable k d { s with dev := n } (by simp [Dev.working, hst, hbridge])
        (by simp [Dev.holdsRings, hreq]) ((gate.interrupted k).trans hi) hd
      refine ⟨_, heldCopy (n.ring k).accepted (n.epochOf k) n.acceptedNow d, accept, ?_, rfl, ?_⟩
      · rw [Dev.modRing_ring, hring]; rfl
      · rw [Dev.modRing_ring, hring]; rfl

end Sys2Proof.Machine

namespace Sys2Proof.Machine
open Sys2Proof

/-! O3 (R40, R270, R354, R379, R457). An offset below 0x80000 names a die and an offset in its 64 KiB, so an access to it is one to that die's
block, and an access from 0x80000 on is one to a module-wide block. An offset that no table of the spec lists falls to the last arm of its block:
it reads 0 and takes no write. A read that latches leaves the high half where the next read of the high half finds it. -/

/-! ### A die's block in BAR0 (R456) -/

section DieBlock
variable (m : Dev) (src : Source) (d : DieId) {off : Nat} (v : Word) (h : off < 0x10000)
include h

theorem dieOffset_lt : d.val * 0x10000 + off < 0x80000 := by omega

theorem dieOffset_mod : (d.val * 0x10000 + off) % 0x10000 = off := by omega

theorem dieOffset_die : Fin.ofNat 8 ((d.val * 0x10000 + off) / 0x10000) = d := by
  apply Fin.ext
  simp only [Fin.ofNat]
  omega

theorem dieOffset_toNat : (BitVec.ofNat 20 (d.val * 0x10000 + off)).toNat = d.val * 0x10000 + off := by
  rw [BitVec.toNat_ofNat, Nat.mod_eq_of_lt (by omega)]

theorem Dev.regValue_die : m.regValue src (d.val * 0x10000 + off) = if m.fencedDie d then 0xFFFFFFFF#32 else m.readDie d off := by
  simp only [Dev.regValue, if_pos (dieOffset_lt d h), dieOffset_die d h, dieOffset_mod d h]

theorem Dev.writeReg_die : m.writeReg src (d.val * 0x10000 + off) v = (m.writeDie d off v).map (fun n => if m.dieRegs d then n else m) := by
  simp only [Dev.writeReg, if_pos (dieOffset_lt d h), dieOffset_die d h, dieOffset_mod d h]

end DieBlock

/-! ### The module-wide blocks in BAR0 (R456) -/

section ModuleBlocks
variable (m : Dev) (src : Source) {off : Nat} (v : Word)

theorem Dev.writeReg_module (h : 0x80000 ≤ off) :
    m.writeReg src off v = (m.writeMod src off v).map (fun n => if off / 0x1000 = 0x83 && m.map.primary.isNone then m else n) := by
  simp only [Dev.writeReg, if_neg (Nat.not_lt.mpr h)]

theorem Dev.regValue_safMod (h : off / 0x1000 = 0x83) : m.regValue src off = m.readSafMod off := by
  simp only [Dev.regValue, if_neg (show ¬ off < 0x80000 by omega), h]

theorem Dev.readSafMod_of_no_primary (h : m.map.primary = none) : m.readSafMod off = if off = 0x83040 then 0x00000F00#32 else 0 := by
  simp only [Dev.readSafMod, h]

end ModuleBlocks

/-! ### Reserved offsets read 0 and hold nothing to write (R457) -/

theorem dieFields_offsets : ∀ e ∈ dieFields, e.1.off ∈ dieRegisters.map (fun e => e.1) := by decide

theorem modFields_offsets : ∀ e ∈ modFields, e.1.off ∈ moduleRegisters.map (fun e => e.1) := by decide

theorem findReg_of_offset_not_mem {t : List (RegDef × List FieldRule)} {l : List Nat} {off : Nat} (ht : ∀ e ∈ t, e.1.off ∈ l) (h : off ∉ l) :
    findReg t off = none :=
  List.find?_eq_none.mpr fun e he heq => h (of_decide_eq_true heq ▸ ht e he)

section Reserved
variable (m : Dev) (src : Source) (d : DieId) {off : Nat} (v : Word)

theorem Dev.readDie_reserved (h : off ∉ dieRegisters.map (fun e => e.1)) : m.readDie d off = 0 := by
  simp only [dieRegisters, List.cons_append, List.nil_append, List.map_cons, List.map_nil, List.mem_cons, List.not_mem_nil, not_or] at h
  unfold Dev.readDie
  split
  · simp [Die.readCal, h]
  · simp [Dev.readClv, h]
  · simp [Die.readCnv, h]
  · simp [Dev.readMce, h]
  · simp [Dev.readWun, h]
  · simp [Die.readStk, h]
  · simp [Dev.readCdm, h]
  · simp [Die.readSaf, h]
  · simp [Die.readTst, h]
  · rfl

theorem Dev.writeDie_reserved (h : off ∉ dieRegisters.map (fun e => e.1)) : m.writeDie d off v = none := by
  have hfield := findReg_of_offset_not_mem dieFields_offsets h
  simp only [dieRegisters, List.cons_append, List.nil_append, List.map_cons, List.map_nil, List.mem_cons, List.not_mem_nil, not_or] at h
  simp [Dev.writeDie, hfield, Dev.writeDieCmd, h]

theorem Dev.regValue_module_reserved (hlo : 0x80000 ≤ off) (h : off ∉ moduleRegisters.map (fun e => e.1)) (hrot : off ≠ 0x83104)
    (hfails : off ≠ 0x83108) : m.regValue src off = 0 := by
  simp only [moduleRegisters, List.cons_append, List.nil_append, List.map_cons, List.map_nil, List.mem_cons, List.not_mem_nil, not_or] at h
  unfold Dev.regValue
  rw [if_neg (Nat.not_lt.mpr hlo)]
  split
  · simp [Dev.readRing, h]
  · simp [Dev.readPart, h]
  · simp [Dev.readPwr, h]
  · cases hp : m.map.primary with
    | none => simp [m.readSafMod_of_no_primary hp, h]
    | some d => simp [Dev.readSafMod, hp, h]
  · simp [Dev.readTstMod, h]
  · rfl

theorem Dev.writeMod_reserved (h : off ∉ moduleRegisters.map (fun e => e.1)) : m.writeMod src off v = none := by
  have hfield := findReg_of_offset_not_mem modFields_offsets h
  simp only [moduleRegisters, List.cons_append, List.nil_append, List.map_cons, List.map_nil, List.mem_cons, List.not_mem_nil, not_or] at h
  simp [Dev.writeMod, hfield, Dev.writeModCmd, h]

end Reserved

/-! ### Writes that nothing takes -/

section Refused
variable (s : State) (d : DieId) {off : Nat} (v : Word)

theorem execRegisterWrite_of_unchanged {a : BitVec 20} (h : (s.dev.writeReg .host a.toNat v).getD s.dev = s.dev) :
    execRegisterWrite a v s = .next s := by
  simp [execRegisterWrite, h]

theorem execRegisterWrite_die_reserved (hoff : off < 0x10000) (h : off ∉ dieRegisters.map (fun e => e.1)) :
    execRegisterWrite (BitVec.ofNat 20 (d.val * 0x10000 + off)) v s = .next s := by
  apply execRegisterWrite_of_unchanged
  rw [dieOffset_toNat d hoff, Dev.writeReg_die _ _ _ _ hoff, Dev.writeDie_reserved _ _ _ h]
  rfl

theorem execRegisterWrite_die_fenced (hoff : off < 0x10000) (h : s.dev.fencedDie d = true) :
    execRegisterWrite (BitVec.ofNat 20 (d.val * 0x10000 + off)) v s = .next s := by
  have hclosed : s.dev.dieRegs d = false := by simp [Dev.dieRegs, h]
  apply execRegisterWrite_of_unchanged
  rw [dieOffset_toNat d hoff, Dev.writeReg_die _ _ _ _ hoff]
  cases s.dev.writeDie d off v <;> simp [hclosed]

theorem execRegisterWrite_module_reserved (hlo : 0x80000 ≤ off) (hhi : off < 0x100000) (h : off ∉ moduleRegisters.map (fun e => e.1)) :
    execRegisterWrite (BitVec.ofNat 20 off) v s = .next s := by
  apply execRegisterWrite_of_unchanged
  rw [BitVec.toNat_ofNat, Nat.mod_eq_of_lt hhi, Dev.writeReg_module _ _ _ hlo, Dev.writeMod_reserved _ _ _ h]
  rfl

theorem execRegisterWrite_safMod_of_no_primary (hlo : 0x83000 ≤ off) (hhi : off < 0x84000) (h : s.dev.map.primary = none) :
    execRegisterWrite (BitVec.ofNat 20 off) v s = .next s := by
  have hblock : off / 0x1000 = 0x83 := by omega
  apply execRegisterWrite_of_unchanged
  rw [BitVec.toNat_ofNat, Nat.mod_eq_of_lt (by omega), Dev.writeReg_module _ _ _ (by omega)]
  cases s.dev.writeMod .host off v <;> simp [hblock, h]

end Refused

/-! ### Reads that latch (R40, R270, R354, R379) -/

/-- The state after a host read of `off` that returned `v` and left the module as `n` but for what left at the connectors and the free draws. -/
def State.afterRead (s : State) (off : Nat) (v : Word) (n : Dev) : State :=
  s.withDev { n with out := s.dev.out ++ [.regValue off v], free := s.dev.free + 2 }

theorem hostRead_of_latch {s : State} {off : Nat} {n : Dev} (up : s.dev.regsUp = true) (hl : s.dev.latch off = n) (hout : n.out = s.dev.out)
    (hfree : n.free = s.dev.free) : s.go (fun m => m.hostRead off) = .next (s.afterRead off (s.dev.regValue .host off) n) := by
  simp [Dev.hostRead, up, Dev.readReg, hl, Dev.emit, Dev.drawn, hout, hfree, State.afterRead, State.withDev]

section DieLatch
variable (m : Dev) (d : DieId)

/-- What a read at an offset of a die's block latches there. -/
def Dev.latched (m : Dev) (off : Nat) (x : Die) : Die :=
  match off with
  | 0x0 => { x with dcntHi := (x.dcnt >>> 32).setWidth 32 }
  | 0x4304 => { x with stepHi := ((m.part x.wunPart).com.steps >>> 32).setWidth 32 }
  | 0x4324 => { x with normHi := ((m.part x.wunPart).com.norm >>> 32).setWidth 32 }
  | 0x5014 => { x with stack := { x.stack with ueHi := (x.stack.ueAddr >>> 32).setWidth 5 } }
  | _ => x

theorem Dev.latch_die {off : Nat} (h : off < 0x10000) (hf : m.fencedDie d = false) :
    m.latch (d.val * 0x10000 + off) = m.modDie d (m.latched off) := by
  simp only [Dev.latch, if_pos (dieOffset_lt d h), dieOffset_die d h, dieOffset_mod d h, hf]
  rfl

theorem Dev.latched_cls (off : Nat) (x : Die) : (m.latched off x).cls = x.cls := by
  unfold Dev.latched
  split
  all_goals rfl

theorem Dev.latched_wunPart (off : Nat) (x : Die) : (m.latched off x).wunPart = x.wunPart := by
  unfold Dev.latched
  split
  all_goals rfl

end DieLatch

theorem Part.stepField_of_almanac {y : Part} (w : Word) (h : y.almanac.isSome = true) : y.stepField (fun _ => w) = w := by
  obtain ⟨a, ha⟩ := Option.isSome_iff_exists.mp h
  simp [Part.stepField, ha]

/-- A read of a low half in a die's block, where the high half then reads `w`. -/
theorem hostRead_die_latches {s : State} {d : DieId} {lo hi : Nat} {w : Word} (up : s.dev.regsUp = true) (hf : s.dev.fencedDie d = false)
    (hlo : lo < 0x10000) (hhi : hi < 0x10000)
    (high : ∀ n : Dev, n.parts = s.dev.parts → n.die d = s.dev.latched lo (s.dev.die d) → n.readDie d hi = w) :
    ∃ t, s.go (fun m => m.hostRead (d.val * 0x10000 + lo)) = .next t ∧ t.dev.regValue .host (d.val * 0x10000 + hi) = w
      ∧ t = s.afterRead (d.val * 0x10000 + lo) (s.dev.readDie d lo) (s.dev.modDie d (s.dev.latched lo)) := by
  have hv : s.dev.regValue .host (d.val * 0x10000 + lo) = s.dev.readDie d lo := by simp [Dev.regValue_die _ _ _ hlo, hf]
  refine ⟨_, hv ▸ hostRead_of_latch up (s.dev.latch_die d hlo hf) rfl rfl, ?_, rfl⟩
  generalize hn : (s.afterRead (d.val * 0x10000 + lo) (s.dev.readDie d lo) (s.dev.modDie d (s.dev.latched lo))).dev = n
  have hdie : n.die d = s.dev.latched lo (s.dev.die d) := by
    rw [← hn]
    exact Dev.modDie_die ..
  have hparts : n.parts = s.dev.parts := by
    rw [← hn]
    rfl
  have hopen : n.fencedDie d = false := by rw [Dev.fencedDie, hdie, Dev.latched_cls, ← hf, Dev.fencedDie]
  rw [Dev.regValue_die _ _ _ hhi, hopen]
  exact high n hparts hdie

section LatchingReads
variable {s : State} {d : DieId} (up : s.dev.regsUp = true) (hf : s.dev.fencedDie d = false)
include up hf

theorem execCalDcntLoRead_latches :
    ∃ t, execCalDcntLoRead d s = .next t ∧ t.dev.regValue .host (d.val * 0x10000 + 4) = ((s.dev.die d).dcnt >>> 32).setWidth 32
      ∧ t = s.afterRead (d.val * 0x10000) ((s.dev.die d).dcnt.setWidth 32)
        (s.dev.modDie d (fun z => { z with dcntHi := ((s.dev.die d).dcnt >>> 32).setWidth 32 })) := by
  have hread := hostRead_die_latches (lo := 0) (hi := 4) up hf (by decide) (by decide) fun n _ hd => congrArg Die.dcntHi hd
  rw [Nat.add_zero] at hread
  exact hread

theorem execUeAddrLoRead_latches :
    ∃ t, execUeAddrLoRead d s = .next t
      ∧ t.dev.regValue .host (d.val * 0x10000 + 0x5018) = (((s.dev.die d).stack.ueAddr >>> 32).setWidth 5).setWidth 32
      ∧ t = s.afterRead (d.val * 0x10000 + 0x5014) ((s.dev.die d).stack.ueAddr.setWidth 32 &&& 0xFFFFFFC0#32)
        (s.dev.modDie d (fun z => { z with stack := { z.stack with ueHi := ((s.dev.die d).stack.ueAddr >>> 32).setWidth 5 } })) :=
  hostRead_die_latches up hf (by decide) (by decide) fun n _ hd => congrArg (fun x : Die => x.stack.ueHi.setWidth 32) hd

/-- The W-unit registers that show a field of the running partition (R270): a read of one low half, where the high one shows what was latched. -/
theorem hostRead_stepField_latches {lo hi : Nat} {v w : Word} (loaded : (s.dev.part (s.dev.die d).wunPart).almanac.isSome = true)
    (hlo : lo < 0x10000) (hhi : hi < 0x10000)
    (low : s.dev.readDie d lo = (s.dev.part (s.dev.die d).wunPart).stepField (fun _ => v))
    (high : ∀ n : Dev, n.die d = s.dev.latched lo (s.dev.die d) → n.readDie d hi = (n.part (n.die d).wunPart).stepField (fun _ => w)) :
    ∃ t, s.go (fun m => m.hostRead (d.val * 0x10000 + lo)) = .next t ∧ t.dev.regValue .host (d.val * 0x10000 + hi) = w
      ∧ t = s.afterRead (d.val * 0x10000 + lo) v (s.dev.modDie d (s.dev.latched lo)) := by
  have hlow : s.dev.readDie d lo = v := low.trans (Part.stepField_of_almanac v loaded)
  refine hlow ▸ hostRead_die_latches up hf hlo hhi fun n hparts hd => ?_
  have hpart : n.part (n.die d).wunPart = s.dev.part (s.dev.die d).wunPart := by rw [hd, Dev.latched_wunPart, Dev.part, hparts, Dev.part]
  rw [high n hd, hpart, Part.stepField_of_almanac w loaded]

theorem execStepCountLoRead_latches (loaded : (s.dev.part (s.dev.die d).wunPart).almanac.isSome = true) :
    ∃ t, execStepCountLoRead d s = .next t
      ∧ t.dev.regValue .host (d.val * 0x10000 + 0x4308) = ((s.dev.part (s.dev.die d).wunPart).com.steps >>> 32).setWidth 32
      ∧ t = s.afterRead (d.val * 0x10000 + 0x4304) ((s.dev.part (s.dev.die d).wunPart).com.steps.setWidth 32)
        (s.dev.modDie d (fun z => { z with stepHi := ((s.dev.part (s.dev.die d).wunPart).com.steps >>> 32).setWidth 32 })) :=
  hostRead_stepField_latches up hf loaded (by decide) (by decide) rfl fun n hd =>
    congrArg (fun w => (n.part (n.die d).wunPart).stepField (fun _ => w)) (congrArg Die.stepHi hd)

theorem execNormLoRead_latches (loaded : (s.dev.part (s.dev.die d).wunPart).almanac.isSome = true) :
    ∃ t, execNormLoRead d s = .next t
      ∧ t.dev.regValue .host (d.val * 0x10000 + 0x4328) = ((s.dev.part (s.dev.die d).wunPart).com.norm >>> 32).setWidth 32
      ∧ t = s.afterRead (d.val * 0x10000 + 0x4324) ((s.dev.part (s.dev.die d).wunPart).com.norm.setWidth 32)
        (s.dev.modDie d (fun z => { z with normHi := ((s.dev.part (s.dev.die d).wunPart).com.norm >>> 32).setWidth 32 })) :=
  hostRead_stepField_latches up hf loaded (by decide) (by decide) rfl fun n hd =>
    congrArg (fun w => (n.part (n.die d).wunPart).stepField (fun _ => w)) (congrArg Die.normHi hd)

end LatchingReads

theorem execLastAgreeLoRead_latches {s : State} (up : s.dev.regsUp = true) (hp : s.dev.map.primary.isSome = true) :
    ∃ t, execLastAgreeLoRead s = .next t ∧ t.dev.regValue .host 0x83118 = (s.dev.digest.lastAgree >>> 32).setWidth 32
      ∧ t = s.afterRead 0x83114 (s.dev.digest.lastAgree.setWidth 32)
        { s.dev with digest := { s.dev.digest with agreeHi := (s.dev.digest.lastAgree >>> 32).setWidth 32 } } := by
  obtain ⟨d, hd⟩ := Option.isSome_iff_exists.mp hp
  have hlow : s.dev.regValue .host 0x83114 = s.dev.digest.lastAgree.setWidth 32 := by
    simp [Dev.regValue_safMod, Dev.readSafMod, hd]
  refine ⟨_, hlow ▸ hostRead_of_latch up (by simp [Dev.latch, hp]) rfl rfl, ?_, rfl⟩
  simp [Dev.regValue_safMod, Dev.readSafMod, State.afterRead, State.withDev, hd]

/-! ### The obligation -/

/-- Settles O3. A latching read leaves the high half in the field that the high register shows; every other clause says which block an access
reaches and that nothing there answers it. -/
theorem latchingReadsAndUnsupportedAccesses : Obligations.LatchingReadsAndUnsupportedAccesses := by
  constructor
  · intro s d up hf
    exact ⟨execCalDcntLoRead_latches up hf, fun loaded => ⟨execStepCountLoRead_latches up hf loaded, execNormLoRead_latches up hf loaded⟩,
      execUeAddrLoRead_latches up hf, fun hp => execLastAgreeLoRead_latches up hp⟩
  · intro s up
    have hup : s.dev.regsUp = true := decide_eq_true up
    refine ⟨fun off bytes isWrite _ => ?aer, fun d off src v hoff _ => ⟨fun hf h => ⟨?dieRead, ?dieWrite⟩, fun hf => ⟨?fencedRead, ?fencedWrite⟩⟩,
      fun off src v hlo hhi _ h hrot hfails => ⟨?modRead, ?modWrite⟩, fun off src v hlo hhi _ hp => ⟨?safRead, ?safWrite⟩,
      fun d src hp hf => ?primary⟩
    case aer =>
      show execUnsupportedRegisterAccess off bytes isWrite s = _
      simp [execUnsupportedRegisterAccess, hup, Dev.emit, State.withDev]
    case dieRead => simp [Dev.regValue_die _ _ _ hoff, hf, Dev.readDie_reserved _ _ h]
    case dieWrite => exact execRegisterWrite_die_reserved s d v hoff h
    case fencedRead => simp [Dev.regValue_die _ _ _ hoff, hf]
    case fencedWrite => exact execRegisterWrite_die_fenced s d v hoff hf
    case modRead => exact Dev.regValue_module_reserved _ src hlo h hrot hfails
    case modWrite => exact execRegisterWrite_module_reserved s v hlo hhi h
    case safRead => rw [Dev.regValue_safMod _ _ (by omega), Dev.readSafMod_of_no_primary _ hp]
    case safWrite => exact execRegisterWrite_safMod_of_no_primary s v hlo hhi hp
    case primary =>
      simp [Dev.regValue_die, Dev.regValue_safMod, Dev.readSafMod, Dev.readDie, hp, hf]

end Sys2Proof.Machine
